-- ==== Sys2Proof/Word.lean ====
section
/-! DEFINITION. Word.lean: the word types of the module, and the table type that holds its repeated units. -/
namespace Sys2Proof

/-- One byte of a memory. -/
abbrev Byte := BitVec 8
/-- A 16-bit value: a counter, a 16-bit number format. -/
abbrev Half := BitVec 16
/-- A 32-bit value: a ring index, an FP32 pattern. -/
abbrev Word := BitVec 32
/-- A 64-bit value: a register, a descriptor word. -/
abbrev DWord := BitVec 64

/-- Repeated units by number (contexts, tiles, ports …): plain pairs; a number that is not listed
stands for the unit as reset leaves it. -/
abbrev Tbl (α : Type) := List (Nat × α)

end Sys2Proof
end

