-- ==== Sys2Proof/Syntax.lean ====
section
/-! DEFINITION. Syntax.lean: the commands that the block takes, one constructor per row of spec/opcode_table.json.

A command is either a descriptor's issue (it names the admitted descriptor) or an event at the module's edge (a
register write, a packet, a sample, an expiry), with the data that only the outside knows. -/
namespace Sys2Proof

/-- An admitted descriptor by context, ring and the index of its first slot (R32). -/
structure DescRef where
  ctx : Nat
  ring : Nat
  index : Word
  deriving DecidableEq, Repr

/-- Where a register write goes: the register address space (R470), or a context's setup window (R40). -/
inductive RegTarget where
  | space (addr : Nat)
  | window (ctx off : Nat)
  deriving DecidableEq, Repr

/-- A host access at an attachment's function (R425, R427): reads and writes of BAR0 or past it, a read of 4 B of the capability DVSEC
(R469), and the accesses that R427 turns away; of the rest of its configuration space a read of 4 B of the header (R490), a write of a half of
BAR0's address (R425), a read and a clearing write of the AER error status, a write of the power state, D3hot or D0 (R423), and a read and a
write of MSI-X's control, its enable and its function mask (R419, R423). -/
inductive TlpKind where
  | read (size : Nat)
  | config
  | write (size : Nat) (data : DWord)
  | malformed
  | ecrc
  | poisoned
  | header
  | bar (high : Bool) (v : Word)
  | aer
  | aerClear (v : Word)
  | power (d3 : Bool)
  | msix (enable mask : Bool)
  | msixRead
  deriving DecidableEq, Repr

/-- What a host response answers (R427): a fetch of ring (ctx, ring), a completion record of ring (ctx, ring) at a CQ
index, a descriptor's data access at a virtual address, data that arrives for the module's view of a host's memory, or nothing that the module
asked for. -/
inductive HostResp where
  | data (dom addr : Nat) (bytes : List Byte)
  | fetchErr (ctx ring : Nat)
  | recordErr (ctx ring : Nat) (index : Word)
  | dataErr (d : DescRef) (va : DWord) (write : Bool)
  | unknown (attach : Nat)
  deriving DecidableEq, Repr

/-- A store that holds a context's words or passes them on, outside scratchpads, pools and memories (R450, R452, R460). -/
inductive Store where
  | fabric
  | chainBuffer
  | frontUnit
  | counterBlock
  | reductionStore
  | ioFabric
  | saveImage
  | planTable
  | chainTable
  | hailGroup
  | pageTables
  deriving DecidableEq, Repr

/-- An uncorrectable word of such a store: the number of the object that it belongs to (plan, chain, shard group, key/value space, front, counter,
reduction slot), the tile, stack or I/O die, the seat, and the 64 B line that a descriptor is told (R452). -/
structure BadWord where
  store : Store
  item : Nat
  unit : Nat
  seat : Nat
  line : Nat
  deriving DecidableEq, Repr

/-- An uncorrectable word outside what a patrol scrub reads (R460): of a context's state, of a routing entry, of the ring engine or a sequencer
with the descriptors that it held, or of Bluone's SRAM. -/
inductive Upset where
  | store (ctx : Nat) (w : BadWord)
  | route (epid : Nat)
  | ringEngine (held : List DescRef)
  | bluone
  deriving DecidableEq, Repr

/-- What a scrub finds at a byte address of its unit: a corrected error (with the pin, for a stack), or an uncorrectable one; and what the checks of
the module's other SRAM have found meanwhile (log entry 92). -/
inductive Finding where
  | corrected (addr pin : Nat)
  | uncorrectable (addr : Nat)
  | upset (u : Upset)
  deriving DecidableEq, Repr

/-- A flit slot of a Vexja frame (R288): its virtual channel, and the flit's words; of the last data flit of a PUT only those words
that carry data (R294, R301). -/
structure FSlot where
  vc : Nat
  words : List DWord
  deriving DecidableEq, Repr

/-- A Vexja frame as a port receives it (R288): the twenty slots, bits [63:0] and [127:64] of the frame control, the CRC, and whether FEC could
correct every codeword (R286). -/
structure Frame where
  slots : List FSlot
  lo : DWord
  hi : DWord
  crc : Word
  fec : Bool
  deriving DecidableEq, Repr

/-- What the decoder makes of a Permafrost line as sensed (R242, R243): the bits that it corrects, none where it fails; MARGIN; and whether the
line's TAG is the one expected. -/
structure Sense where
  bits : Option Nat
  margin : Nat
  tag : Bool
  deriving DecidableEq, Repr

/-- What proves that the owner sends a command (R440): the nonce, the owner's public key and the signature; and whether the management
connector stays mated until the answer has left (R484). -/
structure OwnerProof where
  nonce : List Byte
  pk : List Byte
  sig : List Byte
  mated : Bool
  deriving DecidableEq, Repr

/-- How the fuses take that the ROM programs (R444, R448): by number of the staged token, the fuses of its block that take where not all do, byte
for byte; and the token that programs when the input is lost, with the fuses that have taken by then. -/
structure RomFuses where
  bad : List (Nat × List Byte)
  cut : Option (Nat × List Byte)
  deriving DecidableEq, Repr

/-- What the reset self-test finds on a core (R455): its number, a bad PE row, its bad physical columns (0 to 131), the failing rows of its
scratchpad as bank and row. -/
structure CoreTest where
  core : Nat
  badRow : Bool
  badCols : List Nat
  badRows : List (Nat × Nat)
  deriving DecidableEq, Repr

/-- What the reset self-test finds on a tile (R455): its number, its cores with findings, the failing rows of its pool as bank group and row. -/
structure TileTest where
  tile : Nat
  cores : List CoreTest
  badRows : List (Nat × Nat)
  deriving DecidableEq, Repr

/-- A port's cable as Bluone finds it (R478): none; one whose identification memory cannot be read; or its length in millimetres and whether its
type is passive copper. -/
inductive Cable where
  | none
  | unreadable
  | read (mm : Nat) (copper : Bool)
  deriving DecidableEq, Repr

/-- A DIMM as its SPD and its training show it (R216): 0 no DIMM, 1 an MRDIMM, 2 an RDIMM, 3 another type; whether an MRDIMM supports
8,800 or 12,800 MT/s, and 12,800; ECC; device width; ranks; GiB; and whether it trains. -/
structure Spd where
  kind : Nat
  speedOk : Bool
  fast : Bool
  ecc : Bool
  width : Nat
  ranks : Nat
  gib : Nat
  trains : Bool
  deriving DecidableEq, Repr

/-- A step of the power-up sequence that completes (R463), with what only the hardware finds. Steps 1, 2 and 5 are the boot stages' own. -/
inductive BringUp where
  /-- Step 3: the rails are up. -/
  | rails
  /-- Step 4: the tiles apply the redundancy map. -/
  | redundancy
  /-- Step 6: the stacks that fail, and the pins that lane repair remaps. -/
  | stks (failed : List Nat) (remaps : List (Nat × Nat))
  /-- Step 7: the reset self-test's findings. -/
  | selfTest (tiles : List TileTest)
  /-- Step 8: STATE of each Permafrost device, and of each of its canaries the MARGIN and whether it needed a retry. -/
  | pmt (devs : List (Nat × List (Nat × Bool)))
  /-- Step 9: the sixteen DIMM channels. -/
  | dimms (spd : List Spd)
  /-- Step 10: the owner configuration. -/
  | config
  /-- Step 11: Vexja training. -/
  | ports
  /-- Step 12: modules in service on each UCIe attach. -/
  | attach (io0 io1 : Nat)
  /-- Step 13: the domains are enabled. -/
  | enable
  deriving DecidableEq, Repr

/-- The owner configuration (R439). The spec gives its contents and no layout: a structure, beside the bytes that
its signature covers. -/
structure OwnerCfg where
  /-- The 64-bit sequence number. R439; staged by the owner. -/
  seq : DWord
  /-- MOD_DOM_MAP, MOD_DOM_POLICY and MOD_DOM_QUOTA by domain. R439; staged by the owner. -/
  domains : Tbl (DWord × DWord × DWord)
  /-- The owner's locked ranges: base and bytes. R439, R441; staged by the owner. -/
  locks : List (Nat × Nat)
  /-- LNK_CFG. R439; staged by the owner. -/
  lnkCfg : DWord
  /-- LNK_PEER_EXPECT by port. R439; staged by the owner. -/
  peerExpect : Tbl DWord
  /-- The routing table: EPID and entry. R439, R295; staged by the owner. -/
  routes : Tbl Half
  /-- The initial PWR_CFG; none leaves it. R439; staged by the owner. -/
  pwrCfg : Option DWord
  /-- MOD_SCHED_CFG; none leaves it. R439; staged by the owner. -/
  schedCfg : Option DWord
  /-- MOD_MC_CFG.STK_GIB. R439; staged by the owner. -/
  stkGib : Nat
  /-- LNK_RED_CFG.SPILL_GIB. R439; staged by the owner. -/
  spillGib : Nat
  /-- The cyclic-table owner domain. R439; staged by the owner. -/
  cycOwner : Nat
  /-- PREFER_B. R439, R435; staged by the owner. -/
  preferB : Bool
  /-- The owner's public key. R439; staged by the owner. -/
  pk : List Byte
  /-- The signature under XR96-CFG. R439; staged by the owner. -/
  sig : List Byte
  deriving DecidableEq, Repr

/-- A command: one row of spec/opcode_table.json each. -/
inductive Instr where
  /-- A doorbell write of SQ_TAIL is classified as no effect, stale, accepted or a violation. R37 -/
  | sqTailWrite (c k : Nat) (t : Word)
  /-- A doorbell write of CQ_HEAD is accepted, counted as stale or counted as a violation, and it frees completion entries. R38 -/
  | cqHeadWrite (c k : Nat) (h : Word)
  /-- A doorbell write of IRQ_ARM arms the ring's interrupt, and raises it at once if a qualifying record is pending. R39 -/
  | irqArm (c k : Nat)
  /-- Any other write to a doorbell page is ignored and counted in DB_STALE_CNT. R36 -/
  | doorbellStrayWrite (c off : Nat)
  /-- A write to a register that has no row of its own acts according to the access codes of its fields, including RW1C clears under R43. R10 -/
  | registerWrite (target : RegTarget) (v : DWord)
  /-- The ring engine requests a fetch read of up to 32 slots once a new tail is visible and admission is allowed. R35 -/
  | fetchRequest (c k n : Nat)
  /-- A returned fetch read is taken: checks 1 to 8 run, a completion entry is reserved and SQ_HEAD advances. R49 -/
  | descriptorAdmit (c k : Nat) (ws : List DWord)
  /-- A fetch read returns an error from the host: FETCH_ERR is set and ENABLE is cleared. R44 -/
  | fetchErr (c k : Nat)
  /-- A unit finishes a descriptor: its writes are placed and its completion record is written. R54 -/
  | descriptorComplete (ref : DescRef)
  /-- The host refuses a completion write: the record is dropped, later records are dropped and ENABLE is cleared. R44 -/
  | writeErr (c k : Nat) (i : Word)
  /-- A write of HST_RING_CFG.RESET resets the ring's indices and counters when the ring is disabled and idle, and sets CFG_VIOL otherwise. R41 -/
  | ringReset (c k : Nat) (v : DWord)
  /-- Setting ENABLE resumes fetching from SQ_HEAD and arms the ring. R42 -/
  | ringEnable (c k : Nat) (v : DWord)
  /-- Clearing ENABLE stops admission at once. R42 -/
  | ringDisable (c k : Nat) (v : DWord)
  /-- A write of a ring base is refused with CFG_VIOL while the ring is enabled or the base is outside the host range. R42 -/
  | ringBaseWrite (c k : Nat) (cq : Bool) (v : DWord)
  /-- A write of HST_CTX_CFG acts only in BOUND, subject to the domain policy (R364), and is counted in CTRL_IGNORED otherwise. R59 -/
  | ctxCfgWrite (c : Nat) (v : DWord)
  /-- The START command queues a BOUND context, which enters RUN when it is placed. R59 -/
  | start (c : Nat)
  /-- The SUSPEND command pre-empts the context and sets SUSPENDED. R375 -/
  | suspend (c : Nat)
  /-- The RESUME command clears SUSPENDED and the cached translations, so the context waits for placement. R375 -/
  | resume (c : Nat)
  /-- The CLOSE command takes the context to DRAIN or EMPTY, and withdraws the work of a paused context. R59 -/
  | close (c : Nat)
  /-- The KILL command tears the context down. R63 -/
  | kill (c : Nat)
  /-- Once every unit has stopped, the remaining admitted descriptors complete with 0x71. R387 -/
  | teardownStopped (c : Nat)
  /-- NOP completes with OK. R48 -/
  | nop (d : DescRef)
  /-- FENCE completes with OK once its fence condition is met. R48 -/
  | fence (d : DescRef)
  /-- FREEZE waits until no other descriptor of the context executes, then issues and sets FROZEN. R61 -/
  | freeze (d : DescRef)
  /-- THAW clears FROZEN at its issue. R61 -/
  | thaw (d : DescRef)
  /-- MATMUL issues one or more array passes that multiply skewed operands and drain the results. R96 -/
  | matmul (d : DescRef)
  /-- A pass becomes clean and the commit queue releases its rows to the scratchpad. R108 -/
  | passClean (d : DescRef)
  /-- A residue or parity check fails: the pass is abandoned without writes and the descriptor completes with 0x30 or 0x31. R115 -/
  | arrayFault (d : DescRef) (t q kind row col : Nat)
  /-- A pre-empted array reaches its checkpoint boundary, and its accumulator sets enter the save image. R114 -/
  | arrayCheckpointReached (c t q checkpoint : Nat)
  /-- CSKY_ARM arms Clear-sky for the next MATMUL of the ring. R118 -/
  | cskyArm (d : DescRef)
  /-- At an armed checkpoint, or before finalisation, the tree stacks of a row group are written to context memory. R119 -/
  | cskySnapshot (d : DescRef)
  /-- VSTREAM streams a tensor through inline or chained stages from scratchpad to scratchpad. R123 -/
  | vstream (d : DescRef)
  /-- CHAIN_LOAD fetches, checks and installs a chain record in a slot of the chain table. R128 -/
  | chainLoad (d : DescRef)
  /-- A chain record fetched from the home I/O die arrives after a cache miss, and the waiting issue proceeds. R127 -/
  | chainCacheFill (c t q slot : Nat)
  /-- PLAN_LOAD fetches, checks and installs a plan record. R143 -/
  | planLoad (d : DescRef)
  /-- BOUND_SET writes the three dimensions of a bound slot. R145 -/
  | boundSet (d : DescRef)
  /-- WC_SET sets NEXT, LIMIT and STEP of a work counter and empties its redo list. R151 -/
  | wcSet (d : DescRef)
  /-- TILED_GEMM sets counters and bitmap units and spreads a matrix product over the joined cores as work tiles. R154 -/
  | tiledGemm (d : DescRef)
  /-- A fetch on a work counter returns a redo entry, the next number or EXHAUSTED. R149 -/
  | workCounterFetch (ref : DescRef) (t q : Nat)
  /-- A core test-and-sets a completion-bitmap node, then leaves it, discards a duplicate, or combines with the sibling. R161 -/
  | nodeMark (ref : DescRef) (t q : Nat)
  /-- Once every work tile of a section is marked, the next section's counters and bits are set. R164 -/
  | sectionStart (ref : DescRef)
  /-- KV_SPACE_SET checks a space record, then initialises or empties a key/value space. R176 -/
  | kvSpaceSet (d : DescRef)
  /-- KV_SEQ_SET defines or undefines a sequence and its map. R183 -/
  | kvSeqSet (d : DescRef)
  /-- KV_APPEND quantises and appends tokens to the pages of one layer, copying on write where needed. R186 -/
  | kvAppend (d : DescRef)
  /-- KV_SCATTER copies tokens into the pages of several layers without conversion. R187 -/
  | kvScatter (d : DescRef)
  /-- KV_FORK shares a parent's prefix pages with a child sequence. R196 -/
  | kvFork (d : DescRef)
  /-- KV_FREE truncates or undefines a sequence, retiring the pages it drops. R197 -/
  | kvFree (d : DescRef)
  /-- KV_PREFETCH promotes pages to the stack tier, recomputing dropped ones, and pins or unpins them. R191 -/
  | kvPrefetch (d : DescRef)
  /-- ATTN runs block-recomputed attention, forward or backward, over work tiles. R170 -/
  | attn (d : DescRef)
  /-- A page move finishes its copy and switches FRAME and TIER in one page-agent update. R190 -/
  | pageMoveComplete (c k page : Nat)
  /-- The recompute of a dropped page completes and the page becomes SEALED in the stack tier. R194 -/
  | pageRecomputeComplete (c k page : Nat)
  /-- XLATE_INVAL removes the context's cached translations over a range once earlier work has completed. R212 -/
  | xlateInval (d : DescRef)
  /-- A write of HST_CTX_PT_ROOT acts only in BOUND or PAUSED and is counted as ignored otherwise. R212 -/
  | ptRootWrite (c : Nat) (v : DWord)
  /-- A page-table walk after a translation-cache miss completes with a translation or a fault. R209 -/
  | pageWalkComplete (ref : DescRef) (va : DWord) (write : Bool)
  /-- DMA_COPY copies data, or writes skew or scale layouts. R220 -/
  | dmaCopy (d : DescRef)
  /-- ACT_POOL_SET sets or empties an activation pool. R222 -/
  | actPoolSet (d : DescRef)
  /-- ACT_SAVE reserves room and saves activations, optionally compressed, into the first region with room. R223 -/
  | actSave (d : DescRef)
  /-- ACT_LOAD restores a saved entry and optionally releases it. R225 -/
  | actLoad (d : DescRef)
  /-- MEM_ADD checks its operands and sends the source to the controllers of the destination lines. R227 -/
  | memAdd (d : DescRef)
  /-- A stack controller takes a source line and adds it into its destination line as one indivisible access. R227 -/
  | memAddLine (ref : DescRef) (k : Nat)
  /-- PARAM_PREFETCH copies data once into the pool windows of several tiles. R231 -/
  | paramPrefetch (d : DescRef)
  /-- The patrol scrub reads every stack line once per 24 h and corrects what it can. R214 -/
  | stackPatrolScrub (n : Nat) (found : List Finding)
  /-- The DIMM controllers scrub every line once per 24 h. R217 -/
  | dimmPatrolScrub (ch : Nat) (found : List Finding)
  /-- The SRAM patrol scrub reads every scratchpad and pool row once every 2^34 CLK_FAB cycles. R451 -/
  | sramPatrolScrub (t : Nat) (core : Option Nat) (found : List Finding)
  /-- A PMT read response is taken, decoded, and either returned, retried with VSHIFT, or failed. R243 -/
  | rdd (n ack tag status : Nat) (sense : Sense)
  /-- A PMT write acknowledgement marks the line durable or, on VERIFY_FAIL, starts sparing. R244 -/
  | wra (n ack tag status : Nat)
  /-- A PMT mode-register value is received. R238 -/
  | mrd (n ack reg value : Nat)
  /-- A PMT NAK makes the module resend packets from ACK + 1. R239 -/
  | pmtNak (n ack now : Nat)
  /-- A PMT event packet reports a temperature crossing or that hold-up is complete. R238 -/
  | evt (n ack code : Nat)
  /-- A PMT packet left unacknowledged for 1,024 CLK_PMT cycles is resent; the eighth resend retrains the link. R239 -/
  | pmtResendTimeout (n seq now : Nat)
  /-- A request with no RDD or WRA within 4,096 cycles is reissued, and fails after three reissues. R240 -/
  | pmtResponseTimeout (n : Nat) (write : Bool) (tag now : Nat)
  /-- A PMT link retrain ends and outstanding requests are sent again. R239 -/
  | pmtRetrainDone (n : Nat)
  /-- After every 2^24 line writes, a device evaluates a region swap and may start one. R246 -/
  | wearSwapEval (n : Nat)
  /-- A region swap finishes its copy and the region map is updated. R246 -/
  | wearSwapComplete (n : Nat)
  /-- A Dew pass starts and writes the canary lines. R249 -/
  | dewPassStart (n : Nat)
  /-- Dew reads a line at its paced rate and rewrites it when its margin has faded. R248 -/
  | dewLineRead (n : Nat) (tries : List Sense)
  /-- The urgent pass ends and URGENT_DEW clears. R249 -/
  | urgentDewEnd (n : Nat)
  /-- PMT_CKPT_SET sets or empties a checkpoint region. R256 -/
  | pmtCkptSet (d : DescRef)
  /-- PMT_PERSIST completes once the earlier Permafrost writes in its range are durable. R256 -/
  | pmtPersist (d : DescRef)
  /-- PMT_COMMIT persists a checkpoint region and then writes one durable record line. R256 -/
  | pmtCommit (d : DescRef)
  /-- HAIL_PREPARE sets UPDATE and agrees on a step tag through a front. R272 -/
  | hailPrepare (d : DescRef)
  /-- HAIL_COMMIT applies the sign update in place to the group's ranges. R274 -/
  | hailCommit (ref : DescRef) (adv : List Nat)
  /-- HAIL_ABORT leaves the prepared step unapplied and clears UPDATE. R275 -/
  | hailAbort (d : DescRef)
  /-- HAIL_GROUP_SET sets or empties a shard group. R263 -/
  | hailGroupSet (d : DescRef)
  /-- HAIL_RANGE_SET binds or empties a weight and gradient range. R264 -/
  | hailRangeSet (ref : DescRef)
  /-- HAIL_STATUS writes a group's state to context memory. R281 -/
  | hailStatus (d : DescRef)
  /-- A Vexja frame is taken: CRC and sequence are checked, ACK, NAK and credits act, and the slots are accepted or discarded. R290 -/
  | frameReceive (port : Nat) (f : Frame) (now : Nat)
  /-- A training link flit carries the exchange of versions, EPID, credits and RESUME. R286 -/
  | train (port verMin verMax epid : Nat) (credits : List Nat) (resume : Bool)
  /-- A heartbeat link flit is recorded in LNK_PEER and checked against LNK_PEER_EXPECT. R304 -/
  | hb (port : Nat)
  /-- A LINK_ERR link flit from the partner is logged. R289 -/
  | linkErr (port : Nat)
  /-- Every 4,096 CLK_LNK cycles an active port sends a heartbeat. R304 -/
  | hbSend (port : Nat)
  /-- No heartbeat for 16,384 cycles logs violation 0x09 and takes the port down. R304 -/
  | hbLoss (port now : Nat)
  /-- Flits left unacknowledged for 2,048 cycles are resent; the eighth resend retrains the port. R290 -/
  | replayTimeout (port n now : Nat)
  /-- A NAK with no replay within 2,048 cycles is sent again. R290 -/
  | nakResendTimeout (port : Nat)
  /-- At the end of each 2^24-frame window, a lane above the error limit is swapped out or the port retrains. R285 -/
  | laneBerWindow (port : Nat) (lanes : List Nat) (now : Nat)
  /-- A training phase of a port completes and the next phase, or Active, begins. R286 -/
  | trainingPhaseDone (port : Nat) (lanes : List Nat)
  /-- A training phase that overruns its bound sends the port back to phase 1; repeated retrains quarantine it. R286 -/
  | trainingPhaseOverrun (port now : Nat)
  /-- A PUT packet arriving at its destination is checked and written, or refused with a NACK_RSP. R302 -/
  | put (port : Nat)
  /-- A delivered or forwarded PUT commits, advancing the data-commit counter and sending COMMIT_RSP when ACKREQ is set. R298 -/
  | putCommit (port : Nat)
  /-- A SIGNAL packet arriving at an ingress port is held until its COVER has committed. R298 -/
  | signal (port : Nat)
  /-- A held signal is released to delivery or to its next egress once the data-commit counter passes COVER. R298 -/
  | signalRelease (port : Nat)
  /-- A COMMIT_RSP completes its VX_PUT with OK. R301 -/
  | commitRsp (port : Nat)
  /-- A NACK_RSP completes its transfer with the status it carries, or is logged for a signal. R302 -/
  | nackRsp (port : Nat)
  /-- A packet not addressed to this module is routed to PORT or ALT, or dropped with a NACK_RSP. R296 -/
  | packetForward (port vc : Nat)
  /-- VX_PUT sends data in packets into a peer's export window. R301 -/
  | vxPut (d : DescRef)
  /-- A transfer with no response within 2^26 CLK_FAB cycles completes with 0x60. R301 -/
  | vxPutTimeout (ref : DescRef)
  /-- VX_SIGNAL sends one SIGNAL packet, optionally after the ring's earlier PUTs. R303 -/
  | vxSignal (d : DescRef)
  /-- VX_EXPORT sets or empties an export window. R300 -/
  | vxExport (d : DescRef)
  /-- A routing-entry write updates both I/O dies' tables, or is refused and counted. R295 -/
  | lnkRouteDataWrite (v : Half)
  /-- A write of LNK_CFG sets EPID only while every port is down, and keeps out-of-range fields unchanged. R309 -/
  | lnkCfgWrite (v : DWord)
  /-- A credit-limit write is bounded by the ceilings, and a write above a ceiling is counted. R292 -/
  | lnkTxCfgWrite (port : Nat) (v : DWord)
  /-- A write of LNK_PORT_CTL.RELEASE takes the port out of quarantine or version refusal and trains it. R307 -/
  | release (port : Nat)
  /-- Setting or clearing LNK_PORT_CTL.DISABLE takes the port down and holds it, or lets it train. R309 -/
  | disable (port : Nat) (on : Bool)
  /-- A cable is plugged or pulled; a plugged cable is identified and accepted or refused. R478 -/
  | cablePresenceChange (p : Nat) (cable : Cable)
  /-- THIN keeps the K largest blocks of each segment and writes the residual. R314 -/
  | thin (d : DescRef)
  /-- RED_SET sets or empties a reduction slot. R316 -/
  | redSet (d : DescRef)
  /-- RED_RUN opens a step, sends level-0 partials, evaluates designated nodes and delivers the owner's shard. R324 -/
  | redRun (d : DescRef)
  /-- A REDUCE packet is consumed by an adder, held in the store, folded, or dropped. R321 -/
  | reduce (port : Nat)
  /-- A node's window closes after DEADLINE, or is extended for a slow child. R325 -/
  | reductionWindowClose (ref : DescRef) (seg level idx : Nat)
  /-- The owner's fold window ends and the ranks not yet folded are left out. R327 -/
  | foldLimitExpiry (ref : DescRef)
  /-- A reduction window open for DOLD ends RED_RUN with 0x41. R328 -/
  | redDoldrums (ref : DescRef)
  /-- JET_RING_SET sets or empties a ring slot. R332 -/
  | jetRingSet (d : DescRef)
  /-- JET_PASS sends one chunk string to the next module and receives one into a guest sequence. R335 -/
  | jetPass (d : DescRef)
  /-- A JET packet is written into its guest sequence, held in the store, or dropped. R335 -/
  | jet (port : Nat)
  /-- ATTN_MERGE combines two partial attention results into a third. R336 -/
  | attnMerge (d : DescRef)
  /-- FRONT_SET sets or empties a front or tally entry. R344 -/
  | frontSet (d : DescRef)
  /-- FRONT_ARRIVE counts, or holds, an arrival and optionally waits for the release. R351 -/
  | frontArrive (d : DescRef)
  /-- FRONT_WAIT waits for the release of the ring's last arrival. R351 -/
  | frontWait (d : DescRef)
  /-- FRONT_STATUS writes an entry's state to context memory. R356 -/
  | frontStatus (d : DescRef)
  /-- TALLY_ADD adds DELTA to a tally. R357 -/
  | tallyAdd (d : DescRef)
  /-- TALLY_WAIT waits until a tally reaches a threshold. R357 -/
  | tallyWait (d : DescRef)
  /-- TALLY_ALIGN arrives at a front with its tally and sets the tally to L or H at the release. R357 -/
  | tallyAlign (d : DescRef)
  /-- A wait that found no free slot is placed when a slot frees. R352 -/
  | waitSlotPlace (ref : DescRef)
  /-- A spinning core's SPIN length expires and the core gates. R352 -/
  | spinExpiry (ref : DescRef)
  /-- A wait that reaches DOLD × 2^20 cycles is abandoned with 0x41, or with 0x40 for a held arrival. R354 -/
  | doldrums (ref : DescRef)
  /-- A write of HST_DOM_REQ with OP CREATE starts a creation request, or is ignored and counted. R365 -/
  | create (h : Nat) (v : DWord)
  /-- Bluone reads the creation record, answers with a code in HST_DOM_RSP and, on success, allots a BOUND context. R367 -/
  | createAnswer (h : Nat) (rec_ : Option (List DWord))
  /-- The scheduler places the head context once enough cores are free on its tiles. R373 -/
  | contextPlace (c : Nat)
  /-- The scheduler stops a context's units at their boundaries, saves its waits and starts saving its seat images. R379 -/
  | contextPreempt (c : Nat)
  /-- The last seat image is written and the context becomes PAUSED. R379 -/
  | contextSaveComplete (c : Nat)
  /-- Seat images are read back, or the seats are zeroed, and the context resumes in RUN. R379 -/
  | contextRestoreComplete (c : Nat)
  /-- A placed context idle for IDLE_LIMIT becomes yieldable. R374 -/
  | idleLimitExpiry (c : Nat)
  /-- A context placed for HOLD_LIMIT becomes yieldable. R374 -/
  | holdLimitExpiry (c : Nat)
  /-- A write of HST_RING_SEAT binds a ring to a seat, or is ignored with CFG_VIOL. R370 -/
  | ringSeatWrite (c k : Nat) (v : DWord)
  /-- A COMMIT of the cyclic table checks the shadow copy and schedules it, or refuses it with ERR. R377 -/
  | cyclicCommit
  /-- A TRIM write adds signed cycles to the next period. R378 -/
  | cyclicTrim (trim : Half)
  /-- A period starts, and a pending shadow table becomes live. R376 -/
  | cyclicPeriodStart
  /-- At START_US − LEAD_US, the slot's tiles are cleared and its context is placed. R378 -/
  | cyclicSlotLead (n : Nat)
  /-- At START_US the slot's context runs, late if its placement was not finished. R378 -/
  | cyclicSlotStart (n : Nat)
  /-- At the slot's end the context is pre-empted, with OVERRUN set if work is pending. R378 -/
  | cyclicSlotEnd (n : Nat)
  /-- MODEL_LOAD hits a resident model or loads it into a slot. R384 -/
  | modelLoad (d : DescRef)
  /-- MODEL_EVICT ends the context's hold and may empty the slot. R386 -/
  | modelEvict (d : DescRef)
  /-- MODEL_PIN pins a held, domain-owned slot. R386 -/
  | modelPin (d : DescRef)
  /-- MODEL_UNPIN removes the domain's pin from a slot. R386 -/
  | modelUnpin (d : DescRef)
  /-- A write of HST_DOM_HWIN.HBASE acts only while the domain holds no context outside EMPTY. R426 -/
  | hbaseWrite (h : Nat) (v : DWord)
  /-- Input above 62 V for 1 µs opens the input switch. R392 -/
  | overvoltage
  /-- Input below 40 V for 2 µs asserts the power-fail warning and schedules a reset. R393 -/
  | powerFail
  /-- Five milliseconds after the warning, or below 36 V, the module enters reset. R393 -/
  | powerFailReset
  /-- Every 256 CLK_FAB cycles the governor samples input and rail monitors and sets LOW_IN or HIGH_IN. R394 -/
  | inputSample (mv ca : Nat) (tiles : List Nat) (base links memory : Nat)
  /-- Every 10 µs the input governor recomputes the budget and divides it into grants. R396 -/
  | budgetRecompute (estimates : List Nat)
  /-- Every 10 µs each tile power controller picks the stretch level that fits its grant. R399 -/
  | tilePowerInterval (t : Nat) (powers : List Nat)
  /-- Input current above I_CLAMP forces every tile to stretch level 24. R395 -/
  | clamp (ca : Nat)
  /-- After 100 µs the clamp releases one level every 10 µs while the current stays below I_CLAMP. R395 -/
  | clampHoldExpiry (ca : Nat)
  /-- Current above 1.1 × I_CLAMP for 50 µs at level 24 opens the input switch. R395 -/
  | clampCutoff (ca : Nat)
  /-- Every 1 µs the ramp allowance is shared among the tiles whose power must change. R400 -/
  | slewWindow (needs : List Int)
  /-- After DRIZZLE_HOLD, the filler tapers at the slew share and the core then gates. R401 -/
  | drizzleHoldExpiry (d : DescRef)
  /-- FORECAST records a hint of a heavy or quiet phase ahead. R402 -/
  | forecast (d : DescRef)
  /-- At issue + LEAD (less 20 µs for compute) the Forecast takes effect. R403 -/
  | forecastLeadReached (k : Nat)
  /-- The Forecast expires at issue + LEAD + DURATION. R403 -/
  | forecastExpiry (k : Nat)
  /-- A compute Forecast whose tiles draw less than half of LEVEL after 100 µs is a miss. R403 -/
  | forecastMiss (k : Nat)
  /-- Every 1 ms each tile chooses its Gust level. R405 -/
  | gustChoice (t : Nat) (powers : List Nat)
  /-- Every 10 µs the sensors are read and the thermal loop adjusts stretch and memory rates. R409 -/
  | thermalSample (tiles : List (List Nat)) (dies stks dimms : List Nat)
  /-- A junction at 110 °C removes power from every rail except standby. R410 -/
  | thermalTrip (tile temp : Nat)
  /-- Every 1 ms the tile power controllers recalibrate the activity counters against the rail monitors. R411 -/
  | energyRecalibrate (mj : Nat)
  /-- The owner command writes PWR_CFG within its bounds, counting conflicts. R412 -/
  | pwrSet (v : DWord) (proof : OwnerProof)
  /-- An HMS read of a partition's memory line is checked and answered with CPLD or CPLE. R421 -/
  | hmsRd (i tag dom line : Nat)
  /-- A posted HMS write to a partition's memory line is checked and applied or dropped. R421 -/
  | hmsWr (i dom line : Nat) (ben : DWord) (data : List Byte)
  /-- A CXL.cache snoop is answered with RspIHitI. R420 -/
  | h2dSnoop (i cacheId addr : Nat)
  /-- A host register or BAR0 access is served, or is answered as a violation under R427. R425 -/
  | hostRegisterTlp (i fn off : Nat) (kind : TlpKind)
  /-- A host response to a module read or write is taken, and an error becomes FETCH_ERR, WRITE_ERR or 0x21. R427 -/
  | hostReadResponse (r : HostResp)
  /-- A function-level reset loses the domain and kills its contexts. R429 -/
  | flr (i fn : Nat)
  /-- A PCIe link down or UCIe attach down loses its domains and takes their contexts to EMPTY. R429 -/
  | domainLoss (i : Nat)
  /-- A UCIe attach retrains, replaying flits and taking failed modules out of service. R417 -/
  | ucieRetrain (i modules : Nat)
  /-- PERST# deassertion starts training of a PCIe edge port. R490 -/
  | perstDeassert (port : Nat)
  /-- PERST# assertion after bring-up loses the port's domains. R466 -/
  | perstAssert (port : Nat)
  /-- The ROM senses OTP, applies tokens, verifies a bundle slot, derives keys and starts the loader, or enters recovery. R435 -/
  | romBoot (ms : Nat) (bad : RomFuses)
  /-- A boot stage finishes verifying and loading the next stage. R433 -/
  | stageLoaded (stage ms : Nat)
  /-- GET_NONCE returns a fresh nonce. R440 -/
  | getNonce
  /-- READ_REG returns a register outside the setup windows. R440 -/
  | readReg (addr : Nat)
  /-- In recovery, a bundle is checked, written to slot A and the module reset. R436 -/
  | recoveryBundle (bundle : List Byte)
  /-- CONFIG_STAGE writes the older flash copy of the owner configuration. R440 -/
  | configStage (cfg : OwnerCfg) (proof : OwnerProof)
  /-- TOKEN_STAGE stages one OTP token in flash. R440 -/
  | tokenStage (token : List Byte)
  /-- The owner RESET command resets the module. R440 -/
  | reset (proof : OwnerProof)
  /-- ROUTE_WRITE writes up to 64 routing entries. R440 -/
  | routeWrite (entries : List (Nat × Half)) (proof : OwnerProof)
  /-- PORT_CTL writes LNK_PORT_CTL of one port. R440 -/
  | portCtl (port : Nat) (v : DWord) (proof : OwnerProof)
  /-- PMT_FORMAT formats the Permafrost tier when every context is EMPTY. R440 -/
  | pmtFormat (proof : OwnerProof)
  /-- The format of the Permafrost tier ends and the tier returns to service. R234 -/
  | pmtFormatEnd (defects : List (List Nat))
  /-- SPDM GET_VERSION is answered. R438 -/
  | getVersion
  /-- SPDM GET_CAPABILITIES is answered. R438 -/
  | getCapabilities
  /-- SPDM NEGOTIATE_ALGORITHMS selects SM2 and SM3. R438 -/
  | negotiateAlgorithms (sm2 sm3 : Bool)
  /-- SPDM GET_DIGESTS returns the certificate-chain digest. R438 -/
  | getDigests
  /-- SPDM GET_CERTIFICATE returns the slot-0 chain. R438 -/
  | getCertificate (slot off len : Nat)
  /-- SPDM CHALLENGE is answered with a signature by the attestation key. R438 -/
  | challenge (slot : Nat) (nonce : List Byte)
  /-- SPDM GET_MEASUREMENTS returns signed measurements. R438 -/
  | getMeasurements (index : Nat) (nonce : List Byte)
  /-- Setting SEC_LOCK_CTL.DONE freezes the locked ranges and arms the fence comparators. R441 -/
  | secLockDone
  /-- A service write restarts the Bluone watchdog. R446 -/
  | watchdogService
  /-- The Bluone watchdog expires and Bluone alone reboots from ROM. R446 -/
  | watchdogExpiry
  /-- A held core's self-test ends and the core returns to service or is retired. R454 -/
  | coreSelfTestDone (t n : Nat) (pass : Bool)
  /-- An uncorrectable error in fence, window or domain-map state kills every context. R460 -/
  | fatalError (loc : DWord)
  /-- IN_PRSNT_N goes low for 20 ms to close the input switch, or goes high to signal a power-fail. R476 -/
  | inPrsntChange (low : Bool)
  /-- Input in the operating region for 20 ms starts the power-up sequence. R462 -/
  | inputGood (addr : BitVec 3)
  /-- A step of the power-up sequence completes, or fails under R464, and the dependent steps start. R463 -/
  | bringupStepDone (step : BringUp) (ms : Nat)
  /-- A module reset turns off every rail except standby for 10 ms and restarts from step 1. R465 -/
  | moduleReset
  /-- A stack device lost in service makes each later access to it complete with 0x31. R460 -/
  | stackLost (n : Nat)
  /-- At each frame time an active port fills its 20 slots with a link flit, VC0, VC2, then VC1 and VC3 by credit, or NULL, and stamps FSEQ, ACK and credits. R293 -/
  | frameSend (port : Nat)
  /-- A lane of an active port loses lock and is swapped out onto the spare, or the port goes down and retrains. R285 -/
  | laneLockLoss (port lane now : Nat)
  /-- A JET_PASS whose DOLD limit expires completes with 0x41, carrying 0xFFFF_FFF8 + SLOT and ROUND. R335 -/
  | jetDoldrums (ref : DescRef)
  /-- A module read on a PCIe port with no completion in 50 ms is failed as FETCH_ERR, WRITE_ERR or 0x21 under R427. R423 -/
  | pcieCompletionTimeout (r : HostResp)
  /-- A PCIe edge port's link finishes training, sets HST_LINK_STAT and DEGRADED as found, and its domains become enabled again. R464 -/
  | pcieLinkTrained (port : Nat) (width : BitVec 4) (fast : Bool)
  /-- A DIMM channel fails in service and DIM_CH_STAT.STATE becomes 3. R217 -/
  | dimmChannelFail (ch : Nat)
  /-- An upstream PMT packet with a bad CRC, a sequence gap, a reserved CODE or STATUS, a free tag or a wrong length is dropped, NAKed where R239 asks, and counted as a violation. R240 -/
  | pmtBadPacket (n kind now : Nat)
  /-- An HMS header with a reserved OP or a non-zero reserved field is dropped and logged. R422 -/
  | hmsBadHeader (i dom : Nat)
  deriving DecidableEq, Repr

end Sys2Proof
end

