-- ==== Sys2Proof/Decode.lean ====
section
/-! DEFINITION. Decode.lean: the commands that words spell. No row of spec/opcode_table.json gives bits: the commands of this block are events
at its edges, and a descriptor's own words are read where it is admitted and issued (Machine/Rings.lean, Machine/Issue.lean). -/
namespace Sys2Proof

/-- The command that a word spells by the table's bits: the table gives none. -/
def decodeTableWord (_nbits _w : Nat) : Option Instr := none

end Sys2Proof
end

