-- ==== Sys2Proof/Config.lean ====
section
/-! DEFINITION. Config.lean: the free values: what the spec leaves open and the machine nevertheless has. Every one is an
opaque constant: nothing can be proved of its value. -/
namespace Sys2Proof.Config

/-- ENERGY_UJ of the record written at a free count (R57, R411 give the attribution by measured activity and no number).
DESIGN CHOICE: a free value. Log entry 1. -/
opaque energy : Nat → BitVec 48
/-- What the work area of a scratchpad adds to its stored byte after a counter-driven work tile of a stamp (R203: unspecified).
DESIGN CHOICE: a free value. Log entry 5. -/
opaque workByte : Nat → Nat → BitVec 8
/-- Whether a cached translation is still held at a free count (R209: eviction is not specified).
DESIGN CHOICE: a free value. Log entry 6. -/
opaque entryKept : Nat → Nat → Bool
/-- Which of the outstanding passes an array fault is in (R115; the event does not say). DESIGN CHOICE: a free value. Log entry 71. -/
opaque faultyPass : Nat → Nat
/-- Which of the outstanding passes a pre-empted array stands in (R114; the event does not say). DESIGN CHOICE: a free value. Log entry 71. -/
opaque standingPass : Nat → Nat
/-- A word of a tree stack, and a leaf counter, of an ATTN work tile whose array stands at a checkpoint (R114; the event does not say in which
product it stands): free count, accumulator set, level. DESIGN CHOICE: free values. Log entry 71. -/
opaque attnStack : Nat → Nat → Nat → BitVec 32
opaque attnLeaves : Nat → Nat → Nat
/-- Whether a walker still holds a cached pointer entry of a level at a free count (R209: eviction is not specified).
DESIGN CHOICE: a free value. Log entry 6. -/
opaque pointerKept : Nat → Nat → Nat → Bool
/-- A fresh nonce of 32 bytes (R440, R432). DESIGN CHOICE: a free value. Log entry 7. -/
opaque nonce : Nat → List Byte
/-- SM3 (GB/T 32905), which the spec names and does not give. DESIGN CHOICE: a free function. Log entry 7. -/
opaque sm3 : List Byte → List Byte
/-- SM2 verification (GB/T 32918): identifier, public key, message, signature. DESIGN CHOICE: a free function. Log entry 7. -/
opaque sm2Verify : String → List Byte → List Byte → List Byte → Bool
/-- SM2 signing with a key slot's key: free count, key, message. DESIGN CHOICE: a free function. Log entry 7. -/
opaque sm2Sign : Nat → List Byte → List Byte → List Byte
/-- The public key of a private key on the curve of GB/T 32918.5 (R437), which the spec names and does not give. DESIGN CHOICE: a free function.
Log entry 7. -/
opaque sm2Public : List Byte → List Byte
/-- The DER encoding of a certificate to be signed, X.509 v3 with SM2 and SM3 (R437): public key, notBefore, notAfter, private extension. DESIGN
CHOICE: a free function. Log entry 7. -/
opaque x509 : List Byte → String → String → List Byte → List Byte
/-- The time from input good, in ms, of a change of PHASE that a command without a time makes, at a free count (R467). DESIGN CHOICE: a free
value. Log entry 91. -/
opaque phaseMs : Nat → Nat
/-- The fields of an SPDM response that DSP0274 and not the spec gives. DESIGN CHOICE: a free function. Log entry 7. -/
opaque spdmBody : Nat → List Byte → List Byte
/-- Whether a line of a later row of a MEM_ADD had reached its controller when an earlier row's line failed, at a free count (R228: not
specified). DESIGN CHOICE: a free value. Log entry 12. -/
opaque lineReached : Nat → Nat → Bool
/-- RESULT of a transfer that a NACK_RSP ends with 0x20, 0x21 or 0x31: the packet carries no address (R294, R302), and the spec states no
RESULT there. Free count, status. DESIGN CHOICE: a free value. Log entry 13. -/
opaque nackResult : Nat → Nat → BitVec 64
/-- Whether a rank is left out of a partial that another module formed and whose LEAVES fall short of its span (R319 sends a count, R328 asks
for the ranks): free count, segment, level, rank. DESIGN CHOICE: a free value. Log entry 14. -/
opaque leftOut : Nat → Nat → Nat → Nat → Bool
/-- The identity certificate that the module ships with (R1, R437): its bytes follow from the device secret and the vendor's authority, which
the spec does not give. DESIGN CHOICE: a free value. Log entry 3. -/
opaque identityCert : List (BitVec 8)
/-- The supply voltage, in µV, of a clock above 1.40 GHz (R398 gives it from 0.35 to 1.40 GHz): Gust level, stretch level. DESIGN CHOICE: a free
value. Log entry 77. -/
opaque gustVolt : Nat → Nat → Nat
/-- How far the power-fail warning stretches the clocks (R413 names no level). DESIGN CHOICE: a free value. Log entry 77. -/
opaque failStretch : Nat
/-- Measurement 1: the digest of the ROM content (R438: fixed per ROM revision; no number given). DESIGN CHOICE: a free value. Log entry 7. -/
opaque romDigest : List Byte
/-- A 64-bit word of the factory block of OTP_SENSE (R442, R471: its contents are given and its layout is not), by number from 0. DESIGN
CHOICE: a free value. Log entry 21. -/
opaque factoryWord : Nat → BitVec 64
/-- Which of a Permafrost line's writes that were not durable a power loss keeps (R255: any subset, a whole write each): free count, device,
line. DESIGN CHOICE: a free value. Log entry 19. -/
opaque frostKept : Nat → Nat → Nat → Nat
/-- The BCH check bits over bytes 0 to 263 of a stored Permafrost line (R242: the code's generator is not given). DESIGN CHOICE: a free
function. Log entry 59. -/
opaque bchCheck : List (BitVec 8) → BitVec 192
/-- Whether the copy or rewrite of a device line returns VERIFY_FAIL (R247, R250: a matter of the medium): free count, device, line. DESIGN
CHOICE: a free value. Log entry 76. -/
opaque copyFails : Nat → Nat → Nat → Bool
/-- How far the copy pointer of a swap has come (R246 gives no pace): free count, device. DESIGN CHOICE: a free value. Log entry 76. -/
opaque swapAt : Nat → Nat → Nat
/-- A port's starting equaliser values, from its cable's length and type (R478 gives no table). DESIGN CHOICE: a free value. Log entry 93. -/
opaque startEq : Nat → Bool → BitVec 64
/-- The Vendor ID that PCI-SIG assigned to Nervacy (R490: fixed in the silicon; the spec gives no number). DESIGN CHOICE: a free value. Log entry 20. -/
opaque vendorId : BitVec 16
/-- The Revision ID: the silicon revision (R490). DESIGN CHOICE: a free value. Log entry 20. -/
opaque revisionId : BitVec 8
/-- The class code of a function, and the dwords of its configuration header that the spec does not give, by offset (R419). DESIGN CHOICE: free
values. Log entry 20. -/
opaque classCode : BitVec 24
opaque cfgWord : Nat → BitVec 32
/-- The next-capability offset in the header of the capability DVSEC (R469 gives the header's place alone). DESIGN CHOICE: a free value.
Log entry 20. -/
opaque dvsecNext : BitVec 12

end Sys2Proof.Config
end

