-- ==== Sys2Proof/Machine/Bits.lean ====
section
/-! DEFINITION. Bits.lean: bit fields, saturating counts, tables, and the byte memory in its one canonical form. -/
namespace Sys2Proof.Machine

/-- Bits [lo + n - 1 : lo] of a word, as a number. -/
def fld {w : Nat} (x : BitVec w) (lo n : Nat) : Nat := (x.toNat >>> lo) % 2 ^ n

/-- Bit i of a word. -/
def bit {w : Nat} (x : BitVec w) (i : Nat) : Bool := x.getLsbD i

/-- A number placed at bit lo of a word of 64 bits. -/
def at_ (v lo : Nat) : DWord := BitVec.ofNat 64 (v <<< lo)

/-- A flag as 0 or 1. -/
def b2n (b : Bool) : Nat := if b then 1 else 0

/-- A saturating count goes up by one (the "saturating count" of every counter table). -/
def satInc {n : Nat} (x : BitVec n) : BitVec n := if x.toNat + 1 = 2 ^ n then x else x + 1

/-- A saturating count goes up by k. -/
def satAdd {n : Nat} (x : BitVec n) (k : Nat) : BitVec n := BitVec.ofNat n (min (x.toNat + k) (2 ^ n - 1))

/-- The least multiple of m at or above x. -/
def roundUp (x m : Nat) : Nat := (x + m - 1) / m * m

/-- The number of pieces of size m that cover x. -/
def cdiv (x m : Nat) : Nat := (x + m - 1) / m

/-- A number read as a signed number of n bits. -/
def sgn (n x : Nat) : Int := if x % 2 ^ n < 2 ^ (n - 1) then (x % 2 ^ n : Nat) else ((x % 2 ^ n : Nat) : Int) - 2 ^ n

/-! ### Tables -/

/-- The unit of number k, or the unit as reset leaves it. -/
def tget {α : Type} (d : α) : Tbl α → Nat → α
  | [], _ => d
  | (j, v) :: r, k => if j = k then v else tget d r k

/-- The unit of number k becomes v; the numbers of a table rise. -/
def tput {α : Type} : Tbl α → Nat → α → Tbl α
  | [], k, v => [(k, v)]
  | (j, w) :: r, k, v =>
    if k < j then (k, v) :: (j, w) :: r else if k = j then (k, v) :: r else (j, w) :: tput r k v

/-- The unit of number k goes back to what reset leaves. -/
def tdel {α : Type} (t : Tbl α) (k : Nat) : Tbl α := t.filter (fun e => e.1 != k)

/-- The numbers listed. -/
def tkeys {α : Type} (t : Tbl α) : List Nat := t.map (·.1)

/-! ### Byte memory

A list of (address, byte) pairs with strictly rising addresses and no entry equal to 0, which is what
an unlisted address reads as. -/

/-- A byte memory. -/
abbrev Memory := List Host.Cell

/-- What an address that nothing has written reads as: 0. R367 zeroes pool frames, R379 zeroes a scratchpad
at its first placement; for stack and DIMM memory after power-on the spec gives nothing: DESIGN CHOICE, log entry 4 (unsafe). -/
def Memory.blank : Byte := 0

/-- The byte at address a. -/
def mget : Memory → Nat → Byte
  | [], _ => Memory.blank
  | (j, b) :: r, a => if j = a then b else mget r a

/-- The byte at address a becomes b, in the canonical form. -/
def mput : Memory → Nat → Byte → Memory
  | [], a, b => if b = Memory.blank then [] else [(a, b)]
  | (j, c) :: r, a, b =>
    if a < j then (if b = Memory.blank then (j, c) :: r else (a, b) :: (j, c) :: r)
    else if a = j then (if b = Memory.blank then r else (a, b) :: r)
    else (j, c) :: mput r a b

/-- The canonical form holds: addresses strictly rise from lo on and no entry is the blank byte. -/
def wfFrom : Nat → Memory → Bool
  | _, [] => true
  | lo, (j, b) :: r => decide (lo ≤ j) && (b != Memory.blank) && wfFrom (j + 1) r

/-- The canonical form of a byte memory. -/
def Memory.wf (m : Memory) : Bool := wfFrom 0 m

/-- n bytes from address a on. -/
def mread (m : Memory) (a n : Nat) : List Byte := (List.range n).map (fun i => mget m (a + i))

/-- Bytes stored from address a on. -/
def mwrite (m : Memory) (a : Nat) : List Byte → Memory
  | [] => m
  | b :: r => mwrite (mput m a b) (a + 1) r

/-- A range of addresses goes back to blank. -/
def mclear (m : Memory) (a n : Nat) : Memory := m.filter (fun c => c.1 < a || a + n ≤ c.1)

/-! ### Bytes and words, little-endian (R68, R208) -/

/-- The number that bytes spell, least significant first. -/
def leNat : List Byte → Nat
  | [] => 0
  | b :: r => b.toNat + 256 * leNat r

/-- n bytes of a number, least significant first. -/
def leBytes : Nat → Nat → List Byte
  | 0, _ => []
  | n + 1, x => BitVec.ofNat 8 x :: leBytes n (x / 256)

/-- A 64-bit word of a memory. -/
def mword (m : Memory) (a : Nat) : DWord := BitVec.ofNat 64 (leNat (mread m a 8))

/-- Words as bytes. -/
def wordsBytes : List DWord → List Byte
  | [] => []
  | w :: r => leBytes 8 w.toNat ++ wordsBytes r

/-- n 64-bit words of a byte list. -/
def bytesWords : Nat → List Byte → List DWord
  | 0, _ => []
  | n + 1, bs => BitVec.ofNat 64 (leNat (bs.take 8)) :: bytesWords n (bs.drop 8)

/-- Word i of a record, 0 past its end. -/
def wrd (ws : List DWord) (i : Nat) : DWord := ws.getD i 0

/-! ### CRC-32 -/

/-- CRC-32 of IEEE 802.3: reflected, initial and final inversion (log entry 17). -/
def crcBit (c : Word) : Word := if c.getLsbD 0 then (c >>> 1) ^^^ 0xEDB88320#32 else c >>> 1
def crcByte (c : Word) (b : Byte) : Word :=
  crcBit (crcBit (crcBit (crcBit (crcBit (crcBit (crcBit (crcBit (c ^^^ b.zeroExtend 32))))))))
def crc32 (bs : List Byte) : Word := (bs.foldl crcByte 0xFFFFFFFF#32) ^^^ 0xFFFFFFFF#32

end Sys2Proof.Machine
end

