-- ==== Sys2Proof/Machine/State.lean ====
section
/-! DEFINITION. State.lean: everything the spec gives the module, as plain data, and the module right after reset.
Each field's comment names the rule and the reset value. -/
namespace Sys2Proof.Machine

/-! ### Logs -/

/-- A circular log ordered by an ordinal (R308, R360, R415, R428, R458): its entries as 64-bit words, and the
ordinal of the next event. -/
structure EvLog where
  /-- Entries by index, each a list of 64-bit words. R458, R428, R308, R360, R415, R259; reset: empty. -/
  entries : Tbl (List DWord)
  /-- ORDINAL of the next event, wrapping. R458, R428, R308, R360, R415, R259; reset 0. -/
  ord : Word
  deriving DecidableEq, Repr

def EvLog.reset : EvLog := ⟨[], 0⟩

/-! ### Rings and descriptors (02_command_rings.md) -/

/-- A ring of a context. -/
structure Ring where
  /-- HST_RING_SQ_BASE, host-domain address, 4 KiB aligned. R41, R31; reset 0 (DESIGN CHOICE, log 2). -/
  sqBase : DWord
  /-- HST_RING_CQ_BASE. R41, R31; reset 0 (DESIGN CHOICE, log 2). -/
  cqBase : DWord
  /-- HST_RING_CFG.SIZE_LOG2, 4 to 16. R41; reset 4. -/
  sizeLog2 : BitVec 5
  /-- HST_RING_CFG.ENABLE. R41; reset 0. -/
  enable : Bool
  /-- HST_RING_CFG.IRQ_EN. R41; reset 0. -/
  irqEn : Bool
  /-- HST_RING_CFG.VECTOR. R41; reset 0. -/
  vector : BitVec 8
  /-- HST_RING_CFG.PRIORITY. R41, R53; reset 0. -/
  priority : BitVec 2
  /-- HST_RING_STATUS.DB_VIOL. R41, R37; reset 0. -/
  dbViol : Bool
  /-- HST_RING_STATUS.CQ_VIOL. R41, R38; reset 0. -/
  cqViol : Bool
  /-- HST_RING_STATUS.CFG_VIOL. R41, R42; reset 0. -/
  cfgViol : Bool
  /-- HST_RING_STATUS.FETCH_ERR. R41, R44; reset 0. -/
  fetchErr : Bool
  /-- HST_RING_STATUS.WRITE_ERR. R41, R44; reset 0. -/
  writeErr : Bool
  /-- SQ_HEAD. R32, R41; reset 0. -/
  sqHead : Word
  /-- SQ_TAIL. R32, R41; reset 0. -/
  sqTail : Word
  /-- CQ_HEAD. R32, R41; reset 0. -/
  cqHead : Word
  /-- CQ_TAIL. R32, R41; reset 0. -/
  cqTail : Word
  /-- HST_RING_EVCNT.DB_VIOL_CNT. R41; reset 0. -/
  dbViolCnt : Half
  /-- HST_RING_EVCNT.CQ_VIOL_CNT. R41; reset 0. -/
  cqViolCnt : Half
  /-- HST_RING_EVCNT.CFG_VIOL_CNT. R41; reset 0. -/
  cfgViolCnt : Half
  /-- HST_RING_EVCNT.FETCH_ERR_CNT. R41; reset 0. -/
  fetchErrCnt : BitVec 8
  /-- HST_RING_EVCNT.WRITE_ERR_CNT. R41; reset 0. -/
  writeErrCnt : BitVec 8
  /-- HST_RING_EVCNT2.DB_STALE_CNT. R41, R37; reset 0. -/
  dbStaleCnt : Word
  /-- HST_RING_EVCNT2.REC_DROP_CNT. R41, R44; reset 0. -/
  recDropCnt : Word
  /-- The ring is armed. R39; reset 0 (not enabled). -/
  armed : Bool
  /-- A completion write was refused: records are dropped until the ring is reset. R44; reset 0. -/
  dropping : Bool
  /-- Slots from SQ_HEAD on that fetch reads have been requested for and that are not admitted yet. R33, R35; reset 0. -/
  fetched : Nat
  /-- CQ indices of the records that qualify for the interrupt. R39; reset: none. -/
  qualifying : List Word
  /-- HST_RING_SEAT.TILE. R370; reset: lowest tile of TILE_MASK (0 while the context is EMPTY). -/
  tile : BitVec 4
  /-- HST_RING_SEAT.SEAT. R370; reset 0. -/
  seat : BitVec 4
  /-- CSKY_ARM's pending arming of the ring's next MATMUL: VA, ROW_GROUP, EVERY_LOG2, MAX_SNAPS. R118; reset: none. -/
  csky : Option (DWord × Nat × Nat × Nat)
  deriving DecidableEq, Repr

def Ring.reset : Ring :=
  { sqBase := 0, cqBase := 0, sizeLog2 := 4, enable := false, irqEn := false, vector := 0, priority := 0,
    dbViol := false, cqViol := false, cfgViol := false, fetchErr := false, writeErr := false,
    sqHead := 0, sqTail := 0, cqHead := 0, cqTail := 0, dbViolCnt := 0, cqViolCnt := 0, cfgViolCnt := 0,
    fetchErrCnt := 0, writeErrCnt := 0, dbStaleCnt := 0, recDropCnt := 0, armed := false, dropping := false,
    fetched := 0, qualifying := [], tile := 0, seat := 0, csky := none }

/-- Where an admitted descriptor stands (R32): admitted and not issued, issued and executing, or finished by its
unit, its completion record not yet written. -/
inductive DescSt where
  | waiting
  | executing
  | done
  deriving DecidableEq, Repr

/-- An FP32 value on its way through stages, with what NUMFLAGS will need when it is written (R74): `ov` says that it is
an infinity made by an overflow, `un` that it is a zero whose exact value was not. -/
structure SV where
  w : Word
  ov : Bool
  un : Bool
  deriving DecidableEq, Repr

/-- The running state of a query row of an ATTN: m, l, and O (DIR 0) or dQ (DIR 1). -/
structure OnlineRow where
  /-- Running maximum. R134, R171; −∞ at the start. -/
  m : SV
  /-- Running sum. R134, R171; 0 at the start. -/
  l : SV
  /-- Running output. R171, R172; 0 at the start. -/
  o : List SV
  deriving DecidableEq, Repr

/-- What a core holds of an ATTN work tile between its key blocks (R171, R172, R191). -/
structure AttnRun where
  /-- Key blocks folded so far. R171; 0 at the start. -/
  next : Nat
  /-- The query rows. R171, R172; as they start. -/
  rows : List OnlineRow
  /-- NUMFLAGS so far. R74; 0 at the start. -/
  flags : BitVec 8
  /-- Pages that were read in a tier below the stack. R173; none at the start. -/
  low : List Nat
  deriving DecidableEq, Repr

/-- One line of a MEM_ADD on its way to its stack controller (R227): physical address, row, index of its first element,
and the source elements as FP32. -/
structure AddLine where
  /-- Virtual address of the first destination byte. R227; a line in flight only. -/
  va : Nat
  /-- Physical address of the first destination byte. R227; a line in flight only. -/
  pa : Nat
  /-- Row of the descriptor. R227; a line in flight only. -/
  row : Nat
  /-- Index n of the first element (R226). R227; a line in flight only. -/
  n : Nat
  /-- Source elements. R227; a line in flight only. -/
  vals : List Word
  deriving DecidableEq, Repr

/-- An accumulator set of a PE (R88, R90). -/
structure AccSet where
  /-- The 17 entries of the tree stack, level 0 first, +0 where none is valid. R88, R90; reset: none listed, all +0. -/
  stack : List Word
  /-- The leaf counter. R88, R90; reset 0. -/
  leaves : Nat
  deriving DecidableEq, Repr

/-- A processing element of a matrix array (R88). -/
structure Pe where
  /-- Set 0. R88; reset: empty. -/
  set0 : AccSet
  /-- Set 1, which F2 alone uses. R88; reset: empty. -/
  set1 : AccSet
  /-- The shadow register. R88, R90; reset 0. -/
  shadow : Word
  deriving DecidableEq, Repr

def Pe.reset : Pe := ⟨⟨[], 0⟩, ⟨[], 0⟩, 0⟩

/-- A pass of a MATMUL that is not clean (R108). -/
structure Pass where
  /-- Number of the pass in its descriptor. R101; a running pass only. -/
  num : Nat
  /-- Feed steps of the pass, K'. R89; a running pass only. -/
  steps : Nat
  /-- The rows staged in the commit queue, in drain order: scratchpad address and bytes. R108; a running pass only. -/
  writes : List (Nat × List Byte)
  /-- What the accumulator sets take: row, column and leaves in the order in which they are pushed, by PE. A tree stack and its
  leaf counter are what the leaves pushed so far make them (R90). R88; a running pass only. -/
  acc : List (Nat × Nat × List Word)
  /-- Clear-sky snapshots still to be written: number, last one of the pass, leaves pushed. R119; none unless armed. -/
  snaps : List (Nat × Bool × Nat)
  deriving DecidableEq, Repr

/-- The part of a key/value block that lies in one page, as a tile's pool holds it (R26, R191, R204). -/
structure KvChunk where
  /-- Tile. R191; a fetched part only. -/
  tile : Nat
  /-- Key/value head. R191; a fetched part only. -/
  head : Nat
  /-- Key block. R191; a fetched part only. -/
  block : Nat
  /-- The page's place in the map of the head. R191; a fetched part only. -/
  slot : Nat
  /-- Bytes of its keys. R177; a fetched part only. -/
  k : List Byte
  /-- Bytes of its values. R177; a fetched part only. -/
  v : List Byte
  deriving DecidableEq, Repr

/-- What the module keeps of a counter-driven descriptor from its check 12 to its end (R149 to R165). -/
structure Job where
  /-- It has its bitmap units and pool slices and serves work tiles; before that it waits at issue. R160, R205; false at check 12. -/
  started : Bool
  /-- The waits at issue that have been counted: 0 for bitmap units, 1 + t for a slice of tile t. R160, R205; none at check 12. -/
  waits : List Nat
  /-- Run-time dimensions, read once. R146, R147; read at check 12. -/
  dims : List Nat
  /-- The latched plan record, or what else the opcode latches at issue. R140, R170; read at issue. -/
  latch : List DWord
  /-- Work tiles in all, T. R156; set at issue. -/
  total : Nat
  /-- First work-tile number of the section in progress. R164; 0 at issue. -/
  section_ : Nat
  /-- Node bits that are set, by number. R160; padding nodes at issue. -/
  bits : List Nat
  /-- Seats that took a work tile: tile, seat. R165; none at issue. -/
  joined : List (Nat × Nat)
  /-- Seats whose counter answered EXHAUSTED. R156; none at issue. -/
  left : List (Nat × Nat)
  /-- Work-tile executions. R165; 0 at issue. -/
  run : Nat
  /-- Executions discarded as duplicates. R165; 0 at issue. -/
  dups : Nat
  /-- NUMFLAGS so far. R74, R165; 0 at issue. -/
  flags : BitVec 8
  /-- Totals that the opcode reports. R173, R317; 0 at issue. -/
  sums : List Nat
  /-- Key/value blocks in the slices of the tile pools, oldest first. R26, R191; none at issue. -/
  chunks : List KvChunk
  deriving DecidableEq, Repr

/-- What waits at a front unit (R351, R357, R272). -/
inductive WaitKind where
  /-- FRONT_ARRIVE with WAIT = 0: it completes when its held arrival counts. -/
  | count
  /-- FRONT_ARRIVE with WAIT = 1, or FRONT_WAIT. -/
  | release
  /-- TALLY_WAIT, with its THRESH. -/
  | tally (thresh : Word)
  /-- TALLY_ALIGN: the tally's tile and entry, TAKE_LOW, and what adds had brought to T at the arrival. -/
  | align (tile idx : Nat) (low : Bool) (adds : Word)
  /-- HAIL_PREPARE: group and TAG. -/
  | prepare (group : Nat) (tag : Word)
  deriving DecidableEq, Repr

/-- A wait at a front unit, or a held arrival (R350 to R355). -/
structure FrontWait where
  /-- Home tile of the entry. R342; a wait only. -/
  tile : Nat
  /-- Entry. R342; a wait only. -/
  entry : Nat
  /-- The identifier named. R342; a wait only. -/
  ident : Word
  /-- The awaited generation. R351; a wait only. -/
  gen : Nat
  /-- What waits. R351; a wait only. -/
  kind : WaitKind
  /-- The arrival is held. R350; a wait only. -/
  held : Bool
  /-- The arrival was held first. R351; a wait only. -/
  wasHeld : Bool
  /-- The wait has a wait slot. R352; a wait only. -/
  slot : Bool
  /-- POLICY: 0 gate, 1 spin, 2 spin then gate. R351; a wait only. -/
  policy : Nat
  /-- SPIN. R351; a wait only. -/
  spin : Nat
  /-- DOLD. R351; a wait only. -/
  dold : Nat
  deriving DecidableEq, Repr

/-- What a unit keeps of a descriptor between its issue and its end (R379). -/
inductive Prog where
  /-- Nothing. -/
  | none
  /-- MEM_ADD: tile and seat of its engine, lines that have not reached their controllers, rows of the descriptor, NUMFLAGS so
  far, whether some line of the lowest row left has been added, and the physical pieces of its whole destination (R219, R227, R228). -/
  | memAdd (tile seat : Nat) (lines : List AddLine) (rows : Nat) (flags : BitVec 8) (part : Bool) (dest : List (Nat × Nat))
  /-- MEM_ADD that waits to start, with its run-time dimensions, read once (R146, R219). -/
  | memWait (dims : List Nat)
  /-- HAIL_COMMIT: elements processed, elements skipped, NUMFLAGS, and the RESULT of the first uncorrectable line (R274, R277). -/
  | hail (elems skipped : Nat) (flags : BitVec 8) (bad : Option DWord)
  /-- HAIL_RANGE_SET: its record, and the old group of its range once it has waited for its groups; until it completes others wait for these (R270). -/
  | hailSet (record : List DWord) (old : List Nat)
  /-- MATMUL: tile and seat, order of issue, the passes that are not clean, the snapshot area and row group of Clear-sky, RESULT, and the
  RESULT of the array fault that abandoned its later passes (R108, R117, R118). -/
  | matmul (tile seat stamp : Nat) (passes : List Pass) (csky : Option (Nat × Nat)) (result : DWord) (fault : Option DWord)
  /-- MODEL_LOAD that waited for another's load: its place in the order of issue (R384). -/
  | modelWait (stamp : Nat)
  /-- A counter-driven descriptor: TILED_GEMM, ATTN, THIN, ATTN_MERGE (R154 to R165). -/
  | job (j : Job)
  /-- KV_APPEND or KV_SCATTER that waits for frames: page entries and frames taken so far, of one space (R188). -/
  | kvAlloc (space : Nat) (taken : List (Nat × Nat))
  /-- KV_PREFETCH: pages moved and pages recomputed so far (R191). -/
  | kvFetch (moved recomputed : Nat)
  /-- A wait or a held arrival at a front unit (R350 to R355). -/
  | front (w : FrontWait)
  /-- VX_PUT: its TXID, egress port, destination and bytes (R301). -/
  | vxPut (txid port dst bytes : Nat)
  /-- VX_SIGNAL: egress port and destination (R303). -/
  | vxSignal (port dst : Nat)
  /-- RED_RUN: its reduction slot (R324). -/
  | red (slot : Nat)
  /-- JET_PASS: its ring slot (R335). -/
  | jet (slot : Nat)
  /-- PMT_PERSIST and PMT_COMMIT: the writes that are awaited, and the record still to be written: its address and bytes (R256). -/
  | persist (waits : List Nat) (record : Option (Nat × List Byte))
  deriving DecidableEq, Repr

/-- What is kept of a descriptor's progress once its unit has ended it: until its record is written a HAIL_RANGE_SET holds its groups (R270). -/
def Prog.kept : Prog → Prog
  | .hailSet r g => .hailSet r g
  | _ => .none

/-- The ring goes no further while the wait lasts (R350, R352). -/
def Prog.holdsRing : Prog → Bool
  | .front _ => true
  | _ => false

/-- The descriptor runs to its end whatever happens to its context's seats (R330). -/
def Prog.isRun : Prog → Bool
  | .red _ => true
  | .jet _ => true
  | _ => false

/-- An admitted descriptor: the module's own copy (R33). -/
structure Desc where
  /-- Ring of the descriptor. R30; an admitted descriptor only. -/
  ring : Nat
  /-- Index of its first slot. R32; an admitted descriptor only. -/
  index : Word
  /-- Words 0 to 7, or 0 to 15. R45, R46; an admitted descriptor only. -/
  words : List DWord
  /-- Where it stands. R32; waiting at admission. -/
  st : DescSt
  /-- Completion status once done. R58; 0 at admission. -/
  status : BitVec 8
  /-- RESULT once done. R55, R58; 0 at admission. -/
  result : DWord
  /-- It has issued. R57; false at admission. -/
  issued : Bool
  /-- The progress its unit keeps. R379; none at admission. -/
  prog : Prog
  deriving DecidableEq, Repr

/-! ### Contexts (02_command_rings.md, 08_memory_tiers.md, 14_scheduling_sharing.md) -/

/-- HST_CTX_STATE.STATE (R59). -/
inductive CtxState where
  | empty
  | bound
  | run
  | paused
  | drain
  | dead
  deriving DecidableEq, Repr

/-- HST_CTX_CFG. -/
structure CtxCfg where
  /-- HST_CTX_CFG.TAG. R59; reset 0. -/
  tag : Half
  /-- HST_CTX_CFG.VER_MAX. R59; reset 1. -/
  verMax : BitVec 4
  /-- HST_CTX_CFG.STRICT_CMD. R59; reset 0. -/
  strictCmd : Bool
  /-- HST_CTX_CFG.STRICT_SUM. R59; reset 0. -/
  strictSum : Bool
  /-- HST_CTX_CFG.CLASS. R59; reset 0. -/
  cls : BitVec 2
  /-- HST_CTX_CFG.RESUMABLE. R59; reset 1. -/
  resumable : Bool
  /-- HST_CTX_CFG.DEBUG. R59; reset 0. -/
  debug : Bool
  deriving DecidableEq, Repr

def CtxCfg.reset : CtxCfg := ⟨0, 1, false, false, 0, true, false⟩

/-- HST_CTX_KILL. -/
structure KillReg where
  /-- HST_CTX_KILL status. R59; reset 0. -/
  status : BitVec 8
  /-- HST_CTX_KILL sequence. R59; reset 0. -/
  seq : Half
  /-- HST_CTX_KILL ring. R59; reset 0. -/
  ring : BitVec 6
  /-- HST_CTX_KILL.KILL_CMD. R59; reset 0. -/
  cmd : Bool
  deriving DecidableEq, Repr

def KillReg.reset : KillReg := ⟨0, 0, 0, false⟩

/-- A physical window of a context. -/
structure Window where
  /-- HST_CTX_WIN_BASE.R. R210, R232; reset 0. -/
  r : Bool
  /-- HST_CTX_WIN_BASE.W. R210, R232; reset 0. -/
  w : Bool
  /-- HST_CTX_WIN_BASE base, a multiple of 64 KiB. R210, R232; reset 0. -/
  base : Nat
  /-- HST_CTX_WIN_SIZE, bytes; 0 unused. R210, R232; reset 0. -/
  size : Nat
  deriving DecidableEq, Repr

def Window.reset : Window := ⟨false, false, 0, 0⟩

/-- A cached translation. R209. -/
structure XEntry where
  /-- First virtual address of the page. R209; a cached entry only. -/
  va : Nat
  /-- Page size in bytes. R209; a cached entry only. -/
  size : Nat
  /-- First physical address of the page. R209; a cached entry only. -/
  pa : Nat
  /-- Reads permitted. R209; a cached entry only. -/
  r : Bool
  /-- Writes permitted. R209; a cached entry only. -/
  w : Bool
  /-- The core that caches it, 16 times its tile and its seat; 192 for the page agent. R209; a cached entry only. -/
  unit : Nat
  deriving DecidableEq, Repr

/-- A pointer entry in the cache of a tile's walker. R209. -/
structure PEntry where
  /-- Tile of the walker; 12 for the page agent's. R209; a cached entry only. -/
  tile : Nat
  /-- Level of the entry, 3 to 1. R208, R209; a cached entry only. -/
  level : Nat
  /-- The virtual address bits above and in the level's index. R208, R209; a cached entry only. -/
  prefix_ : Nat
  /-- The entry as it was read. R208, R209; a cached entry only. -/
  word : DWord
  deriving DecidableEq, Repr

/-- A context's translation state. -/
structure CtxXlate where
  /-- HST_CTX_PT_ROOT [47:12]. R232, R212; reset 0 (DESIGN CHOICE, log 2). -/
  ptRoot : BitVec 36
  /-- HST_CTX_XFAULT_VA. R211, R232; reset 0 (DESIGN CHOICE, log 2). -/
  faultVa : DWord
  /-- HST_CTX_XFAULT_INFO.VALID. R211; reset 0. -/
  valid : Bool
  /-- HST_CTX_XFAULT_INFO.WRITE. R211; reset 0. -/
  write : Bool
  /-- HST_CTX_XFAULT_INFO.LEVEL. R211; reset 0. -/
  level : BitVec 2
  /-- HST_CTX_XFAULT_INFO.CAUSE. R211; reset 0. -/
  cause : BitVec 4
  /-- HST_CTX_XFAULT_INFO.SEQUENCE. R211; reset 0. -/
  seq : Half
  /-- HST_CTX_XFAULT_INFO.FAULT_CNT. R211; reset 0. -/
  faultCnt : Half
  /-- Windows 0 to 15. R210, R232; reset: unused. -/
  windows : Tbl Window
  /-- HST_CTX_POOLWIN(t): first frame and frames. R205, R232; reset 0. -/
  poolWin : Tbl (Nat × Nat)
  /-- Cached translations, each of one core. R209; reset: none. -/
  cache : List XEntry
  /-- Pointer entries that the walkers cache. R209; reset: none. -/
  ptrs : List PEntry
  deriving DecidableEq, Repr

def CtxXlate.reset : CtxXlate := ⟨0, 0, false, false, 0, 0, 0, 0, [], [], [], []⟩

/-- A context's scheduling registers and the scheduler's own record of it. -/
structure CtxSched where
  /-- HST_CTX_SCHED.PRIORITY. R390; reset 0. -/
  priority : BitVec 2
  /-- HST_CTX_SCHED_STAT.PLACED. R390, R369; reset 0. -/
  placed : Bool
  /-- HST_CTX_SCHED_STAT.QUEUED. R390, R371; reset 0. -/
  queued : Bool
  /-- HST_CTX_SCHED_STAT.SUSPENDED. R390, R375; reset 0. -/
  suspended : Bool
  /-- HST_CTX_SCHED_STAT.SEAT_LOST. R390, R381; reset 0. -/
  seatLost : Bool
  /-- HST_CTX_SCHED_STAT.OVERRUN. R390, R378; reset 0. -/
  overrun : Bool
  /-- HST_CTX_SCHED_STAT.PREEMPT_CNT. R390; reset 0. -/
  preemptCnt : Half
  /-- HST_CTX_SCHED_STAT.OVERRUN_CNT. R390; reset 0. -/
  overrunCnt : Half
  /-- HST_CTX_SCHED_STAT.SEAT_LOST_CNT. R390; reset 0. -/
  seatLostCnt : Half
  /-- HST_CTX_ALLOT.TILE_MASK. R390, R366; reset 0. -/
  tileMask : BitVec 12
  /-- HST_CTX_ALLOT.SEATS as created. R390, R366; reset 0. -/
  seats : BitVec 5
  /-- Seats that the last placement left out: tile, seat; they are lost until a placement takes them again. R163, R381; reset: none. -/
  lost : List (Nat × Nat)
  /-- HST_CTX_ALLOT.RINGS. R390, R366; reset 0. -/
  rings : BitVec 7
  /-- HST_CTX_ALLOT.WC. R390, R366; reset 0. -/
  wc : BitVec 8
  /-- HST_CTX_ALLOT.FRONTS. R390, R366; reset 0. -/
  fronts : BitVec 7
  /-- HST_CTX_ALLOT.POOL. R390, R366; reset 0. -/
  pool : BitVec 7
  /-- HST_CTX_ALLOT.DOMAIN. R390; reset 0. -/
  domain : BitVec 4
  /-- HST_CTX_ALLOT.MODEL_WIN. R390, R385; reset 0. -/
  modelWin : Bool
  /-- HST_CTX_FRONTS(t).FIRST by tile. R391; reset 0. -/
  frontFirst : Tbl Nat
  /-- First work counter allotted by tile. R150, R391; reset 0. -/
  wcFirst : Tbl Nat
  /-- Seats placed: tile, seat, physical core. R369; reset: none. -/
  place : List (Nat × Nat × Nat)
  /-- Order in which the context began to wait. R373; reset 0. -/
  waitStamp : Nat
  /-- Order in which the context was placed. R374; reset 0. -/
  placeStamp : Nat
  /-- Completions since it was placed. R374; reset 0. -/
  jobs : Nat
  /-- The context's slot of the cyclic table ended and its pre-emption has not begun. R378, R379; reset 0. -/
  slotOver : Bool
  /-- Idle for IDLE_LIMIT. R374; reset 0. -/
  idleHit : Bool
  /-- Placed for HOLD_LIMIT. R374; reset 0. -/
  holdHit : Bool
  /-- RESUME cleared SUSPENDED and the context has not been placed since. R371; reset 0. -/
  resumed : Bool
  /-- Seats with an image in a stack's reserved range: tile, seat. R379; reset: none. -/
  images : List (Nat × Nat)
  /-- A save of the seats is in progress. R379, R389; reset 0. -/
  saving : Bool
  /-- A restore (or a first placement's zeroing) is in progress. R379; reset 0. -/
  restoring : Bool
  /-- HST_CTX_PT_ROOT was written since the last resume. R209; reset 0. -/
  rootWritten : Bool
  deriving DecidableEq, Repr

def CtxSched.reset : CtxSched :=
  { priority := 0, placed := false, queued := false, suspended := false, seatLost := false, overrun := false,
    preemptCnt := 0, overrunCnt := 0, seatLostCnt := 0, tileMask := 0, seats := 0, lost := [], rings := 0, wc := 0, fronts := 0,
    pool := 0, domain := 0, modelWin := false, frontFirst := [], wcFirst := [], place := [], waitStamp := 0,
    placeStamp := 0, jobs := 0, slotOver := false, idleHit := false, holdHit := false, resumed := false, images := [],
    saving := false, restoring := false, rootWritten := false }

/-- An activation pool. -/
structure ActPool where
  /-- HST_CTX_ACTPOOL.VALID. R222, R232; reset 0. -/
  valid : Bool
  /-- ENTRIES of the save table. R222; reset 0. -/
  entries : Nat
  /-- TABLE_VA. R222; reset 0. -/
  tableVa : DWord
  /-- Regions stack, MRDIMM, Permafrost: VA and bytes. R222; reset: none. -/
  regions : List (Nat × Nat)
  /-- Top pointer of each region, in 64 B units. R222; reset 0. -/
  tops : List Nat
  /-- Live saves, oldest first: tier, mode, format, units, byte offset, bytes saved, index. R223, R225; reset: none. -/
  saves : List (List Nat)
  deriving DecidableEq, Repr

def ActPool.reset : ActPool := ⟨false, 0, 0, [], [], []⟩
/-! ### Host domains and attachments (14_scheduling_sharing.md, 16_host_attach.md) -/

/-- A host domain. -/
structure Dom where
  /-- MOD_DOM_POLICY.EN. R363; reset 0. -/
  en : Bool
  /-- MOD_DOM_POLICY.EXTERNAL. R363; reset 0. -/
  external : Bool
  /-- MOD_DOM_POLICY.HOME_IO. R363; reset 0. -/
  homeIo : Bool
  /-- MOD_DOM_POLICY.DEBUG_OK. R363; reset 0. -/
  debugOk : Bool
  /-- MOD_DOM_POLICY.CLASS2_OK. R363; reset 0. -/
  class2Ok : Bool
  /-- MOD_DOM_POLICY.MODEL_OK. R363; reset 0. -/
  modelOk : Bool
  /-- MOD_DOM_POLICY.SHARE_OK. R363; reset 0. -/
  shareOk : Bool
  /-- MOD_DOM_POLICY.WEIGHT. R363; reset 1. -/
  weight : BitVec 8
  /-- MOD_DOM_POLICY.CTX_MAX. R363; reset 0. -/
  ctxMax : BitVec 11
  /-- MOD_DOM_POLICY.PIN_MAX. R363; reset 0. -/
  pinMax : BitVec 4
  /-- MOD_DOM_QUOTA.WC_MAX. R363; reset 0. -/
  wcMax : BitVec 8
  /-- MOD_DOM_QUOTA.FRONT_MAX. R363; reset 0. -/
  frontMax : BitVec 7
  /-- MOD_DOM_QUOTA.POOL_MAX. R363; reset 0. -/
  poolMax : BitVec 7
  /-- MOD_DOM_QUOTA.SEAT_MAX. R363; reset 0. -/
  seatMax : BitVec 5
  /-- MOD_DOM_QUOTA.RING_MAX. R363; reset 0. -/
  ringMax : BitVec 13
  /-- MOD_DOM_MAP.ATTACH. R424; reset 0. -/
  attach : BitVec 3
  /-- MOD_DOM_MAP.INDEX. R424; reset 0. -/
  index : BitVec 4
  /-- MOD_DOM_MAP.PWIN_GIB. R424; reset 0. -/
  pwinGib : BitVec 40
  /-- MOD_DOM_MAP.PWIN_BASE. R424; reset 0. -/
  pwinBase : BitVec 12
  /-- No MRDIMM run is left for the partition's window: the domain is never enabled. R426, R464; reset 0. -/
  noWindow : Bool
  /-- HST_DOM_HWIN.HBASE [63:12]. R426; reset 0. -/
  hbase : BitVec 52
  /-- HST_DOM_REQ: the last write that started a request. R365; reset 0. -/
  req : DWord
  /-- High half of HST_DOM_REQ as last written, for a write in halves. R425; reset 0. -/
  reqHi : Word
  /-- HST_DOM_RSP.BUSY. R365; reset 0. -/
  busy : Bool
  /-- HST_DOM_RSP.DONE. R365; reset 0. -/
  done : Bool
  /-- HST_DOM_RSP.CODE. R365; reset 0. -/
  code : BitVec 4
  /-- HST_DOM_RSP.CTX. R365; reset 0. -/
  ctx : BitVec 10
  /-- HST_DOM_RSP.DONE_CNT. R365; reset 0. -/
  doneCnt : Half
  /-- HST_DOM_RSP.REQ_IGNORED_CNT. R365; reset 0. -/
  reqIgnoredCnt : Half
  /-- The domain is lost while its request is being served. R429; reset 0. -/
  lostWhileBusy : Bool
  /-- V_h, the served value. R372; reset 0. -/
  served : DWord
  /-- MSI-X table: two 64-bit words by vector. R425; reset 0 with Vector Control's mask bit 1 (PRESUMED, the PCIe standard's; log 20). -/
  msix : Tbl (DWord × DWord)
  /-- MSI-X pending-bit array: the vectors that are pending. R425; reset: none. -/
  pba : List Nat
  /-- MSI-X Enable. R419, R423; reset 0 (PRESUMED, the PCIe standard's; log 20). -/
  msixEn : Bool
  /-- MSI-X Function Mask. R419, R423; reset 0 (PRESUMED, the PCIe standard's; log 20). -/
  msixMask : Bool
  deriving DecidableEq, Repr

def Dom.reset : Dom :=
  { en := false, external := false, homeIo := false, debugOk := false, class2Ok := false, modelOk := false,
    shareOk := false, weight := 1, ctxMax := 0, pinMax := 0, wcMax := 0, frontMax := 0, poolMax := 0,
    seatMax := 0, ringMax := 0, attach := 0, index := 0, pwinGib := 0, pwinBase := 0, noWindow := false, hbase := 0, req := 0, reqHi := 0,
    busy := false, done := false, code := 0, ctx := 0, doneCnt := 0, reqIgnoredCnt := 0, lostWhileBusy := false,
    served := 0, msix := [], pba := [], msixEn := false, msixMask := false }

/-- An MSI-X entry that nothing has written. -/
def msixReset : DWord × DWord := (0, 0x100000000)

/-- A host attachment: UCIe of IO0, UCIe of IO1, PCIe port A, PCIe port B. -/
structure Attach where
  /-- HST_LINK_STAT.STATE. R428; reset 0. -/
  state : BitVec 3
  /-- HST_LINK_STAT.WIDTH. R428; reset 0. -/
  width : BitVec 4
  /-- HST_LINK_STAT.DEGRADED. R428; reset 0. -/
  degraded : Bool
  /-- HST_LINK_STAT.VIOL. R428; reset 0. -/
  viol : Bool
  /-- HST_LINK_STAT.DOWN. R428; reset 0. -/
  down : Bool
  /-- HST_LINK_STAT.FOREIGN. R428; reset 0. -/
  foreign : Bool
  /-- HST_LINK_STAT.VIOL_CNT. R428; reset 0. -/
  violCnt : Half
  /-- HST_LINK_STAT.DOWN_CNT. R428; reset 0. -/
  downCnt : Half
  /-- HST_LINK_STAT.FOREIGN_CNT. R428; reset 0. -/
  foreignCnt : Half
  /-- The attachment's log, 32 entries. R428; reset: empty. -/
  log : EvLog
  /-- PERST# of the port is asserted. R423, R430, R479; reset 1 (the integrator holds it until input good). -/
  perst : Bool
  /-- Capability registers latched by reads of their low dwords: by function, the value by offset. R469; reset: none. -/
  latch : Tbl (Tbl DWord)
  /-- AER's uncorrectable-error status, by function. R419, R423, R427; reset 0. -/
  aer : Tbl Word
  /-- Functions in D3hot. R423; reset: none, every one in D0. -/
  d3 : List Nat
  /-- BAR0's address as the host has written it, by function. R425; reset 0 (PRESUMED, log 20). -/
  bar : Tbl DWord
  /-- MSI-X's enable and function mask of a port's lone function 0, which has no domain to hold them. R423, R490; reset 0, 0 (PRESUMED, log 20). -/
  loneMsix : Bool × Bool
  /-- UCIe lane-repair settings of the attach, 16 B per module, from the redundancy map. R456; reset: none before step 12. -/
  laneRepair : List Byte
  deriving DecidableEq, Repr

def Attach.reset : Attach := ⟨0, 0, false, false, false, false, 0, 0, 0, EvLog.reset, true, [], [], [], [], (false, false), []⟩

/-! ### Scheduling (14_scheduling_sharing.md) -/

/-- A slot of the cyclic table. -/
structure CycSlot where
  /-- MOD_CYC_SLOT.VALID. R376; reset 0. -/
  valid : Bool
  /-- MOD_CYC_SLOT.CONTEXT. R376; reset 0. -/
  context : BitVec 10
  /-- MOD_CYC_SLOT.TILE_MASK. R376; reset 0. -/
  tileMask : BitVec 12
  /-- MOD_CYC_SLOT.START_US. R376; reset 0. -/
  startUs : BitVec 17
  /-- MOD_CYC_SLOT.LEN_US. R376; reset 0. -/
  lenUs : BitVec 17
  deriving DecidableEq, Repr

def CycSlot.reset : CycSlot := ⟨false, 0, 0, 0, 0⟩

/-- The cyclic table. -/
structure Cyclic where
  /-- MOD_CYC_CFG.EN. R376; reset 0. -/
  en : Bool
  /-- MOD_CYC_CFG.COMMIT_PEND. R376; reset 0. -/
  commitPend : Bool
  /-- MOD_CYC_CFG.OWNER. R376; reset 0. -/
  owner : BitVec 4
  /-- MOD_CYC_CFG.PERIOD_US, shadow. R376; reset 10,000. -/
  periodUs : BitVec 17
  /-- MOD_CYC_CFG.LEAD_US, shadow. R376; reset 800. -/
  leadUs : BitVec 11
  /-- PERIOD_US of the live table. R376; reset 10,000 (DESIGN CHOICE, log 2). -/
  livePeriod : BitVec 17
  /-- LEAD_US of the live table. R376; reset 800 (DESIGN CHOICE, log 2). -/
  liveLead : BitVec 11
  /-- TRIM written for the next period, CLK_FAB cycles. R376, R378; reset 0. -/
  trim : BitVec 16
  /-- Length of the period that runs, CLK_FAB cycles of IO0. R378; reset 0. -/
  periodCycles : Nat
  /-- The shadow copy. R376; reset: no valid slot. -/
  shadow : Tbl CycSlot
  /-- The checked copy that awaits the period start. R376; reset: none. -/
  checked : Option (Tbl CycSlot × BitVec 17 × BitVec 11)
  /-- The live copy. R376; reset: no valid slot. -/
  live : Tbl CycSlot
  /-- Live slots whose lead has begun and whose end has not come. R378; reset: none. -/
  open_ : List Nat
  /-- Live slots that have started. R378; reset: none. -/
  started : List Nat
  /-- MOD_CYC_STAT.ERR. R378; reset 0. -/
  err : Bool
  /-- MOD_CYC_STAT.OVERRUN. R378; reset 0. -/
  overrun : Bool
  /-- MOD_CYC_STAT.LATE. R378; reset 0. -/
  late : Bool
  /-- MOD_CYC_STAT.ERR_CODE. R378, R377; reset 0. -/
  errCode : BitVec 4
  /-- MOD_CYC_STAT.OVERRUN_CNT. R378; reset 0. -/
  overrunCnt : Half
  /-- MOD_CYC_STAT.LATE_CNT. R378; reset 0. -/
  lateCnt : Half
  /-- MOD_CYC_STAT.PERIOD_CNT. R378; reset 0. -/
  periodCnt : BitVec 24
  deriving DecidableEq, Repr

def Cyclic.reset : Cyclic :=
  { en := false, commitPend := false, owner := 0, periodUs := 10000, leadUs := 800, livePeriod := 10000,
    liveLead := 800, trim := 0, periodCycles := 0, shadow := [], checked := none, live := [], open_ := [],
    started := [], err := false, overrun := false, late := false, errCode := 0, overrunCnt := 0, lateCnt := 0,
    periodCnt := 0 }

/-- The scheduler of the module. -/
structure Sched where
  /-- MOD_SCHED_CFG.QUANTUM_JOBS. R374; reset 256. -/
  quantumJobs : Half
  /-- MOD_SCHED_CFG.IDLE_LIMIT. R374; reset 64. -/
  idleLimit : Half
  /-- MOD_SCHED_CFG.HOLD_LIMIT. R374; reset 172. -/
  holdLimit : Half
  /-- MOD_SCHED_CFG.SAVE_PER_TILE. R374; reset 128. -/
  savePerTile : BitVec 10
  /-- Order count of waits and placements. R373, R374; reset 0. -/
  stamp : Nat
  /-- The cyclic table. R376; reset as its own fields. -/
  cyc : Cyclic
  deriving DecidableEq, Repr

def Sched.reset : Sched := ⟨256, 64, 172, 128, 0, Cyclic.reset⟩

/-- MOD_MC_SLOT.STATE (R382). -/
inductive SlotState where
  | empty
  | loading
  | resident
  deriving DecidableEq, Repr

/-- A model slot. -/
structure ModelSlot where
  /-- MOD_MC_SLOT.STATE. R386; reset EMPTY. -/
  state : SlotState
  /-- MOD_MC_SLOT.PIN. R386; reset 0. -/
  pin : Bool
  /-- MOD_MC_SLOT.SHARE. R386; reset 0. -/
  share : Bool
  /-- MOD_MC_SLOT.OWNER. R386; reset 0. -/
  owner : BitVec 4
  /-- Contexts that hold the slot (MOD_MC_SLOT.HOLDERS counts them). R382, R386; reset: none. -/
  holders : List Nat
  /-- MOD_MC_SLOT.BYTES. R386; reset 0. -/
  bytes : BitVec 46
  /-- MOD_MC_ID. R386; reset 0. -/
  id : DWord
  /-- The LRU stamp. R382; reset 0. -/
  stamp : Nat
  /-- The descriptor whose load fills the slot: context, ring, index. R384; reset: none. -/
  loader : Option (Nat × Nat × Word)
  deriving DecidableEq, Repr

def ModelSlot.reset : ModelSlot := ⟨.empty, false, false, 0, [], 0, 0, 0, none⟩

/-! ### Memory controllers (08_memory_tiers.md, 18_errors_ras.md) -/

/-- A DIMM channel. -/
structure Dimm where
  /-- DIM_CH_STAT.STATE. R217; reset 0. -/
  state : BitVec 2
  /-- DIM_CH_STAT.CAUSE. R217; reset 0. -/
  cause : BitVec 3
  /-- DIM_CH_STAT.CAP, 4 GiB units. R217; reset 0. -/
  cap : BitVec 8
  /-- DIM_CH_STAT.SPEED. R217; reset 0. -/
  speed : BitVec 2
  /-- DIM_CH_STAT.CE_CNT. R217; reset 0. -/
  ceCnt : Half
  /-- DIM_CH_STAT.UE_CNT. R217; reset 0. -/
  ueCnt : Half
  /-- The channel's access rate: 0 full, 1 half, 2 a quarter. R409; reset 0. -/
  rate : Nat
  deriving DecidableEq, Repr

def Dimm.reset : Dimm := ⟨0, 0, 0, 0, 0, 0, 0⟩

/-- A stack and its controller. -/
structure Stack where
  /-- STK_CFG.RSV_GIB. R472, R473; reset 0. -/
  rsvGib : BitVec 8
  /-- The stack is in service after training (MOD_CAP.STACK). R464, R468; reset 0. -/
  inService : Bool
  /-- The device is lost in service. R460; reset 0. -/
  lost : Bool
  /-- STK_ERR_STAT.CE. R459; reset 0. -/
  ce : Bool
  /-- STK_ERR_STAT.UE. R459; reset 0. -/
  ue : Bool
  /-- STK_ERR_STAT.PIN_SUSPECT. R459, R457; reset 0. -/
  pinSuspect : Bool
  /-- STK_ERR_STAT.CE_CNT. R459; reset 0. -/
  ceCnt : BitVec 24
  /-- STK_ERR_STAT.UE_CNT. R459; reset 0. -/
  ueCnt : Half
  /-- STK_ERR_STAT.SCRUB_CNT. R459; reset 0. -/
  scrubCnt : BitVec 8
  /-- Lines corrected by pin since reset; a pin by 64 times its pseudo-channel and its number there. R457; reset 0. -/
  pinLines : Tbl Nat
  /-- Pins that HBM4 lane repair has remapped. R456, R457; reset: none before training. -/
  remapped : List Nat
  /-- STK_HAIL_STAT.GUARD_CNT. R282; reset 0. -/
  guardCnt : Half
  /-- STK_HAIL_STAT.GUARD. R282; reset 0. -/
  guard : Bool
  /-- STK_HAIL_STAT.COMMIT_CNT. R282; reset 0. -/
  commitCnt : Half
  /-- STK_HAIL_STAT.UE_CNT. R282; reset 0. -/
  hailUeCnt : Half
  /-- The stack's access rate: 0 full, 1 half, 2 a quarter. R409; reset 0. -/
  rate : Nat
  deriving DecidableEq, Repr

def Stack.reset : Stack := ⟨0, false, false, false, false, false, 0, 0, 0, [], [], 0, false, 0, 0, 0⟩

/-! ### Errors, boot and Bluone (17_trust_otp.md, 18_errors_ras.md, 19_bringup_registers.md) -/

/-- The module error log and MOD_ERR_STAT. -/
structure ErrMod where
  /-- MOD_ERR_LOG, 1,024 entries. R458; reset: empty. -/
  log : EvLog
  /-- MOD_ERR_STAT.INTERNAL. R459; reset 0. -/
  internal : Bool
  /-- MOD_ERR_STAT.FATAL. R459; reset 0. -/
  fatal : Bool
  /-- MOD_ERR_STAT.WRAP. R459; reset 0. -/
  wrap : Bool
  /-- MOD_ERR_STAT.INTERNAL_CNT. R459; reset 0. -/
  internalCnt : Half
  /-- MOD_ERR_STAT.WRAP_CNT. R459; reset 0. -/
  wrapCnt : Half
  /-- A fatal error has killed every context: no creation is answered until module reset. R460; reset 0. -/
  closed : Bool
  /-- Corrected events by unit, 16 times its SOURCE and its number: what tells the first and each 1,024th. R458; reset 0. -/
  ceSeen : Tbl Nat
  deriving DecidableEq, Repr

def ErrMod.reset : ErrMod := ⟨EvLog.reset, false, false, false, 0, 0, false, []⟩

/-- Bring-up. -/
structure Boot where
  /-- MOD_BOOT.PHASE. R467; reset 0. -/
  phase : BitVec 4
  /-- MOD_BOOT.STEP_MS. R467; reset 0. -/
  stepMs : BitVec 12
  /-- MOD_BOOT.FAIL_CNT. R467; reset 0. -/
  failCnt : BitVec 8
  /-- MOD_CAP. R468; reset 0 until step 10 makes it final (DESIGN CHOICE, log 2). -/
  cap : DWord
  /-- Steps of R463 that have completed. R463; reset: none. -/
  steps : List Nat
  /-- DIM_CFG.ILV. R472, R207; reset 0. -/
  ilv : Bool
  /-- DIM_CFG.RDIMM. R472, R216; reset 0. -/
  rdimm : Bool
  /-- DIM_CFG.SPEED. R472; reset 0. -/
  dimSpeed : BitVec 2
  /-- DIM_CFG.CAP_GIB of each I/O die. R472; reset 0. -/
  dimCap : Tbl (BitVec 14)
  /-- MOD_MC_CFG.STK_GIB. R472; reset 0. -/
  stkGib : BitVec 6
  /-- The host die has left reset. R430, R463; reset 0. -/
  hostDie : Bool
  /-- Permafrost devices active at step 8, which MOD_CAP shows. R463, R468; reset 0. -/
  pmtActive : BitVec 8
  deriving DecidableEq, Repr

def Boot.reset : Boot := ⟨0, 0, 0, 0, [], false, false, 0, [], 0, false, 0⟩

/-- The part (R3, R4): what the factory block's part code and absent-unit fuses say. -/
inductive Variant where
  | mf12   -- XR-9612-MF
  | ms12   -- XR-9612-MS
  | ms08   -- XR-9608-MS
  deriving DecidableEq, Repr

/-- Bluone: OTP, flash, boot and keys. -/
structure Bluone where
  /-- The variant that the factory block names. R3, R4, R442; reset XR-9612-MF (DESIGN CHOICE, log 3). -/
  variant : Variant
  /-- The factory serial. R442; reset 0 (DESIGN CHOICE, log 3). -/
  serial : DWord
  /-- The device secret, ROM-readable only. R442, R437; reset 32 zero bytes (DESIGN CHOICE, log 3). -/
  secret : List Byte
  /-- The vendor root hash. R442; reset 32 zero bytes (DESIGN CHOICE, log 3). -/
  rootHash : List Byte
  /-- The factory block passes its CRC. R435, R442; reset 1 (DESIGN CHOICE, log 3). -/
  factoryOk : Bool
  /-- The OTP fuses outside the factory block and the SVN counter, by byte offset. R442; reset: factory generations (DESIGN CHOICE, log 3). -/
  otp : Memory
  /-- OTP as the ROM last sensed it. R435, R471; reset: nothing sensed. -/
  sensed : Memory
  /-- Flash: bundle slot A. R432; reset: empty (DESIGN CHOICE, log 3). -/
  slotA : List Byte
  /-- Flash: bundle slot B. R432; reset: empty (DESIGN CHOICE, log 3). -/
  slotB : List Byte
  /-- Flash: two copies of the owner configuration. R432, R439; reset: none (DESIGN CHOICE, log 3). -/
  cfgA : Option OwnerCfg
  /-- Flash: the second copy. R432, R439; reset: none (DESIGN CHOICE, log 3). -/
  cfgB : Option OwnerCfg
  /-- Flash: staged tokens in staging order. R432, R444; reset: none (DESIGN CHOICE, log 3). -/
  tokens : List (List Byte)
  /-- Flash: codes of the tokens taken last, in staging order. R444; reset: none (DESIGN CHOICE, log 3). -/
  tokenCodes : List Nat
  /-- Flash: the identity certificate chain. R432, R438; reset: the identity certificate that the module ships with
  (R1, R437), whose bytes are free (Config.identityCert, log 3). -/
  certs : List Byte
  /-- The configuration in force. R439; reset: none. -/
  cfg : Option OwnerCfg
  /-- Flash: slots in which an image after the loader failed its digest at an earlier boot (0 A, 1 B). R435; reset: none (DESIGN CHOICE, log 3). -/
  badSlots : List Nat
  /-- Stack pins that are suspect, as stack and pin: what Bluone has the next training remap. R457; reset: none (kept across resets: DESIGN CHOICE,
  log 92). -/
  suspects : List (Nat × Nat)
  /-- The alias certificate. R437, R438; reset: empty. -/
  alias_ : List Byte
  /-- Boot stage that runs: 0 ROM, 1 loader, 2 runtime, 3 training images verified. R433; reset 0. -/
  stage : Nat
  /-- Bluone halted on a bad factory block. R435; reset 0. -/
  halted : Bool
  /-- A DEBUG_UNLOCK token was applied at this boot. R445; reset 0. -/
  unlock : Bool
  /-- Bluone alone was reset: the boot that follows applies no tokens. R446; reset 0. -/
  warm : Bool
  /-- Owner commands that wait until stage 2 runs, first in first out. R446; reset: none. -/
  waiting : List Instr
  /-- The manifest of the running bundle. R438; reset: empty. -/
  manifest : List Byte
  /-- Measurements by index. R438; reset: none. -/
  measures : Tbl (List Byte)
  /-- Key slots by number; no path reads them. R437; reset: empty. -/
  keys : Tbl (List Byte)
  /-- The valid nonce. R440; reset: none. -/
  nonce : Option (List Byte)
  /-- SPDM version and algorithms have been negotiated on this connection. R438; reset 0. -/
  spdm : Nat
  deriving DecidableEq, Repr

/-- SEC_STAT, OTP_STAT, SEC_LOCK and SEC_LOCK_CTL. -/
structure SecRegs where
  /-- SEC_STAT.BOOT_SLOT. R447; reset 0. -/
  bootSlot : BitVec 2
  /-- SEC_STAT.UNOWNED. R447; reset 1. -/
  unowned : Bool
  /-- SEC_STAT.DEBUG. R447; reset 1. -/
  debugStat : BitVec 2
  /-- SEC_STAT.SLOT_FALLBACK. R447; reset 0. -/
  slotFallback : Bool
  /-- SEC_STAT.CONFIG_OK. R447; reset 0. -/
  configOk : Bool
  /-- SEC_STAT.RECOVERY_CAUSE. R447; reset 0. -/
  recoveryCause : BitVec 4
  /-- SEC_STAT.WDOG_CNT. R447; reset 0. -/
  wdogCnt : BitVec 8
  /-- SEC_STAT.FENCE_REFUSED_CNT. R447; reset 0. -/
  fenceRefusedCnt : Half
  /-- SEC_STAT.FALLBACK_CNT. R447; reset 0. -/
  fallbackCnt : BitVec 8
  /-- OTP_STAT.OWNER_GEN. R447; reset 0 until OTP is sensed. -/
  ownerGen : BitVec 2
  /-- OTP_STAT.PWR_GEN. R447; reset 0 until OTP is sensed. -/
  pwrGen : BitVec 2
  /-- OTP_STAT.RED_GEN. R447; reset 0 until OTP is sensed. -/
  redGen : Bool
  /-- OTP_STAT.CRC_BAD. R447; reset 0. -/
  crcBad : Bool
  /-- OTP_STAT.APPLIED. R447; reset 0. -/
  applied : BitVec 4
  /-- OTP_STAT.REFUSED. R447; reset 0. -/
  refused : BitVec 4
  /-- OTP_STAT.LAST_CODE. R447; reset 0. -/
  lastCode : BitVec 4
  /-- OTP_STAT.CRC_BAD_CNT. R447; reset 0. -/
  crcBadCnt : Half
  /-- SEC_LOCK_CTL.DONE (SEC_STAT.LOCK_DONE shows it). R441; reset 0. -/
  done : Bool
  /-- SEC_LOCK_CTL.LOCKS. R441; reset 0. -/
  locksUsed : Half
  /-- SEC_LOCK(r). R441; reset 0. -/
  locks : Tbl DWord
  deriving DecidableEq, Repr

def SecRegs.reset : SecRegs :=
  { bootSlot := 0, unowned := true, debugStat := 1, slotFallback := false, configOk := false, recoveryCause := 0,
    wdogCnt := 0, fenceRefusedCnt := 0, fallbackCnt := 0, ownerGen := 0, pwrGen := 0, redGen := false,
    crcBad := false, applied := 0, refused := 0, lastCode := 0, crcBadCnt := 0, done := false, locksUsed := 0,
    locks := [] }

/-- Pins of the connectors (20_module_hardware.md). -/
structure Pins where
  /-- IN_PRSNT_N is low: the module is mated. R475, R476; reset 1 (input good has come). -/
  inPrsnt : Bool
  /-- The input switch is closed. R476; reset 1 (input good has come). -/
  switch : Bool
  /-- Input good has come. R462; reset 1. -/
  inputGood : Bool
  /-- PWR_FAIL_N is low. R483, R393; reset 0. -/
  pwrFail : Bool
  /-- TRIP_N is low. R483, R410; reset 0. -/
  trip : Bool
  /-- MGT_ADDR, sampled at input good. R483; reset 0 (DESIGN CHOICE, log 2). -/
  mgtAddr : BitVec 3
  /-- MGT_ALERT_N is low. R483; reset 0. -/
  alert : Bool
  deriving DecidableEq, Repr

def Pins.reset : Pins := ⟨true, true, true, false, false, 0, false⟩

/-- What a request to a host attachment is: the three requests of CXL.cache (R419, R420), and PCIe memory reads and writes (R426). -/
inductive HostKind where
  | rdCurr
  | itoMWr
  | wrCur
  | memRd
  | memWr
  deriving DecidableEq, Repr

/-- What the module sends outside, in order. -/
inductive Out where
  /-- An interrupt vector of a domain is raised (R39). -/
  | irq (dom vector : Nat)
  /-- A request of the module to host memory: attachment, CacheID or function number, host address, bytes, and a write's data (R420, R423,
  R426). -/
  | host (attach index : Nat) (kind : HostKind) (addr n : Nat) (data : List Byte)
  /-- A read of a register access is answered with data (R425). -/
  | tlpData (attach : Nat) (data : Nat)
  /-- A request is answered with Unsupported Request (R427). -/
  | tlpUr (attach : Nat)
  /-- A configuration request is answered with Request Retry Status (R430). -/
  | tlpRrs (attach : Nat)
  /-- An HMS read completion with data: header bits [63:0] and [127:64], and the line (R421). -/
  | cpld (attach : Nat) (lo hi : DWord) (data : List Byte)
  /-- An HMS error completion: its header (R421). -/
  | cple (attach : Nat) (lo hi : DWord)
  /-- A snoop is answered RspIHitI (R420). -/
  | rspIHitI (attach cacheId : Nat)
  /-- An owner command's answer code and data (R440). -/
  | mgt (cmd code : Nat) (data : List Byte)
  /-- An SPDM response (R438). -/
  | spdm (req : Nat) (data : List Byte)
  /-- A Vexja frame leaves a port (R288): slot types, slots, frame control and CRC. -/
  | frame (port : Nat) (types : List Nat) (slots : List FSlot) (lo hi : DWord) (crc : Word)
  /-- The training exchange of a port: VER_MIN, VER_MAX, EPID, port, initial credits, RESUME (R286, R491). -/
  | train (port verMin verMax epid : Nat) (credits : List Nat) (resume : Bool)
  /-- A packet to a Permafrost device, as it is striped over the lanes (R237, R238). -/
  | pmt (dev : Nat) (packet : List Byte)
  deriving DecidableEq, Repr
/-! ### Hail (10_parameter_update.md) -/

/-- A shard group's state (R269). -/
inductive GroupState where
  | idle
  | prepared
  | committing
  | partial_
  deriving DecidableEq, Repr

/-- A shard group. -/
structure HailGroup where
  /-- The group is set. R263; reset 0. -/
  valid : Bool
  /-- Its state. R269; reset IDLE. -/
  state : GroupState
  /-- EXPECT. R263, R274; reset 0. -/
  expect : Word
  /-- LAST_TAG. R263, R274; reset 0. -/
  lastTag : Word
  /-- PREP_TAG. R271, R272; reset 0. -/
  prepTag : Word
  /-- KEY. R263; reset 0. -/
  key : DWord
  /-- STREAM. R263; reset 0. -/
  stream : Word
  deriving DecidableEq, Repr

def HailGroup.reset : HailGroup :=
  { valid := false, state := .idle, expect := 0, lastTag := 0, prepTag := 0, key := 0, stream := 0 }

/-- A range, bound to its physical runs. -/
structure HailRange where
  /-- The range is set. R264; reset 0. -/
  valid : Bool
  /-- GROUP. R264; reset 0. -/
  group : Nat
  /-- DECAY_EN. R264; reset 0. -/
  decay : Bool
  /-- W_FMT. R264; reset 0. -/
  wFmt : Nat
  /-- G_FMT. R264; reset 0. -/
  gFmt : Nat
  /-- Physical address of the weights. R264; reset 0. -/
  wPa : Nat
  /-- Physical address of the gradients. R264; reset 0. -/
  gPa : Nat
  /-- COUNT. R264; reset 0. -/
  count : Nat
  /-- LOG_OFF. R264; reset 0. -/
  logOff : Nat
  /-- The progress pointer. R269; reset 0. -/
  ptr : Nat
  deriving DecidableEq, Repr

def HailRange.reset : HailRange :=
  { valid := false, group := 0, decay := false, wFmt := 0, gFmt := 0, wPa := 0, gPa := 0, count := 0,
    logOff := 0, ptr := 0 }

/-- A work counter of a tile. -/
structure WorkCounter where
  /-- NEXT. R149; reset 0. -/
  next : Word
  /-- LIMIT. R149; reset 0. -/
  limit : Word
  /-- STEP. R149; reset 1. -/
  step : BitVec 8
  /-- The redo list, oldest first. R149; reset: empty. -/
  redo : List Nat
  /-- The descriptor that holds the counter: context, ring, index. R152; reset: none. -/
  holder : Option (Nat × Nat × Word)
  deriving DecidableEq, Repr

def WorkCounter.reset : WorkCounter :=
  { next := 0, limit := 0, step := 1, redo := [], holder := none }


/-- A frame region of a key/value space. -/
structure KvTier where
  /-- STK_VA, DIM_VA or PMT_VA. R175; reset 0. -/
  va : Nat
  /-- FRAMES. R175; reset 0. -/
  frames : Nat
  /-- LWM. R175; reset 0. -/
  lwm : Nat
  /-- HWM. R175; reset 0. -/
  hwm : Nat
  /-- Frames from here on have never been allocated: they head the list of free frames in ascending order. R182; reset 0. -/
  fresh : Nat
  /-- Released frames, in the order of their release, behind the fresh ones. R182; reset: none. -/
  freed : List Nat
  /-- Pages are moved or dropped from the tier until it has HWM free frames; the pages whose move an error abandoned meanwhile. R189, R195;
  reset: no. -/
  relief : Option (List Nat)
  deriving DecidableEq, Repr

def KvTier.reset : KvTier :=
  { va := 0, frames := 0, lwm := 0, hwm := 0, fresh := 0, freed := [], relief := none }

/-- A page move in progress (R190): the page, its source and its destination. -/
structure KvMove where
  /-- Page. R190; a move in progress only. -/
  page : Nat
  /-- Source tier. R190; a move in progress only. -/
  tier : Nat
  /-- Source frame. R190; a move in progress only. -/
  frame : Nat
  /-- Destination tier. R190; a move in progress only. -/
  dstTier : Nat
  /-- Destination frame. R190; a move in progress only. -/
  dstFrame : Nat
  deriving DecidableEq, Repr

/-- A recompute in progress (R194): the page, the frame that it fills, and the descriptor that needed it first. -/
structure KvRecomp where
  /-- Page. R194; a recompute in progress only. -/
  page : Nat
  /-- Frame of the stack tier. R194; a recompute in progress only. -/
  frame : Nat
  /-- Ring of the descriptor. R194; a recompute in progress only. -/
  ring : Nat
  /-- Index of the descriptor. R194; a recompute in progress only. -/
  index : Word
  /-- The tile that needs the page. R194; a recompute in progress only. -/
  tile : Nat
  deriving DecidableEq, Repr

/-- The page agent's read of a page, or of a part of one, in Permafrost (R190, R191, R243). -/
structure PageRead where
  /-- Ring of the descriptor that reads it; 64: a move. R190, R191; a read only. -/
  ring : Nat
  /-- Index of the descriptor. R191; a read only. -/
  index : Word
  /-- The tile whose pool it is for. R191; a read only. -/
  tile : Nat
  /-- Page. R191; a read only. -/
  page : Nat
  /-- Virtual address of its first byte. R191; a read only. -/
  va : Nat
  /-- RESULT of 0x32, once a line of it could not be read. R195, R243; a read only. -/
  bad : Option DWord
  deriving DecidableEq, Repr

/-- A key/value space: its record, and what the page agent keeps beside the owned region in memory (R178). -/
structure KvSpace where
  /-- GEOM; 0 empty. R175; reset 0. -/
  geom : Nat
  /-- TOK_LOG2. R175; reset 0. -/
  tokLog2 : Nat
  /-- FMT. R175; reset 0. -/
  fmt : Nat
  /-- DSEL. R175; reset 0. -/
  dsel : Nat
  /-- DROP. R175; reset 0. -/
  drop : Nat
  /-- OWN_VA. R175; reset 0. -/
  ownVa : Nat
  /-- OWN_SIZE. R175; reset 0. -/
  ownSize : Nat
  /-- PAGES_MAX. R175; reset 0. -/
  pagesMax : Nat
  /-- SEQ_MAX. R175; reset 0. -/
  seqMax : Nat
  /-- The stack, MRDIMM and Permafrost regions. R175, R189; reset: none. -/
  tiers : List KvTier
  /-- First entry of the list of free page entries. R182; reset 0. -/
  pageHead : Nat
  /-- Last entry of the list of free page entries. R182; reset 0. -/
  pageTail : Nat
  /-- Read-epochs held: ring, index, epoch. R198; reset: none. -/
  readers : List (Nat × Word × Nat)
  /-- Moves in progress. R190; reset: none. -/
  moves : List KvMove
  /-- Recomputes in progress. R194; reset: none. -/
  recomps : List KvRecomp
  /-- Reads of pages in Permafrost that were sent and not taken yet. R190, R191; reset: none. -/
  reads : List PageRead
  /-- Pages that the descriptor which allocated last has named: no victims of its allocation. R188, R191; reset: none. -/
  keep : List Nat
  deriving DecidableEq, Repr

def KvSpace.reset : KvSpace :=
  { geom := 0, tokLog2 := 0, fmt := 0, dsel := 0, drop := 0, ownVa := 0, ownSize := 0, pagesMax := 0,
    seqMax := 0, tiers := [], pageHead := 0, pageTail := 0, readers := [], moves := [], recomps := [], reads := [], keep := [] }

/-! ### Fronts (13_fronts_sync.md) -/

/-- A participant of a front. -/
structure Participant where
  /-- REMOTE. R344; a set entry only. -/
  remote : Bool
  /-- RING. R344; a set entry only. -/
  ring : Nat
  /-- EPID. R344; a set entry only. -/
  epid : Nat
  /-- CHILD_FRONT. R344; a set entry only. -/
  child : Nat
  deriving DecidableEq, Repr

/-- A front or tally entry of a tile. -/
structure FrontEntry where
  /-- VALID. R344; reset 0. -/
  valid : Bool
  /-- MODE: 1 tally. R344; reset 0. -/
  mode : Bool
  /-- The context that owns the entry. R341, R391; reset 0. -/
  owner : Nat
  /-- DEF_POLICY. R344; reset 0. -/
  defPolicy : Nat
  /-- KEY. R344; reset 0. -/
  key : Nat
  /-- DEF_DOLD. R344; reset 0. -/
  defDold : Nat
  /-- DEF_SPIN. R344; reset 0. -/
  defSpin : Nat
  /-- PARENT_EN. R344; reset 0. -/
  parentEn : Bool
  /-- PARENT_EPID. R344; reset 0. -/
  parentEpid : Nat
  /-- PARENT_FRONT. R344; reset 0. -/
  parentFront : Word
  /-- The participants by number. R344; reset: none. -/
  parts : List Participant
  /-- T. R357; reset 0. -/
  tally : Word
  /-- What adds have brought to T since the entry was set, modulo 2^32 (R357: an alignment carries the adds after its arrival); reset 0. -/
  adds : Word
  /-- OLDEST. R346; reset 0. -/
  oldest : Nat
  /-- Participants that have arrived toward OLDEST. R346, R356; reset: none. -/
  arrOldest : List Nat
  /-- Participants that have arrived toward OLDEST + 1. R346, R356; reset: none. -/
  arrNext : List Nat
  /-- L and H gathered toward OLDEST. R346; reset: none. -/
  open0 : Option (Word × Word)
  /-- L and H gathered toward OLDEST + 1. R346; reset: none. -/
  open1 : Option (Word × Word)
  /-- AWAIT_PARENT. R347; reset 0. -/
  awaits : Bool
  /-- L_LAST. R347; reset 0. -/
  lLast : Word
  /-- H_LAST. R347; reset 0. -/
  hLast : Word
  /-- RELEASES. R347; reset 0. -/
  releases : Word
  /-- Generation toward which a participant's last arrival counted. R351; reset: none has arrived. -/
  lastGen : Tbl Nat
  /-- Low halves received whose high half has not come, by endpoint. R346, R349; reset: none. -/
  lows : Tbl Word
  deriving DecidableEq, Repr

def FrontEntry.reset : FrontEntry :=
  { valid := false, mode := false, owner := 0, defPolicy := 0, key := 0, defDold := 0, defSpin := 0,
    parentEn := false, parentEpid := 0, parentFront := 0, parts := [], tally := 0, adds := 0, oldest := 0,
    arrOldest := [], arrNext := [], open0 := none, open1 := none, awaits := false, lLast := 0, hLast := 0,
    releases := 0, lastGen := [], lows := [] }

/-- An arrival in the hold queue of a front unit (R350). -/
structure HeldArrival where
  /-- Entry. R350; a held arrival only. -/
  entry : Nat
  /-- Participant. R350; a held arrival only. -/
  part : Nat
  /-- L of the arrival. R350; a held arrival only. -/
  low : Word
  /-- H of the arrival. R350; a held arrival only. -/
  high : Word
  /-- The oldest open generation when it came. R350, R360; a held arrival only. -/
  gen : Nat
  /-- The identifier that it named. R350, R360; a held arrival only. -/
  ident : Word
  deriving DecidableEq, Repr

/-! ### Vexja (11_vexja_link.md) -/

/-- A packet: the four words of its header (R294) and its data flits. -/
structure Pkt where
  /-- Header words 0 to 3. R294; a packet in the module only. -/
  hdr : List DWord
  /-- Data flits, each up to 32 words. R294; a packet in the module only. -/
  data : List (List DWord)
  deriving DecidableEq, Repr

/-- A header or data flit that waits for, or has had, its slot (R288, R290). -/
structure TxFlit where
  /-- Virtual channel. R291; a queued flit only. -/
  vc : Nat
  /-- A header flit. R288; a queued flit only. -/
  head : Bool
  /-- Its words. R288; a queued flit only. -/
  words : List DWord
  /-- The descriptor that sends it: context, ring, index. R301; a queued flit only. -/
  owner : Option (Nat × Nat × Word)
  deriving DecidableEq, Repr

/-- A flit in the replay buffer (R290). -/
structure SentFlit where
  /-- LSEQ. R288; an unacknowledged flit only. -/
  lseq : Nat
  /-- The flit. R290; an unacknowledged flit only. -/
  flit : TxFlit
  /-- Resends. R290; an unacknowledged flit only. -/
  resends : Nat
  /-- It is to be sent again. R290; an unacknowledged flit only. -/
  again : Bool
  deriving DecidableEq, Repr

/-- A packet received whole. -/
structure RxPkt where
  /-- The packet. R291; a received packet only. -/
  pkt : Pkt
  /-- It was received before the port last started afresh. R491; a received packet only. -/
  old : Bool
  deriving DecidableEq, Repr

/-- A VC1 packet delivered or forwarded that has not committed (R298). -/
structure Uncommitted where
  /-- DSEQ. R298; an uncommitted packet only. -/
  dseq : Nat
  /-- It has been forwarded, or its NACK_RSP has been sent: it commits as soon as every earlier packet has. R298; an uncommitted packet
  only. -/
  ready : Bool
  /-- COMMIT_RSP is to be sent, to an endpoint for a transaction. R298, R301; an uncommitted packet only. -/
  rsp : Option (Nat × Nat)
  /-- It was received before the port last started afresh. R491; an uncommitted packet only. -/
  old : Bool
  deriving DecidableEq, Repr

/-- What a partner's training flit says (R286, R291, R491). -/
structure Exchange where
  /-- Initial credits of the channels. R291; between exchange and training only. -/
  credits : List Nat
  /-- RESUME. R491; between exchange and training only. -/
  resume : Bool
  deriving DecidableEq, Repr

/-- A Vexja port; number 15 stands for delivery inside the module (R302). -/
structure Port where
  /-- LNK_PORT_STAT.STATE. R309; reset 0. -/
  state : BitVec 3
  /-- LNK_PORT_STAT.LANES. R309; reset 0. -/
  lanes : BitVec 5
  /-- LNK_PORT_STAT.SPARE_HELD. R309; reset 0. -/
  spareHeld : Bool
  /-- LNK_PORT_STAT.VER. R309; reset 0. -/
  ver : BitVec 4
  /-- LNK_PORT_STAT.VIOL. R309; reset 0. -/
  viol : Bool
  /-- LNK_PORT_STAT.QUAR. R309; reset 0. -/
  quar : Bool
  /-- LNK_PORT_STAT.SWAP. R309; reset 0. -/
  swap : Bool
  /-- LNK_PORT_STAT.VIOL_CNT. R309; reset 0. -/
  violCnt : Half
  /-- LNK_PORT_STAT.RETRAIN_CNT. R309; reset 0. -/
  retrainCnt : BitVec 8
  /-- LNK_PORT_STAT.SWAP_CNT. R309; reset 0. -/
  swapCnt : BitVec 8
  /-- LNK_PORT_CTL.DISABLE. R309; reset 0. -/
  disable : Bool
  /-- LNK_TX_CFG.CRED_LIM0 to CRED_LIM3 as last written. R10, R309; reset 32, 160, 64, 256. -/
  credLim : List Nat
  /-- The limits in force: CRED_LIM, or the ceiling where CRED_LIM lies above it. R292; reset 32, 160, 64, 256. -/
  limits : List Nat
  /-- LNK_TX_CFG.CEIL_CONFLICT_CNT. R309; reset 0. -/
  ceilCnt : Half
  /-- LNK_PEER.EPID. R309; reset 0. -/
  peerEpid : BitVec 14
  /-- LNK_PEER.PORT. R309; reset 0. -/
  peerPort : BitVec 4
  /-- LNK_PEER.SLOW. R309; reset 0. -/
  peerSlow : Bool
  /-- LNK_PEER.HB_COUNT. R309; reset 0. -/
  hbCount : Half
  /-- LNK_PEER_EXPECT.EPID. R309; reset 0. -/
  expectEpid : BitVec 14
  /-- LNK_PEER_EXPECT.EN. R309; reset 0. -/
  expectEn : Bool
  /-- Training phase 1 to 4; 0 when the port does not train. R286; reset 0. -/
  phase : Nat
  /-- Everything that RESUME vouches for is held from before the training. R491; reset 0. -/
  resume : Bool
  /-- The partner's exchange of this training. R286; reset: none. -/
  exch : Option Exchange
  /-- The port stays down for want of a common version. R287; reset 0. -/
  verRefused : Bool
  /-- CLK_LNK times of its retrains. R286; reset: none. -/
  retrains : List Nat
  /-- CLK_LNK times of its counting violations. R307; reset: none. -/
  violTimes : List Nat
  /-- Consecutive frames with an uncorrectable codeword. R286; reset 0. -/
  badFrames : Nat
  /-- Next LSEQ to send. R288; reset 0. -/
  txLseq : Nat
  /-- LSEQ expected. R290; reset 0. -/
  rxLseq : Nat
  /-- A NAK is outstanding. R290; reset 0. -/
  nakOut : Bool
  /-- A NAK is to be sent. R290; reset 0. -/
  nakPend : Bool
  /-- The replay buffer, oldest first. R290; reset: empty. -/
  sent : List SentFlit
  /-- Acknowledged flits of a packet whose last flit is not acknowledged yet, by channel. R290, R331; reset: none. -/
  acked : Tbl (List TxFlit)
  /-- Credits held, by channel. R291, R292; reset 0. -/
  credits : List Nat
  /-- Flits in the receive buffers, by channel. R291; reset 0. -/
  rxHeld : List Nat
  /-- Credits to be returned, by channel. R291; reset 0. -/
  ret : List Nat
  /-- Next DSEQ. R298; reset 0. -/
  txDseq : Nat
  /-- The data-commit counter. R298; reset 0xFFFFFF. -/
  counter : Nat
  /-- Packets in assembly, by channel: header and data flits so far. R294; reset: none. -/
  partial_ : Tbl (List (List DWord))
  /-- Channels whose packet in progress is being dropped. R306; reset: none. -/
  dropping : List Nat
  /-- Packets received whole, by channel, oldest first. R291; reset: none. -/
  rxQ : Tbl (List RxPkt)
  /-- VC1 packets that have not committed, oldest first. R298; reset: none. -/
  uncommitted : List Uncommitted
  /-- Signals held, oldest first. R298; reset: none. -/
  heldSig : List RxPkt
  /-- Flits queued for transmission, by channel, oldest first. R293; reset: none. -/
  egress : Tbl (List TxFlit)
  /-- The channel of VC1 and VC3 that was served last. R293; reset 0. -/
  lastRr : Nat
  /-- Link flits to be sent, oldest first. R289; reset: none. -/
  links : List (List DWord)
  /-- Link flits received, oldest first. R289; reset: none. -/
  rxLinks : List (List DWord)
  /-- Heartbeats sent. R304; reset 0. -/
  hbSent : Half
  /-- The port's cable as Bluone last found it. R478; reset: none. -/
  cable : Cable
  /-- The starting equaliser values that Bluone has set. R478; reset 0 (DESIGN CHOICE, log 93). -/
  startEq : DWord
  /-- The port's log, 64 entries. R308; reset: empty. -/
  log : EvLog
  deriving DecidableEq, Repr

def Port.reset : Port :=
  { state := 0, lanes := 0, spareHeld := false, ver := 0, viol := false, quar := false, swap := false,
    violCnt := 0, retrainCnt := 0, swapCnt := 0, disable := false, credLim := [32, 160, 64, 256],
    limits := [32, 160, 64, 256], ceilCnt := 0, peerEpid := 0, peerPort := 0, peerSlow := false, hbCount := 0,
    expectEpid := 0, expectEn := false, phase := 0, resume := false, exch := none, verRefused := false,
    retrains := [], violTimes := [], badFrames := 0, txLseq := 0, rxLseq := 0, nakOut := false,
    nakPend := false, sent := [], acked := [], credits := [0, 0, 0, 0], rxHeld := [0, 0, 0, 0],
    ret := [0, 0, 0, 0], txDseq := 0, counter := 0xFFFFFF, partial_ := [], dropping := [], rxQ := [],
    uncommitted := [], heldSig := [], egress := [], lastRr := 0, links := [], rxLinks := [], hbSent := 0,
    cable := .none, startEq := 0, log := EvLog.reset }

/-- The reduction store of an I/O die. -/
structure RedStore where
  /-- Packets held: port and packet, oldest first. R322; reset: none. -/
  held : List (Nat × Pkt)
  /-- LNK_RED_STAT.SPILL. R339; reset 0. -/
  spill : Bool
  /-- LNK_RED_STAT.DROP. R339; reset 0. -/
  drop : Bool
  /-- LNK_RED_STAT.SPILL_CNT. R339; reset 0. -/
  spillCnt : Half
  /-- LNK_RED_STAT.EARLY_DROP_CNT. R339; reset 0. -/
  earlyCnt : Half
  /-- LNK_RED_STAT.LATE_DROP_CNT. R339; reset 0. -/
  lateCnt : Half
  deriving DecidableEq, Repr

def RedStore.reset : RedStore :=
  { held := [], spill := false, drop := false, spillCnt := 0, earlyCnt := 0, lateCnt := 0 }

/-- The links of the module. -/
structure Links where
  /-- LNK_CFG.EPID. R309; reset 0. -/
  epid : BitVec 14
  /-- LNK_CFG.HOP_MAX. R309; reset 15. -/
  hopMax : BitVec 4
  /-- LNK_CFG.Q_THRESH. R309; reset 32. -/
  qThresh : BitVec 8
  /-- LNK_CFG.ROUTE_REFUSED_CNT. R309; reset 0. -/
  refusedCnt : Half
  /-- LNK_ROUTE_IDX. R295, R471; reset 0. -/
  routeIdx : BitVec 14
  /-- The routing table by EPID. R295; reset 0 (DESIGN CHOICE, log 2). -/
  routes : Tbl Half
  /-- EPIDs whose routing entry is uncorrectable, until Bluone rewrites it. R296, R460; reset: none. -/
  badRoutes : List Nat
  /-- SLOW, the module's throttle flag. R305, R407; reset 0. -/
  slow : Bool
  /-- TXID of the next transfer. R294; reset 0. -/
  txid : Nat
  /-- TXIDs of the signals that have left the module, for the report of a NACK_RSP. R303, R348; reset: none. -/
  sigs : List Nat
  /-- LNK_RED_CFG.SPILL_GIB. R339; reset 0. -/
  spillGib : BitVec 8
  /-- The reduction stores of IO0 and IO1. R322; reset as their own fields. -/
  stores : Tbl RedStore
  /-- Ports 0 to 11, and 15 for delivery inside the module. R283; reset as their own fields. -/
  ports : Tbl Port
  deriving DecidableEq, Repr

def Links.reset : Links :=
  { epid := 0, hopMax := 15, qThresh := 32, refusedCnt := 0, routeIdx := 0, routes := [], badRoutes := [], slow := false,
    txid := 0, sigs := [], spillGib := 0, stores := [], ports := [] }

/-- An export window of a context. -/
structure ExportWin where
  /-- VA. R299, R300; reset 0. -/
  va : Nat
  /-- BYTES, 0 empty. R299, R300; reset 0. -/
  bytes : Nat
  /-- WRITE. R299; reset 0. -/
  write : Bool
  /-- XKEY. R299; reset 0. -/
  key : Word
  deriving DecidableEq, Repr

def ExportWin.reset : ExportWin :=
  { va := 0, bytes := 0, write := false, key := 0 }

/-! ### Collectives (12_collectives_jetstream.md) -/

/-- A partial of a node for a segment that this module has, whole or in part (R320). -/
structure RedPart where
  /-- Segment. R320; a partial in the store only. -/
  seg : Nat
  /-- Level of the node whose partial it is. R319; a partial in the store only. -/
  level : Nat
  /-- Number of the node at its level. R318; a partial in the store only. -/
  idx : Nat
  /-- Blocks in the segment, ascending, with their 64 elements. R319; a partial in the store only. -/
  blocks : List (Nat × List Word)
  /-- LEAVES of its trailer. R319; a partial in the store only. -/
  leaves : Nat
  /-- Its trailer has arrived. R320; a partial in the store only. -/
  whole : Bool
  /-- I/O die whose store holds it. R322; a partial in the store only. -/
  die : Nat
  deriving DecidableEq, Repr

/-- A node that this module evaluates for a segment (R318, R325). -/
structure RedNode where
  /-- Segment. R318; a running step only. -/
  seg : Nat
  /-- Level. R318; a running step only. -/
  level : Nat
  /-- Number at its level. R318; a running step only. -/
  idx : Nat
  /-- Extensions granted. R325; a running step only. -/
  ext : Nat
  /-- It has been evaluated. R321; a running step only. -/
  done : Bool
  /-- Children that were missing at its close, by number at their level. R326; a running step only. -/
  missing : List Nat
  deriving DecidableEq, Repr

/-- A segment of the owner's shard (R327). -/
structure RedSeg where
  /-- Segment. R317; a running step only. -/
  seg : Nat
  /-- The root has been written. R327; a running step only. -/
  written : Bool
  /-- LEAVES of the root. R327; a running step only. -/
  leaves : Nat
  /-- LEAVES of the folded trailers. R327; a running step only. -/
  folded : Nat
  /-- Ranks of the children that were missing at this module's nodes. R326; a running step only. -/
  missing : List Nat
  /-- Nodes whose partials lacked ranks. R328; a running step only. -/
  short : List (Nat × Nat)
  /-- Ranks folded. R327; a running step only. -/
  foldedRanks : List Nat
  /-- Late packets that came before the root was written, oldest first. R327; a running step only. -/
  late : List Pkt
  /-- The duties of the root have been abandoned: the segment is never written. R328; a running step only. -/
  gone : Bool
  deriving DecidableEq, Repr

/-- A resolved partial that waits for the partials of its node for earlier segments (R320). -/
structure RedOut where
  /-- Segment. R320; a running step only. -/
  seg : Nat
  /-- Level of the node. R318; a running step only. -/
  level : Nat
  /-- Number at its level. R318; a running step only. -/
  idx : Nat
  /-- Blocks present, by number in the segment. R320; a running step only. -/
  blocks : List (Nat × List Word)
  /-- LEAVES. R319; a running step only. -/
  leaves : Nat
  deriving DecidableEq, Repr

/-- A step in progress (R324). -/
structure RedRun where
  /-- Ring of the descriptor. R324; a running step only. -/
  ring : Nat
  /-- Index of the descriptor. R324; a running step only. -/
  index : Word
  /-- STEP. R324; a running step only. -/
  step : Word
  /-- POLICY, FOLD taken as DROP where STRICT_SUM says so. R323, R326; a running step only. -/
  policy : Nat
  /-- SLOW_EXT. R323; a running step only. -/
  slowExt : Nat
  /-- REPORT_VA. R323; a running step only. -/
  reportVa : Nat
  /-- Partials in the store. R322; a running step only. -/
  parts : List RedPart
  /-- Nodes that this module evaluates. R318; a running step only. -/
  nodes : List RedNode
  /-- The segments of its own shard. R317; a running step only. -/
  segs : List RedSeg
  /-- Nodes whose window has opened, by segment, level and number, first opened first. R325; a running step only. -/
  opened : List (Nat × Nat × Nat)
  /-- Resolved partials that wait for those of earlier segments, by rising segment. R320; a running step only. -/
  outs : List RedOut
  /-- A window has stayed open for DOLD. R328; a running step only. -/
  dold : Bool
  /-- RESULT of 0x60, once a partial found no active route. R328; a running step only. -/
  lost : Option DWord
  /-- The status that comes first: 0x31, 0x20 or 0x21, with its RESULT. R328; a running step only. -/
  bad : Option (BitVec 8 × DWord)
  /-- Blocks of G written from at least one contribution. R328; a running step only. -/
  blocks : List (Nat × Nat)
  /-- NUMFLAGS. R328; a running step only. -/
  flags : BitVec 8
  /-- FOLD_LIMIT has expired. R327; a running step only. -/
  foldOver : Bool
  deriving DecidableEq, Repr

/-- A reduction slot of a context. -/
structure RedSlot where
  /-- VALID. R316; reset 0. -/
  valid : Bool
  /-- RANK. R316; reset 0. -/
  rank : Nat
  /-- RANKS. R316; reset 0. -/
  ranks : Nat
  /-- SEG_LOG2. R316; reset 0. -/
  segLog2 : Nat
  /-- K. R316; reset 0. -/
  k : Nat
  /-- G_FMT. R316; reset 0. -/
  gFmt : Nat
  /-- NSEG. R316; reset 0. -/
  nseg : Nat
  /-- RANK_VA. R316; reset 0. -/
  rankVa : Nat
  /-- G_VA. R316; reset 0. -/
  gVa : Nat
  /-- EXPECT. R316, R324; reset 0. -/
  expect : Word
  /-- The rank table as the last step read it: EPID in [13:0], context in [25:16]. R316; reset: none. -/
  table : List Nat
  /-- The policies of completed steps, latest first. R324; reset: none. -/
  history : List (Word × Nat)
  /-- The last SLOW flags received, by rank, latest first. R325; reset: none. -/
  slow : List (Nat × Bool)
  /-- The step in progress. R324; reset: none. -/
  run : Option RedRun
  deriving DecidableEq, Repr

def RedSlot.reset : RedSlot :=
  { valid := false, rank := 0, ranks := 0, segLog2 := 0, k := 0, gFmt := 0, nseg := 0, rankVa := 0, gVa := 0,
    expect := 0, table := [], history := [], slow := [], run := none }

/-- A pass in progress (R335). -/
structure JetRun where
  /-- Ring of the descriptor. R335; a running pass only. -/
  ring : Nat
  /-- Index of the descriptor. R335; a running pass only. -/
  index : Word
  /-- ROUND. R334; a running pass only. -/
  round : Word
  /-- SEND_EN, with its chunks not yet sent. R335; a running pass only. -/
  send : Bool
  /-- RECV_EN, with its receive not whole. R335; a running pass only. -/
  recv : Bool
  /-- The guest pages stand in the map. R335; false until the first packet has come. -/
  placed : Bool
  /-- Page entries and frames taken while more are awaited. R188, R335; a running pass only. -/
  taken : List (Nat × Nat)
  /-- Chunks received. R335; a running pass only. -/
  got : List Nat
  deriving DecidableEq, Repr

/-- A Jetstream ring slot of a context. -/
structure JetSlot where
  /-- VALID. R332; reset 0. -/
  valid : Bool
  /-- NEXT_EPID. R332; reset 0. -/
  nextEpid : Nat
  /-- NEXT_CTX. R332; reset 0. -/
  nextCtx : Nat
  /-- PREV_EPID. R332; reset 0. -/
  prevEpid : Nat
  /-- EXPECT. R332, R335; reset 0. -/
  expect : Word
  /-- The pass in progress. R335; reset: none. -/
  run : Option JetRun
  deriving DecidableEq, Repr

def JetSlot.reset : JetSlot :=
  { valid := false, nextEpid := 0, nextCtx := 0, prevEpid := 0, expect := 0, run := none }

/-! ### Permafrost (09_permafrost_tier.md) -/

/-- Rotation of a logical region, and its user writes since the last evaluation. -/
structure PmtRegion where
  /-- START. R245; reset 0. -/
  start : Nat
  /-- GAP. R245; reset 262,144. -/
  gap : Nat
  /-- COUNT. R245; reset 0. -/
  count : Nat
  /-- User writes since the last swap evaluation. R246; reset 0. -/
  writes : Nat
  deriving DecidableEq, Repr

def PmtRegion.reset : PmtRegion :=
  { start := 0, gap := 262144, count := 0, writes := 0 }

/-- A read or a write of a user line that its device has not answered (R239). -/
structure PmtReq where
  /-- The model's own number of the request. R239; an outstanding request only. -/
  id : Nat
  /-- WR; else RD. R238; an outstanding request only. -/
  write : Bool
  /-- TAG once it has been sent. R237, R239; an outstanding request only. -/
  tag : Option Nat
  /-- User line of the device. R235; an outstanding request only. -/
  line : Nat
  /-- Attempts of the read that have failed. R243; an outstanding request only. -/
  tries : Nat
  /-- Reissues for want of a response. R240; an outstanding request only. -/
  reissues : Nat
  /-- Who asks: context, ring, index. R243, R256; an outstanding request only. -/
  ctx : Nat
  /-- Ring of the descriptor, 64 for the module itself. R243; an outstanding request only. -/
  ring : Nat
  /-- Index of the descriptor. R243; an outstanding request only. -/
  index : Word
  /-- A write's contents before it: what the line may hold should it be lost. R255; an outstanding write only. -/
  old : List Byte
  /-- The read that a part-line write waits for. R244; an outstanding write only. -/
  after_ : Option Nat
  /-- Where it was sent: the slot's device line and the line that stands for it. R245, R250; a request that has been sent only. -/
  sentTo : Option (Nat × Nat)
  /-- The CAUSE of the unreadable contents that a write replaces. R243; an outstanding write only. -/
  wasBad : Option Nat
  /-- A later write of the line is durable. R255; an outstanding write only. -/
  outdone : Bool
  /-- A failed read ends no descriptor: R195 recomputes its page. R243; an outstanding read only. -/
  keep : Bool
  deriving DecidableEq, Repr

/-- A downstream packet that the module keeps for replay (R239). -/
structure PmtSent where
  /-- SEQ. R237; a packet in the replay buffer only. -/
  seq : Nat
  /-- CODE. R238; a packet in the replay buffer only. -/
  code : Nat
  /-- TAG, LINE and VSHIFT, or register and value. R237; a packet in the replay buffer only. -/
  args : List Nat
  /-- The 288 B payload of a WR. R237, R242; a packet in the replay buffer only. -/
  payload : List Byte
  /-- Resends. R239; a packet in the replay buffer only. -/
  resends : Nat
  deriving DecidableEq, Repr

/-- A Permafrost device. What the medium keeps without power is marked so: it outlives a reset (R245, R250, R251, R257). -/
structure PmtDev where
  /-- PMT_DEV_STAT.STATE. R258; reset 0. -/
  state : BitVec 3
  /-- PMT_DEV_STAT.UNCORR. R258; reset 0. -/
  uncorr : Bool
  /-- PMT_DEV_STAT.PROTO. R258; reset 0. -/
  proto : Bool
  /-- PMT_DEV_STAT.THERM. R258; reset 0. -/
  therm : Bool
  /-- PMT_DEV_STAT.TEMP. R258; reset 0. -/
  temp : BitVec 8
  /-- PMT_DEV_STAT.UNCORR_CNT. R258; reset 0. -/
  uncorrCnt : Half
  /-- PMT_DEV_STAT.PROTO_CNT. R258; reset 0. -/
  protoCnt : Half
  /-- PMT_DEV_STAT.THERM_CNT. R258; reset 0. -/
  thermCnt : BitVec 8
  /-- PMT_DEV_STAT.RETRAIN_CNT. R258; reset 0. -/
  retrainCnt : BitVec 8
  /-- PMT_DEV_CNT.CORR_CNT. R258; reset 0. -/
  corrCnt : Word
  /-- PMT_DEV_CNT.RETRY_CNT. R258; reset 0. -/
  retryCnt : Half
  /-- PMT_DEV_CNT.GROWN_CNT. R258; reset 0. -/
  grownCnt : Half
  /-- The region map: physical region of a logical region, the same number where none is listed; on the medium. R245; reset: none. -/
  map : Tbl Nat
  /-- Rotation of the logical regions; on the medium. R245; reset as its own fields. -/
  regions : Tbl PmtRegion
  /-- Line writes that each physical region has taken; on the medium. R251; reset 0. -/
  wear : Tbl Nat
  /-- The remap table: spare line of a spared slot, by the slot's device line; on the medium. R245, R250; reset: none. -/
  remap : Tbl Nat
  /-- Spare lines taken; on the medium. R250; reset 0. -/
  spares : Nat
  /-- Wear-reserve regions taken; on the medium. R251; reset 0. -/
  reserves : Nat
  /-- A region had to retire, or a line to be spared, with none left; on the medium. R252; reset 0. -/
  exhausted : Bool
  /-- Regions retired; on the medium. R251; reset: none. -/
  retired : List Nat
  /-- Lines whose stored contents cannot be read, with the CAUSE; on the medium. R243, R244; reset: none. -/
  bad : Tbl Nat
  /-- User lines written since format: ERASED of every other line is 1; on the medium. R242; reset: none. -/
  written : List Nat
  /-- Above 85 °C. R252; reset 0. -/
  hot : Bool
  /-- At 95 °C. R252; reset 0. -/
  veryHot : Bool
  /-- PMT_LIFE.THROTTLE: the level applied. R252; reset 0. -/
  level : Nat
  /-- Line writes since the last swap evaluation. R246; reset 0. -/
  taken : Nat
  /-- The swap in progress: logical regions H and the one held in C; on the medium. R246, R257; reset: none. -/
  swap : Option (Nat × Nat)
  /-- The copy pointer of the swap: slots below it are copied; on the medium. R246; reset 0. -/
  swapPtr : Nat
  /-- A Dew pass runs. R248; reset 0. -/
  dew : Bool
  /-- Next device line of the pass. R248; reset 0. -/
  dewNext : Nat
  /-- Highest temperature since the pass began, °C. R248; reset 0. -/
  dewHot : Nat
  /-- Lines that needed a retry on the previous pass. R250; reset: none. -/
  retryLast : List Nat
  /-- Lines that needed a retry on this pass. R250; reset: none. -/
  retryNow : List Nat
  /-- Lines queued for a Dew rewrite. R243; reset: none. -/
  rewriteQ : List Nat
  /-- An urgent pass runs. R249; reset 0. -/
  urgent : Bool
  /-- Hold-up is complete: the device refuses writes until reset. R257; reset 0. -/
  heldUp : Bool
  /-- Mode register 0x00, ID. R238; reset 0 (DESIGN CHOICE, log 2). -/
  id : BitVec 24
  /-- Mode register 0x02, FACTORY_MAP. R238; reset 0 (DESIGN CHOICE, log 2). -/
  factoryMap : BitVec 24
  /-- Mode register 0x10, RDONLY bit 0, as the device has shown it. R238; reset 0. -/
  rdonly : Bool
  /-- PMT_RST_N. R236; reset low (0). -/
  rstN : Bool
  /-- PMT_ALERT_N: low while an EVT waits or hold-up is complete. R236; reset high (1). -/
  alertN : Bool
  /-- Identified over PMT_SCL and PMT_SDA. R236; reset 0. -/
  identified : Bool
  /-- SEQ of the next packet sent. R237; reset 0 (DESIGN CHOICE, log 2). -/
  txSeq : Nat
  /-- Last SEQ received in order with a good CRC. R237, R239; reset 0xFFF (DESIGN CHOICE, log 2). -/
  rxSeq : Nat
  /-- A NAK has been sent for the gap. R239; reset 0. -/
  nakOut : Bool
  /-- The last 64 packets sent that are not acknowledged. R239; reset: none. -/
  sent : List PmtSent
  /-- Requests that wait for a tag or for their response, oldest first. R239; reset: none. -/
  reqs : List PmtReq
  /-- CLK_PMT times of its violations. R240; reset: none. -/
  violTimes : List Nat
  /-- CLK_PMT times of its retrains. R239; reset: none. -/
  retrains : List Nat
  /-- The device's log, 32 entries. R259; reset: empty. -/
  log : EvLog
  deriving DecidableEq, Repr

def PmtDev.reset : PmtDev :=
  { state := 0, uncorr := false, proto := false, therm := false, temp := 0, uncorrCnt := 0, protoCnt := 0,
    thermCnt := 0, retrainCnt := 0, corrCnt := 0, retryCnt := 0, grownCnt := 0, map := [], regions := [],
    wear := [], remap := [], spares := 0, reserves := 0, exhausted := false, retired := [], bad := [],
    written := [], hot := false, veryHot := false, level := 0, taken := 0, swap := none, swapPtr := 0,
    dew := false, dewNext := 0, dewHot := 0, retryLast := [], retryNow := [], rewriteQ := [], urgent := false,
    heldUp := false, id := 0, factoryMap := 0, rdonly := false, rstN := false, alertN := true,
    identified := false, txSeq := 0, rxSeq := 0xFFF, nakOut := false, sent := [], reqs := [], violTimes := [],
    retrains := [], log := EvLog.reset }

/-- PMT_WL_CFG and PMT_DEW_CFG of an I/O die. -/
structure PmtDie where
  /-- PMT_WL_CFG.PSI. R258; reset 16. -/
  psi : BitVec 6
  /-- PMT_WL_CFG.SWAP_DELTA. R258; reset 64. -/
  swapDelta : Half
  /-- PMT_WL_CFG.WR_CAP. R258; reset 0. -/
  wrCap : Half
  /-- PMT_WL_CFG.CAP_CONFLICT_CNT. R258; reset 0. -/
  capCnt : Half
  /-- PMT_DEW_CFG.DEW_BITS. R258; reset 6. -/
  dewBits : BitVec 8
  /-- PMT_DEW_CFG.DEW_MARGIN. R258; reset 24. -/
  dewMargin : BitVec 8
  /-- PMT_DEW_CFG.CANARY_LIMIT. R258; reset 16. -/
  canary : BitVec 8
  /-- PMT_DEW_CFG.PASS_CNT. R258; reset 0. -/
  passCnt : Half
  /-- Dew rewrites; PMT_DEW_CFG.REWRITE_CNT counts them in units of 1,024. R258; reset 0. -/
  rewrites : Nat
  deriving DecidableEq, Repr

def PmtDie.reset : PmtDie :=
  { psi := 16, swapDelta := 64, wrCap := 0, capCnt := 0, dewBits := 6, dewMargin := 24, canary := 16,
    passCnt := 0, rewrites := 0 }

/-- The Permafrost tier. -/
structure Pmt where
  /-- PMT_TIER.FORMATTED: the format record is valid; on the medium. R258, R234; reset 0 (DESIGN CHOICE, log 3). -/
  formatted : Bool
  /-- PMT_TIER.ILV: the layout of the format record; on the medium. R258, R234; reset 0 (DESIGN CHOICE, log 3). -/
  ilv : Bool
  /-- PMT_TIER.IN_SERVICE. R258; reset 0. -/
  inService : Bool
  /-- PMT_PFAIL_N is asserted: no further WR is sent. R257; reset 0. -/
  pfail : Bool
  /-- The model's own number of the next request. R239; reset 0. -/
  nextReq : Nat
  /-- Devices M0 to M7. R233; reset as their own fields. -/
  devs : Tbl PmtDev
  /-- The configuration registers of IO0 and IO1. R258; reset as their own fields. -/
  dies : Tbl PmtDie
  deriving DecidableEq, Repr

def Pmt.reset : Pmt :=
  { formatted := false, ilv := false, inService := false, pfail := false, nextReq := 0, devs := [], dies := [] }

/-! ### Power (15_power_thermal.md) -/

/-- A Forecast (R402, R403). -/
structure Forecast where
  /-- The model's own number of the Forecast. R403; a Forecast only. -/
  id : Nat
  /-- TILE_MASK. R402; a Forecast only. -/
  mask : Nat
  /-- KIND: 0 compute, 1 memory, 2 link, 3 quiet. R402; a Forecast only. -/
  kind : Nat
  /-- LEVEL, per cent. R402; a Forecast only. -/
  level : Nat
  /-- LEAD, µs. R402; a Forecast only. -/
  lead : Nat
  /-- DURATION, µs. R402; a Forecast only. -/
  duration : Nat
  /-- It has taken effect. R403; false at issue. -/
  acts : Bool
  /-- It was a miss. R403; false at issue. -/
  missed : Bool
  deriving DecidableEq, Repr

/-- Power control of a tile. -/
structure PwrTile where
  /-- Stretch level that the grant asks for. R399, R398; reset 0. -/
  cap : Nat
  /-- Stretch level that the thermal loop asks for. R409; reset 0. -/
  therm : Nat
  /-- Stretch level that the slew limit asks for. R400; reset 0. -/
  slew : Nat
  /-- PWR_TILE_STAT.GUST_LVL. R405, R414; reset 0. -/
  gust : BitVec 3
  /-- PWR_TILE_STAT.TJ_MAX. R408, R414; reset 0. -/
  tj : BitVec 8
  /-- Tile power over the last interval, mW; PWR_TILE_STAT.P_W shows it in W. R414; reset 0. -/
  power : Nat
  /-- Current grant, mW; PWR_TILE_STAT.GRANT_W shows it in W. R396, R414; reset 0. -/
  grant : Nat
  /-- Grant of the next interval, mW. R396; reset 0. -/
  next : Nat
  /-- Sum of the tile's power samples in the interval, mW. R394; reset 0. -/
  sum : Nat
  /-- PWR_TILE_STAT.THROTTLE_CNT. R407, R414; reset 0. -/
  throttleCnt : Half
  /-- The tile is throttled. R407; reset 0. -/
  throttled : Bool
  /-- Consecutive intervals at whose end it was throttled. R407; reset 0. -/
  hotRun : Nat
  /-- Consecutive intervals at whose end it was not throttled. R407; reset 0. -/
  coolRun : Nat
  /-- Samples at 3 °C or more below T_THROTTLE since the loop last lowered the level. R409; reset 0. -/
  coolCnt : Nat
  /-- Supply voltage of the cores, µV. R398; reset 750,000, that of 1.40 GHz. -/
  volt : Nat
  /-- What the tile's power has still to fall, mW: its filler tapers. R400, R401; reset 0. -/
  shed : Nat
  /-- The last Gust choice has released the clamp's stretch on this tile. R405; reset 0. -/
  clampFree : Bool
  deriving DecidableEq, Repr

def PwrTile.reset : PwrTile :=
  { cap := 0, therm := 0, slew := 0, gust := 0, tj := 0, power := 0, grant := 0, next := 0, sum := 0,
    throttleCnt := 0, throttled := false, hotRun := 0, coolRun := 0, coolCnt := 0, volt := 750000, shed := 0,
    clampFree := false }

/-- The input governor, and the power controllers of the tiles. -/
structure Power where
  /-- PWR_CFG.CAP_W. R414; reset DESIGN_W. -/
  capW : BitVec 13
  /-- PWR_CFG.CAP_WIN. R414; reset 10. -/
  capWin : BitVec 7
  /-- PWR_CFG.MODE. R414, R404; reset 0. -/
  mode : Bool
  /-- PWR_CFG.GUST_MAX. R414; reset 4. -/
  gustMax : BitVec 3
  /-- PWR_CFG.SLEW_LIM. R414; reset 20. -/
  slewLim : BitVec 5
  /-- PWR_CFG.T_THROTTLE. R414; reset 100. -/
  tThrottle : BitVec 7
  /-- PWR_CFG.DRIZZLE_EN. R414; reset 1. -/
  drizzleEn : Bool
  /-- PWR_CFG.DRIZZLE_HOLD. R414; reset 20. -/
  drizzleHold : BitVec 10
  /-- PWR_STAT.CLAMP. R414; reset 0. -/
  clamp : Bool
  /-- PWR_STAT.THERM. R414; reset 0. -/
  therm : Bool
  /-- PWR_STAT.CAP. R414; reset 0. -/
  cap : Bool
  /-- PWR_STAT.CONFLICT. R414; reset 0. -/
  conflict : Bool
  /-- PWR_STAT.LOW_IN. R414; reset 0. -/
  lowIn : Bool
  /-- PWR_STAT.HIGH_IN. R414; reset 0. -/
  highIn : Bool
  /-- PWR_STAT.FORECAST_MISS. R414; reset 0. -/
  miss : Bool
  /-- PWR_STAT.CLAMP_CNT. R414; reset 0. -/
  clampCnt : Half
  /-- PWR_STAT.THERM_CNT. R414; reset 0. -/
  thermCnt : Half
  /-- PWR_STAT.CONFLICT_CNT. R414; reset 0. -/
  conflictCnt : Half
  /-- PWR_EVCNT.CAP_CNT. R414; reset 0. -/
  capCnt : Half
  /-- PWR_EVCNT.LOW_IN_CNT. R414; reset 0. -/
  lowCnt : Half
  /-- PWR_EVCNT.HIGH_IN_CNT. R414; reset 0. -/
  highCnt : Half
  /-- PWR_EVCNT.MISS_CNT. R414; reset 0. -/
  missCnt : Half
  /-- PWR_IN.V_IN, mV. R414; reset 0. -/
  vIn : Half
  /-- PWR_IN.I_IN, 10 mA units. R414; reset 0. -/
  iIn : Half
  /-- PWR_IN.P_AVG, W. R414; reset 0. -/
  pAvg : BitVec 13
  /-- PWR_ENERGY, mJ. R414; reset 0. -/
  energy : DWord
  /-- PWR_UNATTR, mJ. R411, R414; reset 0. -/
  unattr : DWord
  /-- Input energy below one mJ, in mW × CLK_FAB cycles. R394; reset 0. -/
  rest : Nat
  /-- Samples in the interval. R394, R396; reset 0. -/
  samples : Nat
  /-- Sum of the interval's voltage samples, mV. R396; reset 0. -/
  vSum : Nat
  /-- Sum of the interval's input power samples, mW. R399; reset 0. -/
  pSum : Nat
  /-- Sum of the samples of the host die, the I/O dies, Bluone and conversion loss, mW. R396; reset 0. -/
  baseSum : Nat
  /-- Sum of the samples of the Vexja PHYs, mW. R396; reset 0. -/
  linkSum : Nat
  /-- Sum of the samples of the memories, mW. R396; reset 0. -/
  memSum : Nat
  /-- Mean input power of the last intervals, mW, latest first. R399; reset: none. -/
  history : List Nat
  /-- Stretch level of the clamp. R395; reset 0. -/
  clampLevel : Nat
  /-- The clamp's present interval has been counted. R412; reset 0. -/
  clampSeen : Bool
  /-- Where the input voltage stands: 1 low, 2 high, 0 elsewhere. R392; reset 0. -/
  region : Nat
  /-- Forecasts that have not expired, oldest first. R403; reset: none. -/
  forecasts : List Forecast
  /-- The model's own number of the next Forecast. R403; reset 0. -/
  nextForecast : Nat
  /-- Waits whose filler tapers or has tapered: context, ring, index. R401; reset: none. -/
  tapered : List (Nat × Nat × Word)
  /-- Control of tiles 0 to 11. R398; reset as their own fields. -/
  tiles : Tbl PwrTile
  /-- The power log, 32 entries. R415; reset: empty. -/
  log : EvLog
  deriving DecidableEq, Repr

def Power.reset : Power :=
  { capW := 3650, capWin := 10, mode := false, gustMax := 4, slewLim := 20, tThrottle := 100,
    drizzleEn := true, drizzleHold := 20, clamp := false, therm := false, cap := false, conflict := false,
    lowIn := false, highIn := false, miss := false, clampCnt := 0, thermCnt := 0, conflictCnt := 0,
    capCnt := 0, lowCnt := 0, highCnt := 0, missCnt := 0, vIn := 0, iIn := 0, pAvg := 0, energy := 0,
    unattr := 0, rest := 0, samples := 0, vSum := 0, pSum := 0, baseSum := 0, linkSum := 0, memSum := 0,
    history := [], clampLevel := 0, clampSeen := false, region := 0, forecasts := [], nextForecast := 0,
    tapered := [], tiles := [], log := EvLog.reset }
/-! ### Cores, seats and tiles (01_architecture.md, 04_matrix_array.md, 08_memory_tiers.md) -/

/-- What a core holds for one seat of a context; it moves with the seat (R369, R379). -/
structure Seat where
  /-- The 48 MiB scratchpad. R13, R201; reset 0 at first placement (R379). -/
  sp : Memory
  /-- Scratchpad words (8 B units) found uncorrectable. R451; reset: none. -/
  bad : List Nat
  /-- Stamp of the last counter-driven work tile, 0 for none: from then on the work area is unspecified. R203; reset 0. -/
  workStamp : Nat
  /-- The counter-driven work tile that the core runs for the seat: ring, index, work-tile number, bitmap node that it marks next.
  R149, R161, R163; reset: none. -/
  work : Option (Nat × Word × Nat × Nat)
  /-- Of a work tile of an ATTN, what its blocks so far have made. R171, R172; reset: none. -/
  attn : Option AttnRun
  /-- Where a pre-empted array stands: feed lines, and passes before that one that are still to be released. R114; reset: none. -/
  held : Option (Nat × Nat)
  /-- The PEs of the array by 128 times the row plus the column: what they hold between passes, and while the array stands at a checkpoint.
  R88, R90, R114; reset: all 0. -/
  pes : Tbl Pe
  /-- Chain-table slots whose records the core caches, at most eight, oldest first. R127; reset: none. -/
  chainCache : List Nat
  deriving DecidableEq, Repr

/-- A physical engine core. -/
structure Core where
  /-- COR_ARRAY_MAP.BYPASS_Q0 to Q3. R112; reset: from the redundancy map, 0 before step 4. -/
  bypass : List (BitVec 6)
  /-- COR_ARRAY_MAP.QUARTER_EN. R112; reset: from the redundancy map, 0 before step 4. -/
  quarterEn : BitVec 4
  /-- COR_ARRAY_MAP.FAULT_CNT. R112, R115; reset 0. -/
  faultCnt : Half
  /-- The core is held for a self-test. R454; reset 0. -/
  held : Bool
  /-- A fault met during the self-test. R461; reset 0. -/
  faultInTest : Bool
  deriving DecidableEq, Repr

def Core.reset : Core := ⟨[0, 0, 0, 0], 0, 0, false, false⟩

/-- A tile. -/
structure Tile where
  /-- TIL_CORE_MAP.ENABLED. R15; reset: from the redundancy map, 0 before step 4. -/
  enabled : BitVec 18
  /-- TIL_CORE_MAP.NARROWED. R15; reset: from the redundancy map, 0 before step 4. -/
  narrowed : BitVec 18
  /-- TIL_CORE_MAP.SPARE. R15; reset: from the redundancy map, 0 before step 4. -/
  spare : BitVec 18
  /-- The tile is fitted and in service (MOD_CAP.TILE). R464, R468; reset 0 until bring-up. -/
  inService : Bool
  /-- The 18 physical cores. R15; reset as their own fields. -/
  cores : Tbl Core
  /-- The tile pool by pool byte. R204; reset 0, frames are zeroed at allotment (R367). -/
  pool : Memory
  /-- Pool words (8 B units) found uncorrectable. R451; reset: none. -/
  poolBad : List Nat
  /-- SRAM rows that a spare row stands for, newest first: unit (0 to 17 a core's scratchpad, 31 the pool), bank or bank group, row, spare row.
  R455, R456; reset: none before step 4. -/
  rowSpares : List (Nat × Nat × Nat × Nat)
  /-- Descriptors that hold a slice of the managed area. R205; reset: none. -/
  slices : List (Nat × Nat × Word)
  /-- TIL_POOL_STAT.SLICE_WAIT_CNT. R205; reset 0. -/
  sliceWaitCnt : Half
  /-- TIL_POOL_STAT.SLICE_FULL. R205; reset 0. -/
  sliceFull : Bool
  /-- TIL_ERR_STAT.CE. R459; reset 0. -/
  ce : Bool
  /-- TIL_ERR_STAT.UE. R459; reset 0. -/
  ue : Bool
  /-- TIL_ERR_STAT.ARRAY. R459; reset 0. -/
  array : Bool
  /-- TIL_ERR_STAT.HELD. R459; reset 0. -/
  held : Bool
  /-- TIL_ERR_STAT.CE_CNT. R459; reset 0. -/
  ceCnt : BitVec 24
  /-- TIL_ERR_STAT.UE_CNT. R459; reset 0. -/
  ueCnt : Half
  /-- TIL_ERR_STAT.ARRAY_CNT. R459; reset 0. -/
  arrayCnt : BitVec 8
  /-- TIL_ERR_STAT.RETIRED_CNT. R459; reset 0. -/
  retiredCnt : BitVec 8
  /-- The 4,096 work counters. R149; reset: NEXT 0, LIMIT 0, STEP 1, empty redo list. -/
  counters : Tbl WorkCounter
  /-- Bitmap units held, of 64: context, ring, index, units. R160, R164; reset: none. -/
  bitmap : List (Nat × Nat × Word × Nat)
  /-- TIL_WC_STAT.DUP_CNT. R165; reset 0. -/
  dupCnt : Half
  /-- TIL_WC_STAT.REDO_CNT. R165; reset 0. -/
  redoCnt : Half
  /-- TIL_WC_STAT.BMAP_WAIT_CNT. R165; reset 0. -/
  bmapWaitCnt : Half
  /-- TIL_WC_STAT.BMAP_FULL. R165; reset 0. -/
  bmapFull : Bool
  /-- Front entries 0 to 511. R341; reset: empty. -/
  fronts : Tbl FrontEntry
  /-- The hold queue, oldest first, up to 64. R341, R350; reset: empty. -/
  holdQ : List HeldArrival
  /-- TIL_FRONT_STAT.VIOL. R359; reset 0. -/
  fViol : Bool
  /-- TIL_FRONT_STAT.HOLD_FULL. R359; reset 0. -/
  fHoldFull : Bool
  /-- TIL_FRONT_STAT.RDROP. R359; reset 0. -/
  fRdrop : Bool
  /-- TIL_FRONT_STAT.SLOT_WAIT. R359; reset 0. -/
  fSlotWait : Bool
  /-- TIL_FRONT_STAT.VIOL_CNT. R359; reset 0. -/
  fViolCnt : Half
  /-- TIL_FRONT_STAT.RDROP_CNT. R359; reset 0. -/
  fRdropCnt : Half
  /-- TIL_FRONT_STAT.HOLD_FULL_CNT. R359; reset 0. -/
  fHoldFullCnt : BitVec 8
  /-- TIL_FRONT_STAT.SLOT_WAIT_CNT. R359; reset 0. -/
  fSlotWaitCnt : BitVec 8
  /-- TIL_FRONT_STAT.DOLD_CNT. R359; reset 0. -/
  fDoldCnt : BitVec 8
  /-- The front log, 64 entries. R360; reset: empty. -/
  fLog : EvLog
  deriving DecidableEq, Repr

def Seat.reset : Seat :=
  { sp := [], bad := [], workStamp := 0, work := none, attn := none, held := none, pes := [], chainCache := [] }

def Tile.reset : Tile :=
  { enabled := 0, narrowed := 0, spare := 0, inService := false, cores := [], pool := [], poolBad := [], rowSpares := [],
    slices := [], sliceWaitCnt := 0, sliceFull := false, ce := false, ue := false, array := false,
    held := false, ceCnt := 0, ueCnt := 0, arrayCnt := 0, retiredCnt := 0, counters := [], bitmap := [],
    dupCnt := 0, redoCnt := 0, bmapWaitCnt := 0, bmapFull := false, fronts := [], holdQ := [], fViol := false,
    fHoldFull := false, fRdrop := false, fSlotWait := false, fViolCnt := 0, fRdropCnt := 0, fHoldFullCnt := 0,
    fSlotWaitCnt := 0, fDoldCnt := 0, fLog := EvLog.reset }


/-- A context. -/
structure Ctx where
  /-- Uncorrectable words of the context's state outside scratchpads, pools and memories. R451, R460; reset: none. -/
  badWords : List BadWord
  /-- HST_CTX_CFG. R59; reset as its own fields. -/
  cfg : CtxCfg
  /-- HST_CTX_STATE.STATE. R59; reset EMPTY. -/
  st : CtxState
  /-- HST_CTX_STATE.UPDATE. R59; reset 0. -/
  update : Bool
  /-- HST_CTX_STATE.FROZEN. R59; reset 0. -/
  frozen : Bool
  /-- HST_CTX_STATE.CYCLIC. R59; reset 0. -/
  cyclic : Bool
  /-- HST_CTX_STATE.CTRL_IGNORED. R59; reset 0. -/
  ctrlIgnored : Half
  /-- HST_CTX_KILL. R59; reset 0. -/
  kill : KillReg
  /-- HST_CTX_ADMITTED. R59; reset 0 (DESIGN CHOICE, log 2). -/
  admitted : DWord
  /-- HST_CTX_COMPLETED. R59; reset 0 (DESIGN CHOICE, log 2). -/
  completed : DWord
  /-- The context's rings 0 to 63. R30; reset as their own fields. -/
  rings : Tbl Ring
  /-- Admitted descriptors that have not completed, in admission order (HST_CTX_STATE.INFLIGHT counts them). R32, R33; reset: none. -/
  descs : List Desc
  /-- The ring that the dispatcher served last, by PRIORITY. R53; reset 0 (DESIGN CHOICE, log 2). -/
  lastServed : Tbl Nat
  /-- The FREEZE that waits (ring, index), and the phase changes of lower rings that were ready when it began to. R61; reset: none. -/
  freezing : Option (Nat × Word × List (Nat × Word))
  /-- Scheduling. R369 to R391; reset as its own fields. -/
  sched : CtxSched
  /-- Translation. R208 to R212; reset as its own fields. -/
  xl : CtxXlate
  /-- Activation pools 0 to 15. R222; reset: empty. -/
  actPools : Tbl ActPool
  /-- Seats by tile × 16 + seat. R369; reset: none has content. -/
  seats : Tbl Seat
  /-- Descriptors done whose records stay unwritten after a domain loss. R429; reset 0. -/
  silent : Bool
  /-- Shard groups 0 to 7. R263; reset: empty. -/
  groups : Tbl HailGroup
  /-- Ranges 0 to 63. R264; reset: empty. -/
  ranges : Tbl HailRange
  /-- Plan records 0 to 0xFFE, each 8 words; not listed: empty. R140; reset: empty. -/
  plans : Tbl (List DWord)
  /-- Bound slots 0 to 63: three dimensions. R144; reset 0. -/
  bounds : Tbl (Word × Word × Word)
  /-- Chain table, 64 slots of 16 words; not listed: empty. R127; reset: empty. -/
  chains : Tbl (List DWord)
  /-- CLOSE has come in DEAD: EMPTY follows once every record is written. R59; reset 0. -/
  closing : Bool
  /-- Key/value spaces 0 to 7. R175; reset: empty. -/
  spaces : Tbl KvSpace
  /-- Checkpoint regions 0 to 3: VA and bytes; not listed: empty. R256; reset: empty. -/
  ckpts : Tbl (Nat × Nat)
  /-- Export windows 0 to 15. R300; reset: empty. -/
  exports : Tbl ExportWin
  /-- Reduction slots 0 to 7. R316; reset: empty. -/
  redSlots : Tbl RedSlot
  /-- Jetstream ring slots 0 to 3. R332; reset: empty. -/
  jetSlots : Tbl JetSlot
  deriving DecidableEq, Repr

def Ctx.reset : Ctx :=
  { badWords := [], cfg := CtxCfg.reset, st := .empty, update := false, frozen := false, cyclic := false, ctrlIgnored := 0,
    kill := KillReg.reset, admitted := 0, completed := 0, rings := [], descs := [], lastServed := [], freezing := none,
    sched := CtxSched.reset, xl := CtxXlate.reset, actPools := [], seats := [], silent := false, groups := [],
    ranges := [], plans := [], bounds := [], chains := [], closing := false, spaces := [], ckpts := [],
    exports := [], redSlots := [], jetSlots := [] }


/-- Why a step stops with a fault. No command of this block stops so: every event the spec gives a block
is a next state (a violation is counted and logged, a failing descriptor completes with its status). -/
inductive Fault where
  /-- Raised by no command. Safe: the machine stops where the hardware would go on. -/
  | unreachable
  deriving DecidableEq, Repr

/-- Why a command has no meaning. -/
inductive Refusal where
  /-- Raised by an arm of Dispatch.lean that has no meaning yet. Safe: the model stops where the hardware goes on. -/
  | notModelled (mnemonic : String)
  deriving DecidableEq, Repr

/-- The module. -/
structure State where
  /-- Commands that wait, first in, first out (the model's own; no state of the spec). Reset: none. -/
  pending : List Instr
  /-- A count that names fresh free values (the model's own; no state of the spec). Reset 0 (DESIGN CHOICE, log 1). -/
  free : Nat
  /-- What the module has sent outside, in order (the model's own record of it). Reset: nothing. -/
  outs : List Out
  /-- Bytes of the stacks, the MRDIMMs, the Permafrost tier and host memory as the module sees it, by physical address. R206; reset: nothing listed. -/
  mem : Memory
  /-- Stack and DIMM lines (64 B, physical) found uncorrectable. R214, R217; reset: none. -/
  ueLines : List Nat
  /-- Contexts 0 to 1,023. R30; reset as their own fields. -/
  ctxs : Tbl Ctx
  /-- Host domains 0 to 15. R362; reset as their own fields. -/
  doms : Tbl Dom
  /-- Host attachments 0 to 3. R428; reset as their own fields. -/
  attaches : Tbl Attach
  /-- Tiles 0 to 11. R17; reset as their own fields. -/
  tiles : Tbl Tile
  /-- Stacks 0 to 11. R17; reset as their own fields. -/
  stks : Tbl Stack
  /-- DIMM channels 0 to 15. R217; reset as their own fields. -/
  dimms : Tbl Dimm
  /-- The scheduler. R373, R374; reset as its own fields. -/
  sched : Sched
  /-- Model slots 0 to 7. R382; reset: EMPTY. -/
  models : Tbl ModelSlot
  /-- The model cache's use counter. R382; reset 0 (DESIGN CHOICE, log 2). -/
  modelUse : Nat
  /-- The module error log. R458, R459; reset as its own fields. -/
  err : ErrMod
  /-- Bring-up. R463, R467; reset as its own fields. -/
  boot : Boot
  /-- Bluone. R432; reset as its own fields. -/
  blu : Bluone
  /-- SEC_ and OTP_ registers. R441, R447; reset as their own fields. -/
  sec : SecRegs
  /-- Connector pins. R475 to R483; reset as their own fields. -/
  pins : Pins
  /-- PMT_FORMAT is in progress. R440; reset 0. -/
  formatting : Bool
  /-- The links. R309; reset as its own fields. -/
  lnk : Links
  /-- The Permafrost tier. R233; reset as its own fields. -/
  pmt : Pmt
  /-- Power control. R414; reset as its own fields. -/
  pwr : Power
  deriving DecidableEq, Repr

/-- The power-limit block of a variant, generation 0 (R4, R395): CEIL_W, DESIGN_W, CAP_MIN_W and I_CLAMP of 4,000, 3,650, 2,000 W and 80 A;
of 4,000, 3,550, 2,000 W and 80 A; of 2,800, 2,560, 1,400 W and 56 A. -/
def factoryPower : Variant → List Byte
  | .mf12 => [0xC4, 0x80, 0x20, 0xDB, 0xA0, 0x4F, 0xC8, 0x41, 0x1F, 0x28]
  | .ms12 => [0x59, 0x15, 0x80, 0xDE, 0xA0, 0xCF, 0xBB, 0x41, 0x1F, 0x28]
  | .ms08 => [0xD7, 0x8D, 0x2E, 0x56, 0xF0, 0x0A, 0x40, 0xE1, 0x15, 0x1C]

/-- The CRC of a variant's redundancy map, and its tiles (R4). -/
def factoryMap : Variant → List Byte × Nat
  | .mf12 => ([0xFF, 0x02, 0x73, 0x6D], 12)
  | .ms12 => ([0xFF, 0x02, 0x73, 0x6D], 12)
  | .ms08 => ([0xA6, 0x0B, 0x2C, 0x71], 8)

/-- OTP as a new module leaves the factory (log entry 3): generation 0 of the power limits and of the redundancy map, where C0 to C15 of each
tile are enabled, C16 and C17 are spare, and column 32 of each quarter is bypassed. -/
def factoryOtp (v : Variant) : Memory :=
  let m := factoryMap v
  (0x300, 0xFF) :: (List.range 10).map (fun i => (0x304 + i, (factoryPower v).getD i 0))
  ++ ((0x1000, 0xFF) :: (List.range 4).map (fun i => (0x1004 + i, m.1.getD i 0)))
  ++ ((List.range (18 * m.2)).map (fun i =>
    let a := 0x1040 + 0x200 * (i / 18) + 8 * (i % 18)
    [(a, if i % 18 < 16 then 0x81 else 0x82), (a + 1, 0x20), (a + 2, 0x08), (a + 3, 0x02)])).flatten

/-- Bluone as State.reset has it: a new module's OTP and flash (log entry 3). -/
def Bluone.reset : Bluone :=
  { variant := .mf12, serial := 0, secret := List.replicate 32 0, rootHash := List.replicate 32 0,
    factoryOk := true, otp := factoryOtp .mf12, sensed := [], slotA := [], slotB := [], cfgA := none, cfgB := none,
    tokens := [], tokenCodes := [], certs := Config.identityCert, badSlots := [], suspects := [], alias_ := [], cfg := none, stage := 0, halted := false, unlock := false,
    warm := false, waiting := [],
    manifest := [], measures := [], keys := [], nonce := none, spdm := 0 }

/-- The machine right after a cold reset at input good, before step 1 of R463: every field as its comment says. -/
def State.reset : State :=
  { pending := [], free := 0, outs := [], mem := [], ueLines := [], ctxs := [], doms := [], attaches := [],
    tiles := [], stks := [], dimms := [], sched := Sched.reset, models := [], modelUse := 0,
    err := ErrMod.reset, boot := Boot.reset, blu := Bluone.reset, sec := SecRegs.reset, pins := Pins.reset,
    formatting := false, lnk := Links.reset, pmt := Pmt.reset, pwr := Power.reset }

end Sys2Proof.Machine
end

