-- ==== Sys2Proof/Machine/Frost.lean ====
section
/-! DEFINITION. Frost.lean: the Permafrost tier beneath its commands: the layout, the map from user lines to device lines, wear-levelling, spares,
throttle levels, and the packets and requests of the PMT interface (R233 to R253, R259). -/
namespace Sys2Proof.Machine

/-! ### Logs -/

/-- One event in a circular log of `size` entries: the entry's words are formed from its ORDINAL. -/
def EvLog.add (l : EvLog) (size : Nat) (mk : Word → List DWord) : EvLog :=
  { entries := tput l.entries (l.ord.toNat % size) (mk l.ord), ord := l.ord + 1 }

/-! ### Devices and the layout (R233, R234) -/

def State.pdev (s : State) (n : Nat) : PmtDev := tget PmtDev.reset s.pmt.devs n
def State.pdie (s : State) (n : Nat) : PmtDie := tget PmtDie.reset s.pmt.dies (n / 4)
def State.modPmt (s : State) (f : Pmt → Pmt) : State := { s with pmt := f s.pmt }
def State.modPdev (s : State) (n : Nat) (f : PmtDev → PmtDev) : State :=
  s.modPmt (fun p => { p with devs := tput p.devs n (f (s.pdev n)) })
/-- The configuration of the I/O die of a device changes. -/
def State.modPdie (s : State) (n : Nat) (f : PmtDie → PmtDie) : State :=
  s.modPmt (fun p => { p with dies := tput p.dies (n / 4) (f (s.pdie n)) })

def pmtBase : Nat := 0x100000000000
/-- User bytes of a device. -/
def pmtDevUser : Nat := 1792 * 0x40000000
/-- The interleaved layout; an unformatted tier has no other. -/
def Pmt.interleaved (p : Pmt) : Bool := p.ilv || !p.formatted

/-- The tier backs a physical address. -/
def Pmt.backed (p : Pmt) (pa : Nat) : Bool :=
  decide (pmtBase ≤ pa) && (if p.interleaved then decide (pa < pmtBase + 8 * pmtDevUser)
    else decide (pa < pmtBase + 2 ^ 44) && decide ((pa - pmtBase) % 2 ^ 41 < pmtDevUser))

/-- Device and user line of a physical address. -/
def Pmt.place (p : Pmt) (pa : Nat) : Nat × Nat :=
  let o := pa - pmtBase
  if p.interleaved then (o / 4096 % 8, (o / 4096 / 8 * 4096 + o % 4096) / 256) else (o / 2 ^ 41, o % 2 ^ 41 / 256)

/-- First physical address of a device's user line. -/
def Pmt.lineAddr (p : Pmt) (n ul : Nat) : Nat :=
  let u := ul * 256
  if p.interleaved then pmtBase + (u / 4096 * 8 + n) * 4096 + u % 4096 else pmtBase + n * 2 ^ 41 + u

/-- The device is active (R234, R258). -/
def PmtDev.up (d : PmtDev) : Bool := d.state == 2

/-- Accesses to a device's range are served (R234). -/
def State.frostServes (s : State) (n : Nat) : Bool :=
  s.pmt.inService && (if s.pmt.interleaved then (List.range 8).all (fun i => (s.pdev i).up) else (s.pdev n).up)

/-- The tier can accept accesses: its format record is valid, and every device of an interleaved tier, or some device of the other layout, is
active (R234). -/
def State.tierUp (s : State) : Bool :=
  s.pmt.formatted && !s.formatting && (if s.pmt.ilv then (List.range 8).all (fun n => (s.pdev n).up) else (List.range 8).any (fun n => (s.pdev n).up))

/-! ### Regions, slots and device lines (R245); the numbers of a use's regions follow the order of R233's table (log entry 18) -/

def regionLines : Nat := 262144
def spareFirst : Nat := 28672
def spareLines : Nat := 1966 * 262144
def reserveFirst : Nat := 30638
def reserveRegions : Nat := 2048
def sysFirst : Nat := 32686
/-- The system regions that hold the staging slots of a swap and the canary lines (log entry 18). -/
def stagingRegion : Nat := sysFirst + 1
def canaryRegion : Nat := sysFirst + 2

/-- slot_of. -/
def slotOf (la start gap : Nat) : Nat :=
  let s := (la + start) % regionLines
  if gap ≤ s then s + 1 else s

def PmtDev.region (d : PmtDev) (lr : Nat) : PmtRegion := tget PmtRegion.reset d.regions lr
/-- The physical region of a logical region. -/
def PmtDev.phys (d : PmtDev) (lr : Nat) : Nat := tget lr d.map lr
/-- The physical region in which a slot lies now: of two regions that are being exchanged, a copied slot lies in the other's (R246). -/
def PmtDev.place (d : PmtDev) (lr slot : Nat) : Nat :=
  match d.swap with
  | some (h, l) => if slot < d.swapPtr then (if lr = h then d.phys l else if lr = l then d.phys h else d.phys lr) else d.phys lr
  | none => d.phys lr
/-- The device line of a slot before the remap table; slot 262,144 is the gap line, in the system regions. -/
def PmtDev.raw (d : PmtDev) (lr slot : Nat) : Nat :=
  if slot = regionLines then sysFirst * regionLines + lr else d.place lr slot * regionLines + slot
def PmtDev.remapped (d : PmtDev) (raw : Nat) : Nat := tget raw d.remap raw
/-- The slot of a user line. -/
def PmtDev.slotFor (d : PmtDev) (ul : Nat) : Nat :=
  let r := d.region (ul / regionLines)
  slotOf (ul % regionLines) r.start r.gap
def PmtDev.rawFor (d : PmtDev) (ul : Nat) : Nat := d.raw (ul / regionLines) (d.slotFor ul)
/-- The device line of a user line. -/
def PmtDev.lineOf (d : PmtDev) (ul : Nat) : Nat := d.remapped (d.rawFor ul)
/-- The slot that a device line stands for. -/
def PmtDev.origin (d : PmtDev) (line : Nat) : Nat := ((d.remap.find? (fun e => e.2 == line)).map (·.1)).getD line

/-- The user line that a device line holds now; none for a spare, a system line, or the gap (R245). -/
def PmtDev.userLine (d : PmtDev) (line : Nat) : Option Nat :=
  let raw := d.origin line
  let gapLine := decide (raw / regionLines = sysFirst)
  let slot := if gapLine then regionLines else raw % regionLines
  let swapped := match d.swap with
    | some (h, l) => [h, l]
    | none => []
  let among := if gapLine then [raw % regionLines] else raw / regionLines :: tkeys d.map ++ swapped
  match among.find? (fun lr => decide (lr < spareFirst) && d.raw lr slot == raw) with
  | some lr =>
    let r := d.region lr
    if slot = r.gap then none
    else some (lr * regionLines + ((if r.gap < slot then slot - 1 else slot) + regionLines - r.start) % regionLines)
  | none => none

/-- An entry of device n's log (R259). -/
def PmtDev.note (d : PmtDev) (n cls line detail : Nat) : PmtDev :=
  { d with log := d.log.add 32 (fun o => [at_ cls 0 ||| at_ n 4 ||| at_ line 8 ||| at_ (detail % 2 ^ 23) 41, at_ o.toNat 0]) }

/-- A slot is spared as a grown bad line (R250). -/
def PmtDev.spare (d : PmtDev) (n raw : Nat) : PmtDev :=
  if d.spares < spareLines then
    { d with remap := tput d.remap raw (spareFirst * regionLines + d.spares), spares := d.spares + 1,
             grownCnt := satInc d.grownCnt }.note n 3 (d.remapped raw) 0
  else { d with exhausted := true }

/-- Line writes are counted where they fall (R251). -/
def PmtDev.wearAdd (d : PmtDev) (region k : Nat) : PmtDev :=
  { d with wear := tput d.wear region (tget 0 d.wear region + k), taken := d.taken + k }

/-- Wear of a physical region: line writes per line. -/
def PmtDev.wearOf (d : PmtDev) (region : Nat) : Nat := tget 0 d.wear region / regionLines

/-- The logical region that a physical one holds. -/
def PmtDev.holder (d : PmtDev) (p : Nat) : Option Nat :=
  match d.map.find? (fun e => e.2 == p) with
  | some e => some e.1
  | none => if p < spareFirst ∧ ¬ (tkeys d.map).contains p then some p else none

/-- The write of a slot by a copy or a rewrite: a destination that returns VERIFY_FAIL is spared, and the copy goes on; each line write wears the
region in which it falls (R247, R250, R251). -/
def PmtDev.copyTo (d : PmtDev) (n : Nat) (fails : Nat → Bool) (raw : Nat) : PmtDev :=
  let line := d.remapped raw
  let d1 := d.wearAdd (line / regionLines) 1
  if fails line then
    let d2 := d1.spare n raw
    d2.wearAdd (d2.remapped raw / regionLines) 1
  else d1

/-- Slots are copied, each as stored, to the slots that `dst` gives them: unreadable contents go with their data to the line that takes them in
the end, are logged, and their source slots are spared (R247). -/
def PmtDev.copySlots (d : PmtDev) (n : Nat) (fails : Nat → Bool) (src : List Nat) (from_ : Nat → Bool) (dst : Nat → Nat) : PmtDev :=
  let into := src.map dst
  let hit := d.bad.filter (fun e => from_ (d.origin e.1))
  let stays (e : Nat × Nat) : Bool := !from_ (d.origin e.1) && !into.contains (d.origin e.1)
  let d1 := hit.foldl (fun d' e => (d'.note n 1 e.1 e.2).spare n (d.origin e.1)) { d with bad := d.bad.filter stays }
  let d2 := into.foldl (fun d' r => d'.copyTo n fails r) d1
  { d2 with bad := hit.foldl (fun t e => tput t (d2.remapped (dst (d.origin e.1))) e.2) d2.bad }

/-- The slots of a physical region. -/
def regionSlots (p : Nat) : List Nat := (List.range regionLines).map (p * regionLines + ·)

/-- A physical user region at its wear limit is retired into the next wear-reserve region, unless a swap runs (R247, R251). -/
def PmtDev.retireIfDue (d : PmtDev) (n : Nat) (fails : Nat → Bool) (p : Nat) : PmtDev :=
  if d.swap.isSome ∨ d.wearOf p < 18000000 then d
  else
    match d.holder p with
    | none => d
    | some lr =>
      if d.reserves < reserveRegions then
        let q := reserveFirst + d.reserves
        let d1 := d.copySlots n fails (regionSlots p) (fun r => decide (r / regionLines = p)) (fun r => q * regionLines + r % regionLines)
        { d1 with map := tput d1.map lr q, reserves := d1.reserves + 1, retired := d1.retired ++ [p] }.note n 4 0 p
      else { d with exhausted := true }

/-- Regions at their wear limit when a swap has ended (R247). -/
def PmtDev.retireAll (d : PmtDev) (n : Nat) (fails : Nat → Bool) : PmtDev := (tkeys d.wear).foldl (fun d p => d.retireIfDue n fails p) d

/-- A gap copy of R245: the 288 B exactly as stored. -/
def PmtDev.copySlot (d : PmtDev) (n : Nat) (fails : Nat → Bool) (lr src dst : Nat) : PmtDev :=
  d.copySlots n fails [d.raw lr src] (fun r => r == d.raw lr src) (fun _ => d.raw lr dst)

/-- The copy pointer of a swap moves on: the slots on its way change places through the staging region, unreadable contents with them (R246,
R247). -/
def PmtDev.advanceSwap (d : PmtDev) (n : Nat) (fails : Nat → Bool) (upTo : Nat) : PmtDev :=
  match d.swap with
  | none => d
  | some (h, l) =>
    let p := d.phys h
    let q := d.phys l
    let hi := max d.swapPtr (min upTo regionLines)
    let k := hi - d.swapPtr
    let slots := (List.range k).map (· + d.swapPtr)
    let on (r : Nat) : Bool := decide (d.swapPtr ≤ r % regionLines) && decide (r % regionLines < hi)
      && (decide (r / regionLines = p) || decide (r / regionLines = q))
    let d1 := (d.wearAdd stagingRegion k).copySlots n fails (slots.map (p * regionLines + ·) ++ slots.map (q * regionLines + ·)) on
      (fun r => (if r / regionLines = p then q else p) * regionLines + r % regionLines)
    { d1 with swapPtr := hi }

/-- after_user_write; the gap of a region that is being swapped waits (R246), and no gap moves while no write goes to the device: it moves once
writes go again (R257). -/
def PmtDev.afterUserWrite (d : PmtDev) (n psi : Nat) (fails : Nat → Bool) (mute : Bool) (lr : Nat) : PmtDev :=
  let r := d.region lr
  let r1 := { r with count := r.count + 1, writes := r.writes + 1 }
  let put (d : PmtDev) (r : PmtRegion) : PmtDev := { d with regions := tput d.regions lr r }
  if r1.count < psi ∨ d.swap.any (fun w => w.1 == lr || w.2 == lr) ∨ mute = true then put d r1
  else if r.gap = 0 then
    put (d.copySlot n fails lr regionLines 0) { r1 with count := 0, gap := regionLines, start := (r.start + 1) % regionLines }
  else put (d.copySlot n fails lr (r.gap - 1) r.gap) { r1 with count := 0, gap := r.gap - 1 }

/-- The slot, before the remap table, to which a request was sent. -/
def PmtReq.slot (r : PmtReq) (d : PmtDev) : Nat := match r.sentTo with
  | some p => p.1
  | none => d.rawFor r.line
/-- The device line to which a request was sent. -/
def PmtReq.target (r : PmtReq) (d : PmtDev) : Nat := match r.sentTo with
  | some p => p.2
  | none => d.lineOf r.line

/-- A user write has been taken: it wears the region of its line, and the gap of its region may move (R245, R251). -/
def PmtDev.wrote (d : PmtDev) (n psi : Nat) (fails : Nat → Bool) (mute : Bool) (r : PmtReq) : PmtDev :=
  let lr := r.line / regionLines
  let d1 := ({ d with written := if d.written.contains r.line then d.written else r.line :: d.written }.wearAdd (r.target d / regionLines) 1).afterUserWrite
    n psi fails mute lr
  if mute then d1 else d1.retireIfDue n fails (d.phys lr)

/-! ### Throttle levels (R252, R253) -/

def PmtDev.reserveLeft (d : PmtDev) : Nat := reserveRegions - d.reserves
def PmtDev.sparesLeft (d : PmtDev) : Nat := spareLines - d.spares

def PmtDev.wantLevel (d : PmtDev) : Nat :=
  if d.exhausted || d.veryHot then 3
  else if d.reserveLeft < 64 ∨ d.sparesLeft * 100 < spareLines ∨ d.hot = true then 2
  else if d.reserveLeft < 512 ∨ d.sparesLeft * 20 < spareLines then 1
  else 0

/-- User write rate of a level, in units of 100 MB/s. -/
def levelRate (l : Nat) : Nat := [120, 60, 12, 0].getD l 0

/-- WR_CAP above the level's rate is counted and logged. -/
def State.capConflict (s : State) (n : Nat) : State :=
  let d := s.pdev n
  let e := s.pdie n
  if levelRate d.level < e.wrCap.toNat then
    (s.modPdie n (fun e => { e with capCnt := satInc e.capCnt })).modPdev n (fun d => d.note n 10 0 d.level)
  else s

/-- The level that applies now; a change is logged. -/
def State.frostLevel (s : State) (n : Nat) : State :=
  let d := s.pdev n
  if d.wantLevel = d.level then s
  else (s.modPdev n (fun d => ({ d with level := d.wantLevel }.note n 9 0 d.wantLevel))).capConflict n

/-- No user write goes to some device of n bytes now (R252). -/
def State.frostShut (s : State) (pa n : Nat) : Bool :=
  (List.range (if n = 0 then 0 else (pa + n - 1) / 4096 - pa / 4096 + 1)).any (fun i =>
    decide ((s.pdev (s.pmt.place ((pa / 4096 + i) * 4096)).1).level = 3))

/-! ### Packets (R237 to R239) -/

/-- The header of a downstream packet: RD and WR with TAG, LINE and VSHIFT, the others with register and value in DATA. -/
def pmtHeader (code : Nat) (args : List Nat) : List DWord :=
  let a (i : Nat) : Nat := args.getD i 0
  if code = 1 ∨ code = 2 then [at_ code 0 ||| at_ (a 0) 8 ||| at_ (a 1) 16 ||| at_ (a 2) 50, 0]
  else [at_ code 0, at_ (a 0) 32 ||| at_ (a 1) 40]

/-- A packet: 16 B of header, the payload, and 16 B of trailer with the CRC over all before it (R237). -/
def pmtPacket (code : Nat) (args : List Nat) (payload : List Byte) (seq ack : Nat) : List Byte :=
  let bs := wordsBytes (pmtHeader code args) ++ payload ++ wordsBytes [at_ seq 0 ||| at_ ack 12]
  bs ++ wordsBytes [at_ (crc32 bs).toNat 0]

/-- A packet goes to a device; the module keeps its last 64 that are not acknowledged. -/
def State.pmtSend (s : State) (n code : Nat) (args : List Nat) (payload : List Byte) : State :=
  let d := s.pdev n
  let s1 := s.modPdev n (fun d => { d with
    txSeq := (d.txSeq + 1) % 4096, sent := d.sent.drop (d.sent.length - 63) ++ [⟨d.txSeq, code, args, payload, 0⟩] })
  { s1 with outs := s1.outs ++ [.pmt n (pmtPacket code args payload d.txSeq d.rxSeq)] }

/-- Packets up to ACK are acknowledged. -/
def PmtDev.takeAck (d : PmtDev) (a : Nat) : PmtDev :=
  { d with sent := d.sent.filter (fun p => !decide ((a + 4096 - p.seq) % 4096 < 2048)) }

/-- An upstream packet is accepted: its SEQ follows, and its ACK acts. -/
def PmtDev.accept (d : PmtDev) (ack : Nat) : PmtDev :=
  { d.takeAck ack with rxSeq := (d.rxSeq + 1) % 4096, nakOut := false }

/-! ### Requests (R239, R244) -/

/-- The VSHIFT of an attempt, as its four bits (R243). -/
def vshift (tries : Nat) : Nat := [0, 1, 15, 2, 14].getD tries 0

def PmtDev.modReq (d : PmtDev) (id : Nat) (f : PmtReq → PmtReq) : PmtDev :=
  { d with reqs := d.reqs.map (fun q => if q.id = id then f q else q) }

/-- No WR leaves for the device: after a power-fail warning, and once its hold-up is complete (R257). -/
def State.pmtMute (s : State) (n : Nat) : Bool := s.pmt.pfail || (s.pdev n).heldUp

/-- A request can be sent: writes only while the device takes them and the read that they wait for has come. -/
def State.mayRequest (s : State) (n : Nat) (r : PmtReq) : Bool :=
  r.tag.isNone && (!r.write || (r.after_.isNone && !s.pmtMute n))

/-- The next write of the same line that has not been acknowledged. -/
def PmtDev.laterWrite (d : PmtDev) (r : PmtReq) : Option PmtReq := d.reqs.find? (fun q => q.write && q.line == r.line && decide (r.id < q.id))

/-- The line as a write stores it: its data, TAG with SYS and ERASED 0, and the check bits (R242). -/
def State.lineImage (s : State) (n : Nat) (r : PmtReq) : List Byte :=
  let data := match (s.pdev n).laterWrite r with
    | some q => q.old
    | none => mread s.mem (s.pmt.lineAddr n r.line) 256
  let bs := data ++ wordsBytes [at_ r.line 0]
  bs ++ leBytes 24 (Config.bchCheck bs).toNat

def PmtDev.freeTag (d : PmtDev) (write : Bool) : Option Nat :=
  (List.range 64).find? (fun t => !d.reqs.any (fun r => r.write == write && r.tag == some t))

/-- RD or WR of a request that has a tag; a swap has come on by then, unless no write goes to the device (R257). -/
def State.pmtIssue (s : State) (n : Nat) (r : PmtReq) : State :=
  if r.write && s.pmtMute n then s
  else
    let s1 := s.modPdev n (fun d =>
      let d1 := if s.pmtMute n then d else d.advanceSwap n (Config.copyFails s.free n) (Config.swapAt s.free n)
      d1.modReq r.id (fun q => { q with sentTo := some (d1.rawFor r.line, d1.lineOf r.line) }))
    let line := (s1.pdev n).lineOf r.line
    if r.write then s1.pmtSend n 2 [r.tag.getD 0, line] (s.lineImage n r) else s1.pmtSend n 1 [r.tag.getD 0, line, vshift r.tries] []

/-- Waiting requests take free tags, oldest first. -/
def State.frostPump : Nat → State → Nat → State
  | 0, s, _ => s
  | fuel + 1, s, n =>
    let d := s.pdev n
    if d.state ≠ 2 then s
    else
      match d.reqs.find? (fun r => s.mayRequest n r && (d.freeTag r.write).isSome) with
      | none => s
      | some r =>
        let r1 := { r with tag := d.freeTag r.write }
        State.frostPump fuel ((s.modPdev n (fun d => { d with reqs := d.reqs.map (fun q => if q.id = r.id then r1 else q) })).pmtIssue n r1) n

def State.pump (s : State) (n : Nat) : State := State.frostPump (s.pdev n).reqs.length s n

/-- A request joins the queue of its device. -/
def State.addReq (s : State) (n : Nat) (mk : Nat → PmtReq) : State :=
  let r := mk s.pmt.nextReq
  (s.modPdev n (fun d => { d with reqs := d.reqs ++ [r] })).modPmt (fun p => { p with nextReq := p.nextReq + 1 })

/-- An uncorrectable line was read (R243, R258, R259). -/
def State.frostUncorr (s : State) (n line cause : Nat) : State :=
  s.modPdev n (fun d => ({ d with uncorr := true, uncorrCnt := satInc d.uncorrCnt }.note n 1 line cause))

end Sys2Proof.Machine
end

