-- ==== Sys2Proof/Machine/Num.lean ====
section
/-! DEFINITION. Num.lean: number formats, rounding, the counter-based generator and the reproducible sums (R67 to R86). -/
namespace Sys2Proof.Machine

/-- An exact value: what an element pattern stands for, and what exact sums and products are before any
rounding. `fin neg m e` is (−1)^neg × m × 2^e, so a zero keeps its sign. -/
inductive Val where
  | nan
  | inf (neg : Bool)
  | fin (neg : Bool) (m : Nat) (e : Int)
  deriving DecidableEq, Repr

/-- The special encodings of an element format (R67). -/
inductive Special where
  | ieee   -- infinities and NaNs at the top exponent
  | e4m3   -- one NaN code, no infinity
  | none   -- neither
  deriving DecidableEq, Repr

/-- An element format (table of R67): exponent width, mantissa width, bias, special encodings. -/
structure Fmt where
  ew : Nat
  mw : Nat
  bias : Nat
  sp : Special
  deriving DecidableEq, Repr

def fmtFP32 : Fmt := ⟨8, 23, 127, .ieee⟩
def fmtBF16 : Fmt := ⟨8, 7, 127, .ieee⟩
def fmtFP16 : Fmt := ⟨5, 10, 15, .ieee⟩
def fmtE4M3 : Fmt := ⟨4, 3, 7, .e4m3⟩
def fmtE5M2 : Fmt := ⟨5, 2, 15, .ieee⟩
def fmtE3M2 : Fmt := ⟨3, 2, 3, .none⟩
def fmtE2M3 : Fmt := ⟨2, 3, 1, .none⟩
def fmtE2M1 : Fmt := ⟨2, 1, 1, .none⟩

/-- Width of an element in bits. -/
def Fmt.width (f : Fmt) : Nat := 1 + f.ew + f.mw

/-- The element format of a 4-bit format code (R70); the MX codes name the format of their elements. -/
def codeFmt : Nat → Fmt
  | 1 => fmtBF16
  | 2 => fmtFP16
  | 3 => fmtE4M3
  | 4 => fmtE5M2
  | 5 => fmtE4M3
  | 6 => fmtE5M2
  | 7 => fmtE3M2
  | 8 => fmtE2M3
  | 9 => fmtE2M1
  | _ => fmtFP32

/-- A format code that R70 assigns. -/
def codeOk (c : Nat) : Bool := decide (c ≤ 9)

/-- A format code of an MX type (R69, R70). -/
def codeMx (c : Nat) : Bool := decide (5 ≤ c) && decide (c ≤ 9)

/-- A format whose leaves are groups of 32 indices (R82): plain FP8 and every MX type. -/
def codeGrouped (c : Nat) : Bool := decide (3 ≤ c) && decide (c ≤ 9)

/-- Bits per element of a format code (R67). -/
def codeBits (c : Nat) : Nat := (codeFmt c).width

/-- Bytes that n elements of a format take, in whole blocks for the packed formats (R68). -/
def codeBytes (c n : Nat) : Nat :=
  if c = 7 ∨ c = 8 then 24 * cdiv n 32 else if c = 9 then 16 * cdiv n 32 else n * (codeBits c / 8)

/-- The value of an element pattern (R67). -/
def decodeVal (f : Fmt) (x : Nat) : Val :=
  let neg := x / 2 ^ (f.ew + f.mw) % 2 == 1
  let e := x / 2 ^ f.mw % 2 ^ f.ew
  let m := x % 2 ^ f.mw
  let top := 2 ^ f.ew - 1
  if f.sp = .ieee ∧ e = top then (if m = 0 then .inf neg else .nan)
  else if f.sp = .e4m3 ∧ e = top ∧ m = 2 ^ f.mw - 1 then .nan
  else if e = 0 then .fin neg m (1 - (f.bias : Int) - f.mw)
  else .fin neg (2 ^ f.mw + m) ((e : Int) - f.bias - f.mw)

/-- The value of an FP32 pattern. -/
def f32val (x : Word) : Val := decodeVal fmtFP32 x.toNat

/-- The value of an E8M0 block scale (R67, R69); 0xFF makes its block NaN. -/
def scaleVal (x : Nat) : Val := if x = 255 then .nan else .fin false 1 ((x : Int) - 127)

/-! ### Exact arithmetic (R71) -/

/-- The signed whole number m·2^(e − q), for q at or below e. -/
def alignTo (neg : Bool) (m : Nat) (e q : Int) : Int :=
  let k : Int := (m <<< (e - q).toNat : Nat)
  if neg then -k else k

/-- The exact sum of two values. Zeros of opposite sign, and x + (−x), sum to +0 (R71). -/
def vAdd : Val → Val → Val
  | .nan, _ => .nan
  | _, .nan => .nan
  | .inf a, .inf b => if a = b then .inf a else .nan
  | .inf a, _ => .inf a
  | _, .inf b => .inf b
  | .fin na ma ea, .fin nb mb eb =>
    let q := min ea eb
    let s := alignTo na ma ea q + alignTo nb mb eb q
    if s = 0 then .fin (na && nb) 0 0 else .fin (decide (s < 0)) s.natAbs q

/-- The exact product of two values. -/
def vMul : Val → Val → Val
  | .nan, _ => .nan
  | _, .nan => .nan
  | .inf a, .inf b => .inf (a != b)
  | .inf a, .fin b m _ => if m = 0 then .nan else .inf (a != b)
  | .fin a m _, .inf b => if m = 0 then .nan else .inf (a != b)
  | .fin a m e, .fin b k f => .fin (a != b) (m * k) (e + f)

/-- The value with its sign turned. -/
def vNeg : Val → Val
  | .nan => .nan
  | .inf a => .inf (!a)
  | .fin a m e => .fin (!a) m e

/-- floor(log2 |v|) of a non-zero finite value m·2^e. -/
def vLog2 (m : Nat) (e : Int) : Int := (Nat.log2 m : Int) + e

/-- Comparison of two finite magnitudes with sign: a < b. -/
def vLt : Val → Val → Bool
  | .fin na ma ea, .fin nb mb eb =>
    let q := min ea eb
    decide (alignTo na ma ea q < alignTo nb mb eb q)
  | .inf a, .inf b => a && !b
  | .inf a, .fin _ _ _ => a
  | .fin _ _ _, .inf b => !b
  | _, _ => false

/-! ### NUMFLAGS (R74) -/

/-- NUMFLAGS, bits [63:56] of RESULT: [0] NAN, [1] OVF_SAT, [2] OVF_NS, [3] UNF, [4] SCALE_CLAMP. -/
abbrev NumFlags := BitVec 8
def nfNan : NumFlags := 1
def nfOvfSat : NumFlags := 2
def nfOvfNs : NumFlags := 4
def nfUnf : NumFlags := 8
def nfClamp : NumFlags := 16

/-- NUMFLAGS in their place in RESULT. -/
def nfResult (f : NumFlags) : DWord := at_ f.toNat 56

/-! ### Rounding (R72, R75 to R77) -/

/-- How a value is rounded: to nearest even, or stochastically with a 16-bit random value. -/
inductive Rnd where
  | rne
  | sr (r : Nat)
  deriving DecidableEq, Repr

/-- The largest finite magnitude of a format (R67), as m·2^e. -/
def Fmt.maxFin (f : Fmt) : Nat × Int :=
  match f.sp with
  | .ieee => (2 ^ (f.mw + 1) - 1, ((2 ^ f.ew - 2 : Nat) : Int) - f.bias - f.mw)
  | .e4m3 => (2 ^ (f.mw + 1) - 2, ((2 ^ f.ew - 1 : Nat) : Int) - f.bias - f.mw)
  | .none => (2 ^ (f.mw + 1) - 1, ((2 ^ f.ew - 1 : Nat) : Int) - f.bias - f.mw)

/-- The pattern of the largest finite value. -/
def Fmt.maxCode (f : Fmt) : Nat :=
  match f.sp with
  | .ieee => 2 ^ (f.ew + f.mw) - 2 ^ f.mw - 1
  | .e4m3 => 2 ^ (f.ew + f.mw) - 2
  | .none => 2 ^ (f.ew + f.mw) - 1

/-- The pattern of +∞ where the format has one; E4M3's overflow is its NaN (R72). -/
def Fmt.infCode (f : Fmt) : Nat :=
  match f.sp with
  | .ieee => 2 ^ (f.ew + f.mw) - 2 ^ f.mw
  | .e4m3 => 2 ^ (f.ew + f.mw) - 1
  | .none => 2 ^ (f.ew + f.mw) - 1

/-- The pattern of the NaN that a conversion writes (R72). -/
def Fmt.nanCode (f : Fmt) : Nat :=
  match f.sp with
  | .ieee => 2 ^ (f.ew + f.mw) - 2 ^ (f.mw - 1)
  | .e4m3 => 2 ^ (f.ew + f.mw) - 1
  | .none => 0

/-- The exponent of the spacing of a format at a non-zero magnitude m·2^e, the exponent range unbounded above
and the subnormal step below (R72, R76). -/
def Fmt.quantum (f : Fmt) (m : Nat) (e : Int) : Int := max (vLog2 m e - f.mw) (1 - (f.bias : Int) - f.mw)

/-- A magnitude m·2^e in units of 2^q, rounded (R76, R77). -/
def roundMag (r : Rnd) (m : Nat) (e q : Int) : Nat :=
  if q ≤ e then m <<< (e - q).toNat
  else
    let s := (q - e).toNat
    let lo := m >>> s
    let rem := m % 2 ^ s
    match r with
    | .rne => if 2 * rem > 2 ^ s ∨ (2 * rem = 2 ^ s ∧ lo % 2 = 1) then lo + 1 else lo
    | .sr v => if rem * 65536 / 2 ^ s + v ≥ 65536 then lo + 1 else lo

/-- The pattern of a magnitude n·2^q that the format represents. -/
def Fmt.encodeMag (f : Fmt) (n : Nat) (q : Int) : Nat :=
  if n < 2 ^ f.mw then n
  else if n = 2 ^ (f.mw + 1) then (q + 1 + f.mw + f.bias).toNat * 2 ^ f.mw
  else (q + f.mw + f.bias).toNat * 2 ^ f.mw + (n - 2 ^ f.mw)

/-- The magnitude n·2^q lies above the format's largest finite value. -/
def Fmt.excess (f : Fmt) (n : Nat) (q : Int) : Bool :=
  vLt (.fin false f.maxFin.1 f.maxFin.2) (.fin false n q)

/-- Conversion of an exact value to a format, with the flags it raises (R72, R74). -/
def convert (f : Fmt) (r : Rnd) (sat : Bool) (v : Val) : Nat × NumFlags :=
  let sg (neg : Bool) (x : Nat) : Nat := if neg then x + 2 ^ (f.ew + f.mw) else x
  match v with
  | .nan => (f.nanCode, nfNan)
  | .inf neg =>
    if sat then (sg neg f.maxCode, nfOvfSat)
    else if f.sp = .e4m3 then (f.infCode, nfNan)
    else (sg neg f.infCode, 0)
  | .fin neg m e =>
    if m = 0 then (sg neg 0, 0)
    else
      let q := f.quantum m e
      let n := roundMag r m e q
      if n = 0 then (sg neg 0, nfUnf)
      else if f.excess n q then
        if sat then (sg neg f.maxCode, nfOvfSat)
        else if f.sp = .e4m3 then (f.infCode, nfNan ||| nfOvfNs)
        else (sg neg f.infCode, nfOvfNs)
      else (sg neg (f.encodeMag n q), 0)

/-- An exact value rounded once to FP32 by RNE, SAT = 0, with its flags. -/
def toF32F (v : Val) : Word × NumFlags :=
  let (x, fl) := convert fmtFP32 .rne false v
  (BitVec.ofNat 32 x, fl)

/-- An exact value rounded once to FP32 by RNE (R71). -/
def toF32 (v : Val) : Word := (toF32F v).1

/-- The canonical NaN (R71). -/
def f32nan : Word := 0x7FC00000
/-- −∞ as FP32. -/
def f32ninf : Word := 0xFF800000
/-- 1.0 as FP32. -/
def f32one : Word := 0x3F800000

/-! ### Elements in bytes (R68) -/

/-- The pattern of element i of a byte string of elements of w bits. -/
def elemBits (bs : List Byte) (w i : Nat) : Nat := (leNat bs >>> (w * i)) % 2 ^ w

/-- Patterns of w bits packed from bit 0 on. -/
def packNat (w : Nat) : List Nat → Nat
  | [] => 0
  | x :: r => x % 2 ^ w + (packNat w r) * 2 ^ w

/-- Patterns of w bits packed into n bytes. -/
def packBytes (w n : Nat) (xs : List Nat) : List Byte := leBytes n (packNat w xs)

/-- The values of n elements of a format, from a byte string. -/
def elemVals (c : Nat) (bs : List Byte) (n : Nat) : List Val :=
  (List.range n).map (fun i => decodeVal (codeFmt c) (elemBits bs (codeBits c) i))

/-- The FP32 pattern of an element of a narrow format: exact (R72). -/
def elemF32 (c x : Nat) : Word := if c = 0 then BitVec.ofNat 32 x else toF32 (decodeVal (codeFmt c) x)

/-! ### MX blocks (R69, R73) -/

/-- emax of an MX element format (R73). -/
def mxEmax : Nat → Int
  | 5 => 8
  | 6 => 15
  | 7 => 4
  | _ => 2

/-- The value of an MX element under its block scale (R69). -/
def mxVal (c x scale : Nat) : Val := vMul (decodeVal (codeFmt c) x) (scaleVal scale)

/-- The largest magnitude among values, as a non-negative value. -/
def vAmax : List Val → Val
  | [] => .fin false 0 0
  | .fin _ m e :: r => let a := vAmax r; if vLt a (.fin false m e) then .fin false m e else a
  | _ :: r => vAmax r

/-- A value that is a NaN or an infinity. -/
def Val.special : Val → Bool
  | .fin _ _ _ => false
  | _ => true

/-- Conversion of the values of one MX block (R73): scale, element patterns, flags. `rnd i` is the rounding of
the block's element i. -/
def mxConvert (c : Nat) (rnd : Nat → Rnd) (vs : List Val) : Nat × List Nat × NumFlags :=
  if vs.any Val.special then (255, vs.map (fun _ => 0), nfNan)
  else
    match vAmax vs with
    | .fin _ m e =>
      if m = 0 then (0, vs.map (fun _ => 0), 0)
      else
        let raw := vLog2 m e - mxEmax c
        let es := max (-127) (min 127 raw)
        let out := (List.range vs.length).map (fun i =>
          convert (codeFmt c) (rnd i) true (vMul (vs.getD i .nan) (.fin false 1 (-es))))
        ((es + 127).toNat, out.map (·.1),
          out.foldl (fun a x => a ||| x.2) (if raw = es then 0 else nfClamp))
    | _ => (255, vs.map (fun _ => 0), nfNan)

/-! ### The rounding generator (R78, R79) -/

/-- One round of the generator. -/
def genRound (k0 k1 : Word) (r : Nat) (x : Word × Word × Word × Word) : Word × Word × Word × Word :=
  let (x0, x1, x2, x3) := x
  let x0 := x0 + x1
  let x3 := (x3 ^^^ x0).rotateLeft 8
  let x2 := x2 + x3
  let x1 := (x1 ^^^ x2).rotateLeft 12
  let x1 := x1 + (if r % 2 = 0 then k0 else k1) + BitVec.ofNat 32 (r + 1)
  (x0, x1, x2, x3)

/-- The generator: ten rounds over the counter words. -/
def generator (c0 c1 c2 c3 k0 k1 : Word) : Word × Word × Word × Word :=
  (List.range 10).foldl (fun x r => genRound k0 k1 r x) (c0, c1, c2, c3)

/-- A rounding block (R79): KEY, STREAM, SALT. -/
structure RndBlock where
  key : DWord
  stream : Word
  salt : Word
  deriving DecidableEq, Repr

/-- The rounding block of two descriptor words. -/
def rndBlock (a b : DWord) : RndBlock := ⟨a, b.truncate 32, (b >>> 32).truncate 32⟩

/-- The 16-bit random value of the element at linear index n (R79). -/
def rand16 (b : RndBlock) (n : Nat) : Nat :=
  let (y0, y1, y2, y3) := generator (BitVec.ofNat 32 (n / 8)) (BitVec.ofNat 32 (n / 2 ^ 35)) b.salt b.stream
    (b.key.truncate 32) ((b.key >>> 32).truncate 32)
  let y := match n % 8 / 2 with
    | 0 => y0
    | 1 => y1
    | 2 => y2
    | _ => y3
  (y.toNat >>> (16 * (n % 2))) % 65536

/-- The rounding that a ROUND field (R75) selects for the element at linear index n. -/
def roundOf (rf : Nat) (b : RndBlock) (n : Nat) : Rnd := if rf % 4 = 1 then .sr (rand16 b n) else .rne

/-- SAT of a ROUND field. -/
def roundSat (rf : Nat) : Bool := rf / 4 % 2 == 1

/-- A ROUND field with a reserved RND (R75). -/
def roundBad (rf : Nat) : Bool := decide (2 ≤ rf % 4)

/-- A list cut into groups of n, in order. -/
def groupsOf {α : Type} (n : Nat) : Nat → List α → List (List α)
  | 0, _ => []
  | _ + 1, [] => []
  | k + 1, l => l.take n :: groupsOf n k (l.drop n)

end Sys2Proof.Machine
end

