-- ==== Sys2Proof/Machine/Ops.lean ====
section
/-! DEFINITION. Ops.lean: the named operations over State: units by number, counts and logs, memory with its checks,
translation, and the life of a descriptor from admission to its completion record. -/
namespace Sys2Proof.Machine

/-! ### Units by number -/

def State.ctx (s : State) (c : Nat) : Ctx := tget Ctx.reset s.ctxs c
def State.dom (s : State) (h : Nat) : Dom := tget Dom.reset s.doms h
def State.att (s : State) (i : Nat) : Attach := tget Attach.reset s.attaches i
def State.tile (s : State) (t : Nat) : Tile := tget Tile.reset s.tiles t
def State.stack (s : State) (n : Nat) : Stack := tget Stack.reset s.stks n
def State.dimm (s : State) (n : Nat) : Dimm := tget Dimm.reset s.dimms n
def State.model (s : State) (i : Nat) : ModelSlot := tget ModelSlot.reset s.models i

def State.modCtx (s : State) (c : Nat) (f : Ctx → Ctx) : State := { s with ctxs := tput s.ctxs c (f (s.ctx c)) }
def State.modDom (s : State) (h : Nat) (f : Dom → Dom) : State := { s with doms := tput s.doms h (f (s.dom h)) }
def State.modAtt (s : State) (i : Nat) (f : Attach → Attach) : State :=
  { s with attaches := tput s.attaches i (f (s.att i)) }
def State.modTile (s : State) (t : Nat) (f : Tile → Tile) : State := { s with tiles := tput s.tiles t (f (s.tile t)) }
def State.modStack (s : State) (n : Nat) (f : Stack → Stack) : State :=
  { s with stks := tput s.stks n (f (s.stack n)) }
def State.modDimm (s : State) (n : Nat) (f : Dimm → Dimm) : State := { s with dimms := tput s.dimms n (f (s.dimm n)) }
def State.modModel (s : State) (i : Nat) (f : ModelSlot → ModelSlot) : State :=
  { s with models := tput s.models i (f (s.model i)) }

def Ctx.ring (x : Ctx) (k : Nat) : Ring := tget Ring.reset x.rings k
def Ctx.modRing (x : Ctx) (k : Nat) (f : Ring → Ring) : Ctx := { x with rings := tput x.rings k (f (x.ring k)) }
def State.modRing (s : State) (c k : Nat) (f : Ring → Ring) : State := s.modCtx c (fun x => x.modRing k f)
def Ctx.win (x : Ctx) (w : Nat) : Window := tget Window.reset x.xl.windows w
def Ctx.modSched (x : Ctx) (f : CtxSched → CtxSched) : Ctx := { x with sched := f x.sched }
def Tile.core (t : Tile) (n : Nat) : Core := tget Core.reset t.cores n
def Tile.modCore (t : Tile) (n : Nat) (f : Core → Core) : Tile := { t with cores := tput t.cores n (f (t.core n)) }
def Ctx.seat (x : Ctx) (t q : Nat) : Seat := tget Seat.reset x.seats (t * 16 + q)
def State.modSeat (s : State) (c t q : Nat) (f : Seat → Seat) : State :=
  s.modCtx c (fun x => { x with seats := tput x.seats (t * 16 + q) (f (x.seat t q)) })

/-- The owning domain of a context. -/
def State.ctxDom (s : State) (c : Nat) : Nat := (s.ctx c).sched.domain.toNat

/-- The code of HST_CTX_STATE.STATE (R59). -/
def CtxState.code : CtxState → Nat
  | .empty => 0
  | .bound => 1
  | .run => 2
  | .paused => 3
  | .drain => 4
  | .dead => 5

/-- HST_CTX_STATE[7:0]: STATE and the phases (R59). -/
def Ctx.stateByte (x : Ctx) : Nat :=
  x.st.code + 8 * b2n x.update + 16 * b2n x.frozen + 32 * b2n x.cyclic

/-- What leaves the module is recorded in order. -/
def State.emit (s : State) (o : Out) : State := { s with outs := s.outs ++ [o] }
def State.emits (s : State) (os : List Out) : State := { s with outs := s.outs ++ os }

/-- A fresh free value has been used. -/
def State.tick (s : State) : State := { s with free := s.free + 1 }

/-! ### The part (R3, R4) -/

/-- Tiles fitted. -/
def Variant.tiles : Variant → Nat
  | .ms08 => 8
  | _ => 12
/-- Vexja ports present. -/
def Variant.ports : Variant → Nat
  | .ms08 => 8
  | _ => 12
/-- The Permafrost tier and the PCIe ports are present. -/
def Variant.full : Variant → Bool
  | .mf12 => true
  | _ => false
/-- The cyclic table is present. -/
def Variant.cyclic : Variant → Bool
  | .ms08 => false
  | _ => true

def State.variant (s : State) : Variant := s.blu.variant
/-- Stacks fitted. -/
def State.nStacks (s : State) : Nat := s.variant.tiles

/-! ### Logs -/

/-- The index of the next entry to be written. -/
def EvLog.ptr (l : EvLog) (size : Nat) : Nat := l.ord.toNat % size

/-- What a module error log entry says beside CLASS, SOURCE, UNIT, CORE and LOCATION (R458). -/
structure LogWho where
  ctx : Option Nat
  dom : Nat
  status : Nat
  seq : Nat
  ring : Nat
  deriving DecidableEq, Repr

/-- An entry that names no context. -/
def LogWho.none : LogWho := ⟨Option.none, 0, 0, 0, 0⟩

/-- A module error log entry (R458); the oldest entry is overwritten and WRAP is set when the log is full (R461). -/
def State.errLog (s : State) (cls source unit core : Nat) (loc : DWord) (who : LogWho) : State :=
  let full := decide (1024 ≤ s.err.log.entries.length)
  let w0 := at_ cls 0 ||| at_ source 4 ||| at_ unit 8 ||| at_ core 12
  let w2 := match who.ctx with
    | some c => at_ c 0 ||| at_ who.dom 10 ||| at_ 1 14 ||| at_ who.status 15 ||| at_ who.seq 23 ||| at_ who.ring 39
    | Option.none => at_ who.status 15
  let e := { s.err with
    log := s.err.log.add 1024 (fun o => [w0, loc, w2, at_ o.toNat 0])
    wrap := s.err.wrap || full
    wrapCnt := if full then satInc s.err.wrapCnt else s.err.wrapCnt }
  { s with err := e, pins := { s.pins with alert := true } }

/-- The index of the entry that the next error log write takes: LOG_INDEX (R452). -/
def State.logIndex (s : State) : Nat := s.err.log.ptr 1024

/-- A corrected error is logged for the first event of a unit and then once per 1,024 (R458). -/
def State.logCorrected (s : State) (source unit : Nat) (loc : DWord) : State :=
  let seen := tget 0 s.err.ceSeen (16 * source + unit)
  let s1 : State := { s with err := { s.err with ceSeen := tput s.err.ceSeen (16 * source + unit) ((seen + 1) % 1024) } }
  if seen = 0 then s1.errLog 1 source unit 0x1F loc LogWho.none else s1

/-! ### Why a descriptor stops -/

/-- A status and its RESULT (R58). -/
structure Stop where
  status : BitVec 8
  result : DWord
  deriving DecidableEq, Repr

/-- An action of a unit: it may stop with a status; what it did before it stopped stays (R58). -/
abbrev Act := EStateM Stop State

/-- RESULT of 0x10 BADDESC (R58): word, lowest bit of the field, check step. -/
def badDesc (word bit step : Nat) : Stop := ⟨0x10, at_ word 0 ||| at_ bit 4 ||| at_ step 10⟩
/-- RESULT of 0x10 for a refused record: bit [16] set (R128, R487). -/
def badRecord (word bit : Nat) : Stop := ⟨0x10, at_ word 0 ||| at_ bit 4 ||| at_ 9 10 ||| at_ 1 16⟩
/-- RESULT of 0x12 BADSTATE: the state byte and the object reason. -/
def badState (x : Ctx) (reason : Nat) : Stop := ⟨0x12, at_ x.stateByte 0 ||| at_ reason 16⟩
/-- RESULT of 0x14 ABSENT: the capability bit. -/
def absent (b : Nat) : Stop := ⟨0x14, at_ b 0⟩
/-- RESULT of 0x21 at check 10: 0. -/
def permCheck : Stop := ⟨0x21, 0⟩

/-- Checks in order: the first that fails decides (R49). -/
def firstFail : List (Bool × Stop) → Option Stop
  | [] => none
  | (bad, st) :: r => if bad then some st else firstFail r

/-- The action stops unless the condition holds. -/
def require (ok : Bool) (st : Stop) : Act Unit := if ok then pure () else throw st

/-- Checks in order, as an action. -/
def checks (l : List (Bool × Stop)) : Act Unit :=
  match firstFail l with
  | some st => throw st
  | none => pure ()

/-! ### The physical address map (R206, R207, R230, R426) -/

def gib : Nat := 0x40000000
def kib64 : Nat := 0x10000
def stackBase (n : Nat) : Nat := n * 0x2000000000
def mrdimmBase : Nat := 0x20000000000
def hostBase (h : Nat) : Nat := 0x800000000000 + h * 0x40000000000

/-- What a physical address is backed by. -/
inductive Backing where
  | stack (n : Nat)
  | dimm (ch : Nat)
  | model (slot off : Nat)
  | pmt
  | host (h : Nat)
  | none
  deriving DecidableEq, Repr

/-- The channel took part in the layout chosen at training: it is active, or failed in service since (R207, R217). -/
def Dimm.placed (k : Dimm) : Bool := k.state == 1 || k.state == 3

/-- Capacity of the interleaved MRDIMM layout in bytes. -/
def State.dimmTotal (s : State) : Nat :=
  ((List.range 16).map (fun n => if (s.dimm n).placed then (s.dimm n).cap.toNat * 4 * gib else 0)).sum

/-- The DIMM channel of a byte offset from the MRDIMM base, if it is backed (R207). -/
def State.dimmAt (s : State) (off : Nat) : Option Nat :=
  if s.boot.ilv then (if off < s.dimmTotal then some (off / 4096 % 16) else none)
  else
    let n := off / 0x4000000000
    if n < 16 ∧ (s.dimm n).placed ∧ off % 0x4000000000 < (s.dimm n).cap.toNat * 4 * gib then some n else none

/-- User capacity of the Permafrost tier: 14 TiB (R4, R234). -/
def pmtUser : Nat := 14 * 0x10000000000

/-- What backs a physical address. -/
def State.backing (s : State) (pa : Nat) : Backing :=
  if pa < 0x18000000000 then
    let n := pa / 0x2000000000
    if n < s.nStacks ∧ pa % 0x2000000000 < 72 * gib then .stack n else .none
  else if pa < mrdimmBase then .model ((pa - 0x18000000000) / 0x1000000000) ((pa - 0x18000000000) % 0x1000000000)
  else if pa < 0x60000000000 then
    match s.dimmAt (pa - mrdimmBase) with
    | some ch => .dimm ch
    | none => .none
  else if s.pmt.backed pa ∧ s.variant.full then .pmt
  else if 0x800000000000 ≤ pa ∧ pa < 0xC00000000000 then .host ((pa - 0x800000000000) / 0x40000000000)
  else .none

/-- A physical address lies in the memory of a tier: 0 stack, 1 MRDIMM, 2 Permafrost. -/
def State.ofTier (s : State) (t pa : Nat) : Bool :=
  match s.backing pa, t with
  | .stack _, 0 => true
  | .dimm _, 1 => true
  | .pmt, 2 => true
  | _, _ => false

/-- Bytes of the partition window of a domain. -/
def Dom.pwinBytes (d : Dom) : Nat := d.pwinGib.toNat * gib

/-- Where the bytes of a physical address are kept: the striped view lies on the stacks (R230), a host-die partition's
memory in its MRDIMM window (R20, R426). -/
def State.home (s : State) (pa : Nat) : Nat :=
  match s.backing pa with
  | .model slot off =>
    let n := s.nStacks
    let g := off / 0x200000
    stackBase (g % n) + (72 - (s.stack (g % n)).rsvGib.toNat - s.boot.stkGib.toNat) * gib
      + slot * (s.boot.stkGib.toNat * 0x8000000) + g / n * 0x200000 + off % 0x200000
  | .host h =>
    if (s.dom h).external then pa
    else mrdimmBase + (s.dom h).pwinBase.toNat * gib + (pa - hostBase h)
  | _ => pa

/-- The pieces of n bytes from x on, cut at multiples of `size`. -/
def cutAt (size x n : Nat) : List (Nat × Nat) :=
  if n = 0 then [] else (List.range ((x + n - 1) / size - x / size + 1)).map (fun i =>
    let a := max x ((x / size + i) * size)
    (a, min (x + n) ((x / size + i + 1) * size) - a))

/-- The attachment of a domain. -/
def State.attOf (s : State) (h : Nat) : Nat := (s.dom h).attach.toNat - 1

/-- The host address of a module physical address in a domain's range (R426). -/
def State.hostX (s : State) (h pa : Nat) : Nat :=
  pa - hostBase h + (if (s.dom h).external then (s.dom h).hbase.toNat * 4096 else 0)

/-- The requests of a read of n bytes of host memory: RdCurr of each line over CXL.cache (R420), memory reads of up to 4 KiB over PCIe (R423). -/
def State.hostReads (s : State) (h x n : Nat) : List Out :=
  let (a, i) := (s.attOf h, (s.dom h).index.toNat)
  if a < 2 then (linesAt x n).map (fun l => .host a i .rdCurr (l * 64) 64 [])
  else (cutAt 4096 x n).map (fun p => .host a i .memRd p.1 p.2 [])
where
  linesAt (x n : Nat) : List Nat := (cutAt 64 x n).map (fun p => p.1 / 64)

/-- The requests of a write to host memory: ItoMWr of a whole line, WrCur of part of one (R420); memory writes over PCIe, of up to 512 B
(R423). -/
def State.hostWrites (s : State) (h x : Nat) (bs : List Byte) : List Out :=
  let (a, i) := (s.attOf h, (s.dom h).index.toNat)
  (cutAt (if a < 2 then 64 else 512) x bs.length).map (fun p =>
    .host a i (if 2 ≤ a then .memWr else if p.2 = 64 then .itoMWr else .wrCur) p.1 p.2 ((bs.drop (p.1 - x)).take p.2))

/-- The 64 B lines that n bytes from pa on touch. -/
def linesOf (pa n : Nat) : List Nat :=
  if n = 0 then [] else (List.range ((pa + n - 1) / 64 - pa / 64 + 1)).map (fun i => pa / 64 + i)

/-- n bytes as they stand, by physical address. -/
def State.peek (s : State) (pa n : Nat) : List Byte := (List.range n).map (fun i => mget s.mem (s.home (pa + i)))

/-- Bytes stored by physical address, with no check. -/
def State.poke (s : State) (pa : Nat) : List Byte → State
  | [] => s
  | b :: r => State.poke { s with mem := mput s.mem (s.home pa) b } (pa + 1) r

/-! ### Guarded lines (R265) -/

def Ctx.range (x : Ctx) (r : Nat) : HailRange := tget HailRange.reset x.ranges r
def Ctx.group (x : Ctx) (g : Nat) : HailGroup := tget HailGroup.reset x.groups g

/-- Bytes per gradient of a range. -/
def HailRange.gBytes (r : HailRange) : Nat := if r.gFmt = 0 then 4 else 2

/-- The range's runs hold the physical byte a. -/
def HailRange.holds (r : HailRange) (a : Nat) : Bool :=
  r.valid && ((decide (r.wPa ≤ a) && decide (a < r.wPa + 2 * r.count))
    || (decide (r.gPa ≤ a) && decide (a < r.gPa + r.gBytes * r.count)))

/-- The guard lies on a physical byte: a valid range of a context in UPDATE holds it (R265). -/
def State.guarded (s : State) (pa : Nat) : Bool :=
  s.ctxs.any (fun e => e.2.update && e.2.ranges.any (fun r => r.2.holds pa))

/-- The guard lies on one of n physical bytes. Runs are whole 64 B lines (R264). -/
def State.guardedRange (s : State) (pa n : Nat) : Bool :=
  s.ctxs.any (fun e => e.2.update && e.2.ranges.any (fun r => r.2.valid &&
    ((decide (r.2.wPa < pa + n) && decide (pa < r.2.wPa + 2 * r.2.count))
      || (decide (r.2.gPa < pa + n) && decide (pa < r.2.gPa + r.2.gBytes * r.2.count)))))

/-- STK_HAIL_STAT counts a write refused at the stack controller (R265, R282). -/
def State.countGuard (s : State) (pa : Nat) : State :=
  match s.backing pa with
  | .stack n => s.modStack n (fun k => { k with guard := true, guardCnt := satInc k.guardCnt })
  | _ => s

/-! ### Uncorrectable storage (R214, R217, R451, R452) -/

/-- Who an access is made for: context, ring, index and sequence of a descriptor, or the module itself. -/
structure Who where
  ctx : Nat
  ring : Nat
  index : Word
  /-- The core that makes the access where it is not that of the ring's seat: 16 times its tile and its seat. -/
  core : Option Nat := none
  /-- The page that is read can be recomputed: a read of it that fails later ends no descriptor (R195, R243). -/
  again : Bool := false
  deriving DecidableEq, Repr

/-- SEQUENCE of a descriptor. -/
def Who.seq (w : Who) : Nat := w.index.toNat % 65536

/-- The log's words on a descriptor that met an error; an access that no descriptor makes (a ring number past 63) names none. -/
def State.logWho (s : State) (w : Who) (status : Nat) : LogWho :=
  if w.ring < 64 then ⟨some w.ctx, s.ctxDom w.ctx, status, w.seq, w.ring⟩ else LogWho.none

/-- RESULT of 0x31 (R452). -/
def memUncorr (source unit seat line logIdx : Nat) : Stop :=
  ⟨0x31, at_ source 0 ||| at_ unit 4 ||| at_ seat 8 ||| at_ (line % 2 ^ 42) 12 ||| at_ logIdx 54⟩

/-- A memory line that a descriptor cannot have: logged, counted, and 0x31 (R452, R458). -/
def failLine (w : Who) (line : Nat) : Act Unit := fun s =>
  let (source, unit, s) := match s.backing (line * 64) with
    | .stack n => (3, n, s.modStack n (fun k => { k with ue := true, ueCnt := satInc k.ueCnt }))
    | .dimm ch => (4, ch, s.modDimm ch (fun k => { k with ueCnt := satInc k.ueCnt }))
    | _ => (3, 0, s)
  let i := s.logIndex
  .error (memUncorr source unit 0 line i)
    (s.errLog 2 source unit 0x1F (BitVec.ofNat 64 (line * 64)) (s.logWho w 0x31))

/-- The line's stack is lost, or its DIMM channel has failed in service (R460, R217; the channel as a stack is: log entry 25). -/
def State.lineLost (s : State) (line : Nat) : Bool :=
  match s.backing (line * 64) with
  | .stack n => (s.stack n).lost
  | .dimm ch => (s.dimm ch).state == 3
  | _ => false

/-- A line cannot be read: it is uncorrectable, or its stack or channel is lost (R460, R217), or its Permafrost line is unreadable or out of
service (R234, R243). -/
def State.lineBad (s : State) (line : Nat) : Bool :=
  s.ueLines.contains line || s.lineLost line ||
  match s.backing (line * 64) with
  | .pmt =>
    let (n, ul) := s.pmt.place (line * 64)
    !s.frostServes n || ((s.pdev n).bad.any (fun e => e.1 == (s.pdev n).lineOf ul))
  | _ => false

/-- The lines of n bytes that are covered only in part. -/
def partLines (pa n : Nat) : List Nat :=
  (linesOf pa n).filter (fun l => decide (l * 64 < pa) || decide (pa + n < l * 64 + 64))

/-! #### Permafrost lines (R243, R244, R252) -/

/-- RESULT of 0x32 (R244). -/
def mediumUncorr (dev line tries cause : Nat) : Stop := ⟨0x32, at_ dev 0 ||| at_ line 3 ||| at_ tries 36 ||| at_ cause 39⟩

/-- The 256 B lines that n bytes at a touch, by number. -/
def frostLines (pa n : Nat) : List Nat :=
  if n = 0 then [] else (List.range ((pa + n - 1) / 256 - pa / 256 + 1)).map (fun i => pa / 256 + i)

/-- n bytes of a line are covered only in part. -/
def coversLine (pa n l : Nat) : Bool := decide (pa ≤ l * 256) && decide (l * 256 + 256 ≤ pa + n)

/-- A Permafrost line that a descriptor cannot have: logged, and 0x32 (R244, R449, R458). -/
def failFrost (w : Who) (n line ul tries cause : Nat) : Act Unit := fun s =>
  .error (mediumUncorr n line tries cause) (s.errLog 2 14 n 0x1F (BitVec.ofNat 64 (s.pmt.lineAddr n ul)) (s.logWho w 0x32))

/-- A line that an access needs: in service, and readable. -/
def frostCheck (w : Who) (l : Nat) : Act Unit := do
  let s ← get
  let (n, ul) := s.pmt.place (l * 256)
  let line := (s.pdev n).lineOf ul
  if s.frostServes n then
    match (s.pdev n).bad.find? (fun e => e.1 == line) with
    | some e => do
      set (s.frostUncorr n line e.2)
      failFrost w n line ul 4 e.2
    | none => pure ()
  else failFrost w n line ul 0 4

/-- A read request for a line; its number. -/
def frostRd (w : Who) (l : Nat) : Act Nat := do
  let s ← get
  let (n, ul) := s.pmt.place (l * 256)
  let id := s.pmt.nextReq
  set ((s.addReq n (fun i => ⟨i, false, none, ul, 0, 0, w.ctx, w.ring, w.index, [], none, none, none, false, w.again⟩)).pump n)
  pure id

/-- The write of a line: its request, which replaces unreadable contents, and, where the line is covered only in part, the read before it. -/
def frostWr (w : Who) (part : Bool) (l : Nat) (old : List Byte) : Act Unit := do
  let after_ ← if part then do let id ← frostRd w l; pure (some id) else pure none
  let s ← get
  let (n, ul) := s.pmt.place (l * 256)
  let line := (s.pdev n).lineOf ul
  let was := ((s.pdev n).bad.find? (fun e => e.1 == line)).map (·.2)
  let s1 := s.addReq n (fun i => ⟨i, true, none, ul, 0, 0, w.ctx, w.ring, w.index, old, after_, none, was, false, false⟩)
  set ((s1.modPdev n (fun d => { d with bad := tdel d.bad line })).pump n)

/-- A Permafrost read. -/
def frostRead (w : Who) (pa n : Nat) : Act Unit := do
  (frostLines pa n).forM (frostCheck w)
  (frostLines pa n).forM (fun l => do let _ ← frostRd w l; pure ())

/-- A Permafrost write: the checks of every line, the stores, the requests. -/
def frostWrite (w : Who) (pa : Nat) (bs : List Byte) : Act Unit := do
  let n := bs.length
  (frostLines pa n).forM (fun l => do
    let s ← get
    let (dev, ul) := s.pmt.place (l * 256)
    let line := (s.pdev dev).lineOf ul
    if !s.frostServes dev then failFrost w dev line ul 0 4
    else if (s.pdev dev).level = 3 then failFrost w dev line ul 0 5
    else if coversLine pa n l then pure ()
    else frostCheck w l)
  (frostLines pa n).forM (fun l => do
    let old ← get
    modify (fun s => s.poke (max pa (l * 256)) ((bs.drop (l * 256 - pa)).take (256 - (pa - l * 256))))
    frostWr w (!coversLine pa n l) l (old.peek (l * 256) 256))

/-! #### Accesses -/

/-- An access in a domain's range becomes requests to the domain's attachment (R426). -/
def State.hostAccess (s : State) (pa : Nat) (reqs : Nat → Nat → List Out) : State :=
  match s.backing pa with
  | .host h => s.emits (reqs h (s.hostX h pa))
  | _ => s

/-- n bytes read for a descriptor at a physical address. -/
def rdPa (w : Who) (pa n : Nat) : Act (List Byte) := do
  let s ← get
  if s.backing pa = .pmt then do
    frostRead w pa n
    pure (s.peek pa n)
  else
    match (linesOf pa n).find? (fun l => s.lineBad (s.home (l * 64) / 64)) with
    | some l => failLine w (s.home (l * 64) / 64); pure []
    | none => do
      set (s.hostAccess pa (fun h x => s.hostReads h x n))
      pure (s.peek pa n)

/-- Bytes written for a descriptor at a physical address: a line written in part is read first (R214, R244); a write of a whole
line replaces an uncorrectable one. -/
def wrPa (w : Who) (pa : Nat) (bs : List Byte) : Act Unit := do
  let s ← get
  if s.backing pa = .pmt then do
    frostWrite w pa bs
  else
    match (partLines pa bs.length).find? (fun l => s.lineBad (s.home (l * 64) / 64)) with
    | some l => failLine w (s.home (l * 64) / 64)
    | none =>
      match (linesOf pa bs.length).find? (fun l => s.lineLost (s.home (l * 64) / 64)) with
      | some l => failLine w (s.home (l * 64) / 64)
      | none =>
        let whole := (linesOf pa bs.length).map (fun l => s.home (l * 64) / 64)
        set ({ s.poke pa bs with ueLines := s.ueLines.filter (fun l => !whole.contains l) }.hostAccess pa (fun h x => s.hostWrites h x bs))

/-! ### Translation (R208 to R211) -/

/-- Why a translation fails: a fault of R210, with the level and the cause of HST_CTX_XFAULT_INFO, or a line of the table that the walker
cannot read (R214). -/
inductive XFail where
  | fault (perm : Bool) (level cause : Nat)
  | uncorr (line : Nat)
  deriving DecidableEq, Repr

/-- A window of the context grants n bytes at pa. -/
def Ctx.granted (x : Ctx) (pa n : Nat) (write : Bool) : Bool :=
  (List.range 16).any (fun i =>
    let w := x.win i
    decide (w.base ≤ pa) && decide (pa + n ≤ w.base + w.size) && (if write then w.w else w.r))

/-- The model window admits a read of n bytes of a slot (R385). -/
def State.modelReadable (s : State) (c slot off n : Nat) : Bool :=
  let m := s.model slot
  let x := s.ctx c
  x.sched.modelWin && decide (m.state = .resident) && decide (off + n ≤ m.bytes.toNat)
    && (decide (m.owner = x.sched.domain) || (m.share && (s.dom x.sched.domain.toNat).shareOk))

/-- Check 3 of R210 for bytes inside one page. -/
def State.windowOk (s : State) (c pa n : Nat) (write : Bool) : Bool :=
  match s.backing pa with
  | .model slot off => !write && s.modelReadable c slot off n
  | .none => false
  | _ => (s.ctx c).granted pa n write

/-- The walker may read a table entry here (R209). -/
def State.walkerMay (s : State) (c pa : Nat) : Bool :=
  match s.backing pa with
  | .stack _ => (s.ctx c).granted pa 8 false
  | .dimm _ => (s.ctx c).granted pa 8 false
  | _ => false

/-- The levels of the page table (R208): level, lowest index bit, entries, leaf size. -/
def ptLevels : List (Nat × Nat × Nat × Nat) :=
  [(3, 39, 512, 0), (2, 30, 512, 0x40000000), (1, 21, 512, 0x200000), (0, 16, 32, 0x10000)]

/-- A table entry that the walker reads in memory (R209, R214). -/
def State.tableWord (s : State) (c lv pa : Nat) : Except XFail DWord :=
  if !s.walkerMay c pa then .error (.fault false lv 7)
  else if s.lineBad (pa / 64) then .error (.uncorr (pa / 64))
  else .ok (BitVec.ofNat 64 (leNat (s.peek pa 8)))

/-- The read gives this very word: whether a cached copy of it is still held then makes no difference. -/
def readsAs (r : Except XFail DWord) (w : DWord) : Bool :=
  match r with
  | .ok v => v == w
  | .error _ => false

/-- The entry of a level that a walk of core u goes by: the walker's cached copy while it is held, else the word in memory (R209). -/
def State.tableEntry (s : State) (c u va lv sh pa : Nat) : Except XFail DWord :=
  match (s.ctx c).xl.ptrs.find? (fun p => p.tile == u / 16 && p.level == lv && p.prefix_ == va / 2 ^ sh) with
  | some p => if readsAs (s.tableWord c lv pa) p.word || Config.pointerKept s.free lv va then .ok p.word else s.tableWord c lv pa
  | none => s.tableWord c lv pa

/-- The walk from a node on (R208, R210): the translation and the pointer entries it goes by. -/
def State.walkFrom (s : State) (c u va : Nat) : List (Nat × Nat × Nat × Nat) → Nat → Except XFail (XEntry × List PEntry)
  | [], _ => .error (.fault false 0 2)
  | (lv, sh, n, leafSize) :: rest, node =>
    match s.tableEntry c u va lv sh (node + va / 2 ^ sh % n * 8) with
    | .error f => .error f
    | .ok e =>
      let next := fld e 12 36 * 4096
      let leaf := bit e 1
      if !bit e 0 then .error (.fault false lv 1)
      else if fld e 4 8 ≠ 0 ∨ fld e 48 16 ≠ 0 ∨ (bit e 3 ∧ ¬ bit e 2) ∨ (leaf ∧ lv = 3) ∨ (¬ leaf ∧ lv = 0) then
        .error (.fault false lv 2)
      else if leaf then
        if next % leafSize ≠ 0 then .error (.fault false lv 3)
        else .ok (⟨va / leafSize * leafSize, leafSize, next, bit e 2, bit e 3, u⟩, [])
      else
        match s.walkFrom c u va rest next with
        | .error f => .error f
        | .ok (x, ps) => .ok (x, ⟨u / 16, lv, va / 2 ^ sh, e⟩ :: ps)

/-- A walk of the context's table for core u. -/
def State.walk (s : State) (c u va : Nat) : Except XFail (XEntry × List PEntry) :=
  if va ≥ 2 ^ 48 then .error (.fault false 3 4)
  else s.walkFrom c u va ptLevels ((s.ctx c).xl.ptRoot.toNat * 4096)

/-- The walk gives this very entry: whether a cached copy of it is still held then makes no difference. -/
def walkGives (r : Except XFail (XEntry × List PEntry)) (e : XEntry) : Bool :=
  match r with
  | .ok f => f.1 == e
  | .error _ => false

/-- The translation in force for core u: one that it caches while it is held, else a walk (R209). -/
def State.xentry (s : State) (c u va : Nat) : Except XFail (XEntry × List PEntry) :=
  match (s.ctx c).xl.cache.find? (fun e => e.unit == u && decide (e.va ≤ va) && decide (va < e.va + e.size)) with
  | some e => if walkGives (s.walk c u va) e || Config.entryKept s.free va then .ok (e, []) else s.walk c u va
  | none => s.walk c u va

/-- The level of a translation's leaf: where its walk stopped (R208, R211). -/
def XEntry.level (e : XEntry) : Nat := if e.size = 0x40000000 then 2 else if e.size = 0x200000 then 1 else 0

/-- The three checks of R210 on n bytes inside one 64 KiB page: the physical address, or why not. -/
def State.xlate (s : State) (c u va n : Nat) (write : Bool) : Except XFail (Nat × XEntry × List PEntry) :=
  match s.xentry c u va with
  | .error f => .error f
  | .ok (e, ps) =>
    let pa := e.pa + (va - e.va)
    if (if write then !e.w else !e.r) then .error (.fault true e.level 5)
    else if !s.windowOk c pa n write then .error (.fault true e.level 6)
    else .ok (pa, e, ps)

/-- A walk's results enter the caches (R209): the translation that of its core, the pointers that of its walker, in place of what they
held for the same addresses. -/
def CtxXlate.learn (x : CtxXlate) (e : XEntry) (ps : List PEntry) : CtxXlate :=
  { x with
    cache := if x.cache.contains e then x.cache
      else x.cache.filter (fun o => !(o.unit == e.unit && decide (o.va < e.va + e.size) && decide (e.va < o.va + o.size))) ++ [e]
    ptrs := x.ptrs.filter (fun o => !ps.any (fun p => p.tile == o.tile && p.level == o.level && p.prefix_ == o.prefix_)) ++ ps }

/-- Bytes of address space that a pointer entry of a level covers. -/
def PEntry.span (p : PEntry) : Nat := if p.level = 3 then 2 ^ 39 else if p.level = 2 then 2 ^ 30 else 2 ^ 21

/-- Every cached translation and pointer that touches n bytes from va on leaves the caches; n = 0 names the whole space (R212). -/
def CtxXlate.forget (x : CtxXlate) (va n : Nat) : CtxXlate :=
  { x with
    cache := x.cache.filter (fun e => decide (n ≠ 0) && !(decide (va < e.va + e.size) && decide (e.va < va + n)))
    ptrs := x.ptrs.filter (fun p => decide (n ≠ 0) && !(decide (va < (p.prefix_ + 1) * p.span) && decide (p.prefix_ * p.span < va + n))) }

/-- The core that makes an access: the one it names, or that of the ring's seat; 192 for the page agent (R209, R370). -/
def State.unitOf (s : State) (w : Who) : Nat :=
  match w.core with
  | some u => u
  | none => if w.ring < 64 then ((s.ctx w.ctx).ring w.ring).tile.toNat * 16 + ((s.ctx w.ctx).ring w.ring).seat.toNat else 192

/-- The pieces of n bytes at va, cut at 64 KiB page boundaries. -/
def pagePieces : Nat → Nat → Nat → List (Nat × Nat)
  | 0, _, _ => []
  | f + 1, va, n =>
    if n = 0 then []
    else
      let k := min n (kib64 - va % kib64)
      (va, k) :: pagePieces f (va + k) (n - k)

def piecesOf (va n : Nat) : List (Nat × Nat) := pagePieces (n / kib64 + 2) va n

/-- Some Permafrost device beneath n bytes at a virtual address takes no user write now (R252). -/
def State.frostShutVa (s : State) (w : Who) (va n : Nat) : Bool :=
  (piecesOf va n).any (fun p =>
    match s.xlate w.ctx (s.unitOf w) p.1 p.2 true with
    | .ok (pa, _) => decide (s.backing pa = .pmt) && s.frostShut pa p.2
    | .error _ => false)

/-- The fault registers record a fault (R211). -/
def State.recordFault (s : State) (c : Nat) (va : DWord) (write : Bool) (level cause seq : Nat) : State :=
  s.modCtx c (fun x => { x with xl := { x.xl with
    faultVa := va, valid := true, write := write, level := BitVec.ofNat 2 level, cause := BitVec.ofNat 4 cause,
    seq := BitVec.ofNat 16 seq, faultCnt := satInc x.xl.faultCnt } })

/-- A descriptor's access faults: recorded, and 0x20 or 0x21 with the virtual address (R210, R211); or the walker met a line that it cannot
read (R214). -/
def faultAt (w : Who) (va : Nat) (write : Bool) : XFail → Act Unit
  | .fault perm level cause => fun s =>
    .error ⟨if perm then 0x21 else 0x20, BitVec.ofNat 64 va⟩
      (s.recordFault w.ctx (BitVec.ofNat 64 va) write level cause w.seq)
  | .uncorr line => failLine w line

/-- The first of n bytes at va that lies in an owned region of the context (R178). -/
def Ctx.ownedByte (x : Ctx) (va n : Nat) : Option Nat :=
  (x.spaces.find? (fun e => decide (e.2.geom ≠ 0) && decide (va < e.2.ownVa + e.2.ownSize) && decide (e.2.ownVa < va + n))).map
    (fun e => max va e.2.ownVa)

/-- The access is a descriptor's outside group 0x4, and not a JET_PASS whose receive fills a guest sequence (R335): it may not write an owned
region (R178). -/
def State.keptOut (s : State) (w : Who) : Bool :=
  match (s.ctx w.ctx).descs.find? (fun d => d.ring == w.ring && d.index == w.index) with
  | some d => fld (wrd d.words 0) 12 4 != 4 && fld (wrd d.words 0) 4 12 != 0x721
  | none => false

/-- Translate one piece; the translation is cached (R209). -/
def xlPiece (w : Who) (write : Bool) (p : Nat × Nat) : Act Nat := do
  let s ← get
  match s.xlate w.ctx (s.unitOf w) p.1 p.2 write with
  | .error f => faultAt w p.1 write f; pure 0
  | .ok (pa, e, ps) =>
    match (if write && s.keptOut w then (s.ctx w.ctx).ownedByte p.1 p.2 else none) with
    | some a => faultAt w a true (.fault true e.level 5)
    | none => pure ()
    set (s.modCtx w.ctx (fun x => { x with xl := x.xl.learn e ps }))
    pure pa

/-- Translate n bytes at va: the physical pieces. -/
def xlRange (w : Who) (va n : Nat) (write : Bool) : Act (List (Nat × Nat)) :=
  (piecesOf va n).mapM (fun p => do let pa ← xlPiece w write p; pure (pa, p.2))

/-- n bytes read at a context virtual address. -/
def rdVa (w : Who) (va n : Nat) : Act (List Byte) := do
  let ps ← xlRange w va n false
  let bs ← ps.mapM (fun p => rdPa w p.1 p.2)
  pure bs.flatten

/-- The access is made for one of the context's Hail opcodes, which the guard lets pass (R265). -/
def State.isHail (s : State) (w : Who) : Bool :=
  match (s.ctx w.ctx).descs.find? (fun d => d.ring == w.ring && d.index == w.index) with
  | some d => fld (wrd d.words 0) 12 4 == 6
  | none => false

/-- The range's runs lie under some context's guard but not under that of context c. -/
def State.guardedFor (s : State) (w : Who) (pa : Nat) : Bool :=
  s.ctxs.any (fun e => e.2.update && !(e.1 == w.ctx && s.isHail w) && e.2.ranges.any (fun r => r.2.holds pa))

/-- The offset of the first of n physical bytes that the guard keeps from the access. -/
def State.guardedByte (s : State) (w : Who) (pa n : Nat) : Option Nat :=
  if s.guardedRange pa n then (List.range n).find? (fun i => s.guardedFor w (pa + i)) else none

/-- A write that meets a guarded line is discarded at the stack controller (R265, third item); the walk stopped at the leaf (R211). -/
def guardPa (w : Who) (va : Nat) (p : Nat × Nat) : Act Unit := do
  let s ← get
  match s.guardedByte w (s.home p.1) p.2 with
  | some i => do
    set (s.countGuard (s.home p.1 + i))
    let lv := match s.xentry w.ctx (s.unitOf w) va with
      | .ok (e, _) => e.level
      | .error _ => 0
    faultAt w (va + i) true (.fault true lv 5)
  | none => pure ()

/-- Something on each piece in turn, at its virtual address. -/
def onPieces (f : Nat → Nat × Nat → Act Unit) (va : Nat) : List (Nat × Nat) → Act Unit
  | [] => pure ()
  | p :: r => do
    f va p
    onPieces f (va + p.2) r

/-- The pieces written one after another. -/
def wrPieces (w : Who) : List (Nat × Nat) → List Byte → Act Unit
  | [], _ => pure ()
  | p :: r, bs => do
    wrPa w p.1 (bs.take p.2)
    wrPieces w r (bs.drop p.2)

/-- Bytes written at a context virtual address: every page, and the guard on each, is judged before any byte is written. -/
def wrVa (w : Who) (va : Nat) (bs : List Byte) : Act Unit := do
  let ps ← xlRange w va bs.length true
  onPieces (guardPa w) va ps
  wrPieces w ps bs

/-! ### Scratchpads and pool windows (R201 to R205, R218) -/

def spBytes : Nat := 0x3000000
def workBase : Nat := 0x2000000

/-- A scratchpad byte as a reader meets it: after a counter-driven work tile the work area is unspecified (R203). -/
def Seat.byteAt (q : Seat) (a : Nat) : Byte :=
  if a < workBase ∨ q.workStamp = 0 then mget q.sp a else mget q.sp a ^^^ Config.workByte q.workStamp a

/-- Bytes stored in a scratchpad. -/
def Seat.store (q : Seat) (a : Nat) : List Byte → Seat
  | [] => q
  | b :: r =>
    let v := if a < workBase ∨ q.workStamp = 0 then b else b ^^^ Config.workByte q.workStamp a
    Seat.store { q with sp := mput q.sp a v } (a + 1) r

/-- Uncorrectable SRAM: logged, counted at the tile, and 0x31 (R451, R452). `line` is address [.. : 6]. -/
def failSram (w : Who) (source tile seat line : Nat) : Act Unit := fun s =>
  let s := s.modTile tile (fun t => { t with ue := true, ueCnt := satInc t.ueCnt })
  let i := s.logIndex
  .error (memUncorr source tile seat line i)
    (s.errLog 2 source tile 0x1F (BitVec.ofNat 64 (line * 64)) (s.logWho w 0x31))

/-- The 8 B words that n bytes at a touch. -/
def wordsOf (a n : Nat) : List Nat :=
  if n = 0 then [] else (List.range ((a + n - 1) / 8 - a / 8 + 1)).map (fun i => a / 8 + i)

/-- Those covered only in part. -/
def partWords (a n : Nat) : List Nat :=
  (wordsOf a n).filter (fun l => decide (l * 8 < a) || decide (a + n < l * 8 + 8))

/-- n bytes read from the scratchpad of a seat. -/
def rdSeat (w : Who) (t q a n : Nat) : Act (List Byte) := do
  let s ← get
  let st := (s.ctx w.ctx).seat t q
  match (wordsOf a n).find? st.bad.contains with
  | some i => failSram w 1 t q (i / 8); pure []
  | none => pure ((List.range n).map (fun i => st.byteAt (a + i)))

/-- Bytes written to the scratchpad of a seat. -/
def wrSeat (w : Who) (t q a : Nat) (bs : List Byte) : Act Unit := do
  let s ← get
  let st := (s.ctx w.ctx).seat t q
  match (partWords a bs.length).find? st.bad.contains with
  | some i => failSram w 1 t q (i / 8)
  | none =>
    let whole := wordsOf a bs.length
    set (s.modSeat w.ctx t q (fun k => { k.store a bs with bad := k.bad.filter (fun x => !whole.contains x) }))

/-- First pool byte of a context's window on a tile, and its bytes (R204, R205). -/
def Ctx.poolWindow (x : Ctx) (t : Nat) : Nat × Nat :=
  let f := tget (0, 0) x.xl.poolWin t
  (0xC000000 + f.1 * 0x100000, f.2 * 0x100000)

/-- n bytes read from a tile pool. -/
def rdPool (w : Who) (t a n : Nat) : Act (List Byte) := do
  let s ← get
  match (wordsOf a n).find? (s.tile t).poolBad.contains with
  | some i => failSram w 2 t 0 (i / 8); pure []
  | none => pure (mread (s.tile t).pool a n)

/-- Bytes written to a tile pool. -/
def wrPool (w : Who) (t a : Nat) (bs : List Byte) : Act Unit := do
  let s ← get
  match (partWords a bs.length).find? (s.tile t).poolBad.contains with
  | some i => failSram w 2 t 0 (i / 8)
  | none =>
    let whole := wordsOf a bs.length
    set (s.modTile t (fun k => { k with pool := mwrite k.pool a bs,
                                        poolBad := k.poolBad.filter (fun x => !whole.contains x) }))

/-! ### The commit queue (R108, R130) -/

/-- Entries in the order of their stamps. -/
def insertStamp {α : Type} (x : Nat × α) : List (Nat × α) → List (Nat × α)
  | [] => [x]
  | y :: r => if x.1 ≤ y.1 then x :: y :: r else y :: insertStamp x r

/-- The rows that a descriptor holds in the commit queue of a core. -/
def Prog.queued (p : Prog) (t q : Nat) : Option (Nat × List (Nat × List Byte)) :=
  match p with
  | .matmul t' q' st ps _ _ _ => if t' = t ∧ q' = q then some (st, (ps.map (·.writes)).flatten) else Option.none
  | _ => Option.none

/-- Every write in the commit queue of a core, in the order of issue. -/
def State.staged (s : State) (c t q : Nat) : List (Nat × List Byte) :=
  ((((s.ctx c).descs.filterMap (fun d => d.prog.queued t q)).foldr insertStamp []).map (·.2)).flatten

/-- The last write of a list that holds address a. -/
def lastWrite (a : Nat) : List (Nat × List Byte) → Option Byte
  | [] => none
  | (b, bs) :: r => (lastWrite a r).orElse (fun _ => if b ≤ a then bs[a - b]? else none)

/-- n bytes as a chain or a stream of a core reads them: with every write in the commit queue (R130). -/
def rdEng (w : Who) (t q a n : Nat) : Act (List Byte) := do
  let s ← get
  let bs ← rdSeat w t q a n
  match s.staged w.ctx t q with
  | [] => pure bs
  | ws => pure ((List.range n).map (fun i => (lastWrite (a + i) ws).getD (bs.getD i 0)))

/-- What is left of a write outside n bytes from a on. -/
def cutWrite (a n : Nat) (x : Nat × List Byte) : List (Nat × List Byte) :=
  if x.1 + x.2.length ≤ a ∨ a + n ≤ x.1 then [x]
  else [(x.1, x.2.take (a - x.1)), (a + n, x.2.drop (a + n - x.1))].filter (fun p => !p.2.isEmpty)

/-- A later write of the vector engine stands over what earlier descriptors still hold in the commit queue (R130). -/
def Prog.supersede (p : Prog) (t q a n : Nat) : Prog :=
  match p with
  | .matmul t' q' st ps cs r f =>
    if t' = t ∧ q' = q then
      .matmul t' q' st (ps.map (fun k => { k with writes := (k.writes.map (cutWrite a n)).flatten })) cs r f
    else p
  | _ => p

/-- Bytes written by a stream of a core. -/
def wrEng (w : Who) (t q a : Nat) (bs : List Byte) : Act Unit := do
  wrSeat w t q a bs
  modify (fun s => s.modCtx w.ctx (fun x =>
    { x with descs := x.descs.map (fun d => { d with prog := d.prog.supersede t q a bs.length }) }))

/-- The seat to which a ring is bound: tile and seat (R370). -/
def State.ringSeat (s : State) (c r : Nat) : Nat × Nat :=
  (((s.ctx c).ring r).tile.toNat, ((s.ctx c).ring r).seat.toNat)

/-- n bytes read at an operand address of a space (R218): 0 context virtual, 1 scratchpad, 2 pool window. -/
def rdSp (w : Who) (sp : Nat) (addr : Nat) (n : Nat) : Act (List Byte) := do
  let s ← get
  match sp with
  | 0 => rdVa w addr n
  | 1 => rdSeat w (s.ringSeat w.ctx w.ring).1 (s.ringSeat w.ctx w.ring).2 (addr % 2 ^ 26) n
  | _ =>
    let t := addr / 2 ^ 32 % 16
    rdPool w t (((s.ctx w.ctx).poolWindow t).1 + addr % 2 ^ 26) n

/-- Bytes written at an operand address of a space (R218). -/
def wrSp (w : Who) (sp : Nat) (addr : Nat) (bs : List Byte) : Act Unit := do
  let s ← get
  match sp with
  | 0 => wrVa w addr bs
  | 1 => wrSeat w (s.ringSeat w.ctx w.ring).1 (s.ringSeat w.ctx w.ring).2 (addr % 2 ^ 26) bs
  | _ =>
    let t := addr / 2 ^ 32 % 16
    wrPool w t (((s.ctx w.ctx).poolWindow t).1 + addr % 2 ^ 26) bs

/-! ### Descriptors -/

/-- What SEQUENCE must be: bits [15:0] of the index of the descriptor's first slot (R45). -/
def Desc.slotSeq (d : Desc) : Nat := d.index.toNat % 65536
def Desc.word (d : Desc) (i : Nat) : DWord := wrd d.words i
/-- SEQUENCE of the header (R45). -/
def Desc.seq (d : Desc) : Nat := fld (d.word 0) 48 16
def Desc.opcode (d : Desc) : Nat := fld (d.word 0) 4 12
def Desc.ext (d : Desc) : Bool := bit (d.word 0) 16
def Desc.irq (d : Desc) : Bool := bit (d.word 0) 17
def Desc.order (d : Desc) : Bool := bit (d.word 0) 18
def Desc.fenceClass (d : Desc) : Nat := fld (d.word 0) 24 8
/-- USER (R46). An extended descriptor that check 2 refuses at an odd slot took one slot and brought no word 15: its record carries 0 (log
entry 66). -/
def Desc.user (d : Desc) : DWord := if d.ext then d.word 15 else 0
def Desc.is (d : Desc) (r : Nat) (i : Word) : Bool := d.ring == r && d.index == i

/-- The descriptor as the maker of accesses. -/
def Desc.who (d : Desc) (c : Nat) : Who := { ctx := c, ring := d.ring, index := d.index }
/-- The same for a work tile or a pass that the core of seat q on tile t runs. -/
def Desc.whoAt (d : Desc) (c t q : Nat) : Who := { d.who c with core := some (t * 16 + q) }

def Ctx.findDesc (x : Ctx) (r : Nat) (i : Word) : Option Desc := x.descs.find? (fun d => d.is r i)

/-- The progress that a descriptor's unit keeps. -/
def State.progOf (s : State) (c r : Nat) (i : Word) : Prog :=
  match (s.ctx c).findDesc r i with
  | some d => d.prog
  | none => .none

/-- The descriptor that a reference names. -/
def State.desc (s : State) (d : DescRef) : Option Desc := (s.ctx d.ctx).findDesc d.ring d.index

/-! #### What is next on a ring, and the FREEZE that waits (R50 to R52, R61) -/

/-- Earlier descriptors of the same ring that have not completed. -/
def Ctx.earlier (x : Ctx) (d : Desc) : List Desc :=
  (x.descs.takeWhile (fun e => !e.is d.ring d.index)).filter (fun e => e.ring == d.ring)

/-- The fence class that R51 gives the descriptor; XLATE_INVAL behaves as 0xFF (R212). -/
def Desc.fence (d : Desc) : Nat := if d.opcode = 0x506 then 0xFF else d.fenceClass

/-- The fence condition of R51 and R52 is met. -/
def Ctx.fenceMet (x : Ctx) (d : Desc) : Bool :=
  if d.fence = 0xFF then (x.earlier d).isEmpty
  else if d.order then !(x.earlier d).any (fun e => e.fence == d.fenceClass)
  else true

/-- The descriptor is next to issue on its ring: every earlier one has issued (R50), and none of them holds the ring in a wait. -/
def Ctx.nextOnRing (x : Ctx) (d : Desc) : Bool :=
  decide (d.st = .waiting) && (x.earlier d).all (fun e => decide (e.st ≠ .waiting) && !e.prog.holdsRing)

/-- The descriptor changes a phase at its issue: FREEZE, THAW, PREPARE (R61). -/
def Desc.changesPhase (d : Desc) : Bool := d.opcode ∈ [0x002, 0x003, 0x600]

/-- The lowest ring's of some descriptors. -/
def lowestRing : List Desc → Option Desc
  | [] => none
  | d :: r =>
    match lowestRing r with
    | some e => if e.ring < d.ring then some e else some d
    | none => some d

/-- A FREEZE waits from the moment in which it is next to issue on its ring with its fence condition met, until it issues; the first to wait
is kept, of several that begin together the lowest ring's, with the phase changes of lower rings that are ready then (R61, log entry 67). -/
def Ctx.latchFreeze (x : Ctx) : Ctx :=
  let ready (d : Desc) : Bool := x.nextOnRing d && x.fenceMet d
  let waits (d : Desc) : Bool := d.opcode == 0x002 && ready d
  match x.freezing with
  | some (r, i, _) => if x.descs.any (fun d => d.is r i && waits d) then x else { x with freezing := fresh ready waits }
  | none => { x with freezing := fresh ready waits }
where
  fresh (ready waits : Desc → Bool) : Option (Nat × Word × List (Nat × Word)) :=
    (lowestRing (x.descs.filter waits)).map (fun d =>
      (d.ring, d.index, (x.descs.filter (fun e => e.changesPhase && ready e && decide (e.ring < d.ring))).map (fun e => (e.ring, e.index))))

/-- One descriptor of a context changes. -/
def State.modDesc (s : State) (c r : Nat) (i : Word) (f : Desc → Desc) : State :=
  s.modCtx c (fun x => { x with descs := x.descs.map (fun d => if d.is r i then f d else d) })

/-- A status of checks 9 to 12 (R49): the descriptor is refused and has not issued (R57, R60). A COMMIT of a group without ranges ends with
0x01 and has done its work (R274). -/
def Stop.refuses (st : Stop) (op : Nat) : Bool :=
  decide (st.status.toNat ∈ [0x10, 0x12, 0x13, 0x14]) || decide (st = permCheck) || (st.status == 1 && op != 0x601)

/-- The descriptor is finished by its unit with a status; its record is still to be written. -/
def State.finish (s : State) (c r : Nat) (i : Word) (st : Stop) : State :=
  (s.modDesc c r i (fun d => { d with
    st := .done, status := st.status, result := st.result, prog := d.prog.kept, issued := d.issued && !st.refuses d.opcode })).modCtx c Ctx.latchFreeze

/-- The unit keeps a descriptor's progress. -/
def State.setProg (s : State) (c r : Nat) (i : Word) (p : Prog) : State :=
  s.modDesc c r i (fun d => { d with prog := p })

end Sys2Proof.Machine
end

