-- ==== Sys2Proof/Machine/Operands.lean ====
section
/-! DEFINITION. Operands.lean: the opcode map, the checks of a descriptor that every opcode shares (R47 to R49, R60, R468),
and the run-time dimensions that plans and bound sources give (R140 to R148, R489). -/
namespace Sys2Proof.Machine

/-- The assigned opcodes and whether each is extended (R47 and the opcode tables of the chapters). -/
def opForm (op : Nat) : Option Bool :=
  if op ∈ [0x000, 0x001, 0x002, 0x003, 0x201, 0x300, 0x301, 0x302, 0x400, 0x401, 0x404, 0x405, 0x406, 0x500, 0x501,
      0x505, 0x506, 0x510, 0x511, 0x512, 0x600, 0x601, 0x602, 0x603, 0x604, 0x605, 0x700, 0x701, 0x702, 0x711, 0x720,
      0x800, 0x801, 0x802, 0x803, 0x804, 0x805, 0x806, 0x900, 0xA00, 0xA01, 0xA02, 0xA03, 0xF00] then some false
  else if op ∈ [0x100, 0x200, 0x303, 0x402, 0x403, 0x407, 0x502, 0x503, 0x504, 0x710, 0x712, 0x721, 0x722] then some true
  else none

/-- A bit of MOD_CAP (R468). -/
def State.capBit (s : State) (b : Nat) : Bool := s.boot.cap.getLsbD b

/-- The tiles that a TILE_MASK names and the module does not have in service: the lowest one's capability bit. -/
def State.absentTile (s : State) (mask : Nat) : Option Nat :=
  ((List.range 12).find? (fun t => mask.testBit t && !s.capBit (20 + t))).map (fun t => 20 + t)

/-- A tile number that is not fitted or not in service. -/
def State.absentTileNo (s : State) (t : Nat) : Option Nat := if s.capBit (20 + t) ∧ t < 12 then none else some (20 + t)

/-- A front identifier's TILE (R342, R351). -/
def State.absentFront (s : State) (front : Nat) : Option Nat := s.absentTileNo (front / 0x1000 % 16)

/-- An operand in space 2 names its tile in bits 35:32 of its address (R4, R218); a tile number that no module has is left to check 9. -/
def State.absentWindow (s : State) (sp : Nat) (a : DWord) : Option Nat :=
  if sp = 2 ∧ fld a 32 4 < 12 then s.absentTileNo (fld a 32 4) else none

/-- Check 8 of R49: the capability bit of a unit that the opcode names and the module lacks (R468). -/
def State.unitAbsent (s : State) (d : Desc) : Option Nat :=
  let op := d.opcode
  if op ∈ [0x510, 0x511, 0x512] then (if s.capBit 0 then none else some 0)
  else if op = 0xF00 then (if s.capBit 4 then none else some 4)
  else if op = 0x302 then s.absentTileNo (fld (d.word 1) 0 4)
  else if op = 0x303 then s.absentTile (fld (d.word 10) 0 12)
  else if op = 0x407 ∨ op = 0x722 then s.absentTile (fld (d.word 9) 0 12)
  else if op = 0x710 then s.absentTile (fld (d.word 7) 0 12)
  else if op = 0x500 then (s.absentWindow (fld (d.word 3) 0 2) (d.word 1)).orElse (fun _ => s.absentWindow (fld (d.word 3) 2 2) (d.word 2))
  else if op = 0x502 ∨ op = 0x503 then s.absentWindow (fld (d.word 2) 0 2) (d.word 1)
  else if op = 0x504 then s.absentWindow (fld (d.word 3) 0 2) (d.word 1)
  else if op = 0x700 then s.absentWindow (fld (d.word 3) 28 2) (d.word 1)
  else if op = 0x505 then s.absentTile (fld (d.word 2) 32 12)
  else if op = 0x600 then (if fld (d.word 2) 0 32 = 0xFFFFFFFF then none else s.absentFront (fld (d.word 2) 0 32))
  else if op = 0x800 then s.absentTileNo (fld (d.word 2) 0 4)
  else if op ∈ [0x801, 0x802, 0x804, 0x805] then s.absentFront (fld (d.word 1) 0 32)
  else if op = 0x803 then s.absentFront (fld (d.word 2) 0 32)
  else if op = 0x806 then (s.absentFront (fld (d.word 2) 0 32)).orElse (fun _ => s.absentFront (fld (d.word 1) 0 32))
  else if op = 0x900 then s.absentTile (fld (d.word 1) 0 12)
  else none

/-- Check 9 on a reserved field: `lo` of the field in `word`, n bits wide, must be 0 (R11). -/
def rsv (d : Desc) (word lo n : Nat) : Bool × Stop := (decide (fld (d.word word) lo n ≠ 0), badDesc word lo 9)

/-- Whole words that must be 0. -/
def rsvWords (d : Desc) (ws : List Nat) : List (Bool × Stop) := ws.map (fun w => rsv d w 0 64)

/-- The conditions of R60 that concern phases alone: true refuses the descriptor with 0x12. -/
def Ctx.phaseBad (x : Ctx) (op : Nat) : Bool :=
  let g := op / 256
  if op = 0x002 then x.update || x.frozen
  else if op = 0x003 then !x.frozen
  else if g = 1 ∨ g = 2 ∨ g = 3 ∨ g = 4 then x.frozen
  else if op = 0x504 ∨ op = 0x505 then x.frozen
  else if op = 0x600 then x.update || x.frozen
  else if op = 0x601 ∨ op = 0x602 then !x.update
  else if op = 0x710 ∨ op = 0x712 ∨ op = 0x722 then x.frozen
  else if g = 10 then x.frozen || x.cyclic
  else false

/-- A footprint of n bytes from base on extends beyond the scratchpad. -/
def beyondSp (base n : Nat) : Bool := decide (0 < n) && decide (spBytes < base + n)

/-- Check 11's phase part. -/
def phaseCheck (x : Ctx) (op : Nat) : Bool × Stop := (x.phaseBad op, badState x 0)

/-! ### Plans (R140 to R148, R489) -/

/-- A plan record in force: its eight words. -/
structure Plan where
  words : List DWord
  deriving DecidableEq, Repr

def Plan.kind (p : Plan) : Nat := fld (wrd p.words 0) 0 4
def Plan.bsel (p : Plan) (i : Nat) : Bool := bit (wrd p.words 0) (4 + i)
def Plan.bsrc (p : Plan) : Nat := fld (wrd p.words 0) 8 2
def Plan.bslot (p : Plan) : Nat := fld (wrd p.words 0) 16 6
def Plan.max (p : Plan) (i : Nat) : Nat :=
  match i with
  | 0 => fld (wrd p.words 1) 0 24
  | 1 => fld (wrd p.words 1) 32 24
  | _ => fld (wrd p.words 2) 0 24
def Plan.baddr (p : Plan) : Nat := (wrd p.words 3).toNat

def Ctx.plan (x : Ctx) (i : Nat) : Option Plan := (x.plans.find? (fun e => e.1 == i)).map (fun e => ⟨e.2⟩)

/-- How a descriptor names its dimensions: the plan index, BOUND_SRC, the KIND that its opcode takes, and its immediates. -/
structure PlanUse where
  plan : Nat
  bound : Bool
  kind : Nat
  imm : List Nat
  deriving DecidableEq, Repr

/-- BOUND_SRC = 1 with PLAN = 0xFFF (R148). -/
def PlanUse.unnamed (u : PlanUse) : Bool := u.bound && decide (u.plan = 0xFFF)

/-- The dimensions that check 9 judges (R489): the plan's maxima with BOUND_SRC = 1, else the immediates; none when the
named plan is empty or of the wrong KIND. -/
def Ctx.judged (x : Ctx) (u : PlanUse) : Option (List Nat) :=
  if u.bound then
    match x.plan u.plan with
    | some p => if p.kind = u.kind then some ((List.range u.imm.length).map p.max) else none
    | none => none
  else some u.imm

/-- The plan checks of check 11 (R148). -/
def Ctx.planCheck (x : Ctx) (u : PlanUse) : List (Bool × Stop) :=
  if u.plan = 0xFFF then []
  else
    match x.plan u.plan with
    | none => [(true, badState x 0x0301)]
    | some p => [(decide (p.kind ≠ u.kind) || (decide (u.kind = 3) && decide (p.bsrc = 2)), badState x 0x0302)]

/-- The bound word of a plan (R144, R146): one read of three dimensions. -/
def boundRead (w : Who) (p : Plan) : Act (List Nat) := do
  let s ← get
  match p.bsrc with
  | 0 =>
    let b := tget (0, 0, 0) (s.ctx w.ctx).bounds p.bslot
    pure [b.1.toNat, b.2.1.toNat, b.2.2.toNat]
  | 1 => do
    let bs ← rdVa w p.baddr 16
    pure [leNat (bs.take 4), leNat ((bs.drop 4).take 4), leNat ((bs.drop 8).take 4)]
  | _ => do
    let q := s.ringSeat w.ctx w.ring
    let bs ← rdEng w q.1 q.2 (p.baddr % 2 ^ 26) 16
    pure [leNat (bs.take 4), leNat ((bs.drop 4).take 4), leNat ((bs.drop 8).take 4)]

/-- RESULT of 0x13 SHAPE_OVER (R147). -/
def shapeOver (dim src plan value : Nat) : Stop :=
  ⟨0x13, at_ dim 0 ||| at_ src 2 ||| at_ plan 4 ||| at_ (value % 2 ^ 32) 16⟩

/-- The plan that a descriptor names. -/
def Ctx.planOf (x : Ctx) (u : PlanUse) : Option Plan := if u.plan = 0xFFF then none else x.plan u.plan

/-- The run-time dimensions as BSEL takes them (R146, R147), each with the SRC that RESULT would name for it; `pd` gives the plan's dimension
that stands for each. -/
def takeDims (pd : Nat → Option Nat) (w : Who) (u : PlanUse) : Act (List (Nat × Nat)) := do
  let s ← get
  match (s.ctx w.ctx).planOf u with
  | none => pure (u.imm.map (fun v => (v, 0)))
  | some p => do
    let src ← if u.bound then boundRead w p else pure []
    pure ((List.range u.imm.length).map (fun i =>
      match pd i with
      | some m => if u.bound && p.bsel m then (src.getD m 0, p.bsrc + 1) else (u.imm.getD i 0, 0)
      | none => (u.imm.getD i 0, 0)))

/-- Check 12 (R147) on dimensions that were taken, in the order of the plan's dimensions; `none` when one of them is 0 (0x01 OK_NOOP). -/
def judgeDims (pd : Nat → Option Nat) (w : Who) (u : PlanUse) (ds : List (Nat × Nat)) : Act (Option (List Nat)) := do
  let s ← get
  if ds.any (·.1 == 0) then pure none
  else
    match (s.ctx w.ctx).planOf u with
    | none => pure (some (ds.map (·.1)))
    | some p =>
      let named := (List.range 3).filterMap (fun m => ((List.range ds.length).find? (fun i => pd i == some m)).map (fun i => (i, m)))
      match named.find? (fun e => decide (p.max e.2 < (ds.getD e.1 (0, 0)).1)) with
      | some (i, m) => throw (shapeOver m (ds.getD i (0, 0)).2 u.plan (ds.getD i (0, 0)).1)
      | none => pure (some (ds.map (·.1)))

/-- Check 12 of an opcode whose dimensions are its plan's, in order. -/
def runDims (w : Who) (u : PlanUse) : Act (Option (List Nat)) := do
  let ds ← takeDims some w u
  judgeDims some w u ds

end Sys2Proof.Machine
end

