-- ==== Sys2Proof/Machine/Issue.lean ====
section
/-! DEFINITION. Issue.lean: which admitted descriptor issues (R50 to R53, R61), and what an issue does around the opcode's own
meaning. -/
namespace Sys2Proof.Machine

/-- Another descriptor of the context has issued and has not completed. -/
def Ctx.othersExecute (x : Ctx) (d : Desc) : Bool := x.descs.any (fun e => e.issued && !e.is d.ring d.index)

/-- A waiting FREEZE keeps this descriptor from issuing, on any ring; phase changes of lower rings that became ready with the FREEZE still
go first (R61). -/
def Ctx.freezeBlocks (x : Ctx) (d : Desc) : Bool :=
  match x.freezing with
  | some (r, i, first) => !d.is r i && !first.contains (d.ring, d.index)
  | none => false

/-- The plan that a descriptor names, 0xFFF for none. -/
def Desc.planName (d : Desc) : Nat :=
  match d.opcode with
  | 0x100 => fld (d.word 3) 40 12
  | 0x200 => fld (d.word 6) 14 12
  | 0x500 => fld (d.word 3) 16 12
  | 0x504 => fld (d.word 3) 14 12
  | 0x303 => fld (d.word 8) 48 12
  | 0x300 => fld (d.word 2) 0 12
  | _ => 0xFFF

/-- The chain slot that a descriptor names (R96, R123, R128). -/
def Desc.chainName (d : Desc) : Option Nat :=
  match d.opcode with
  | 0x100 => if bit (d.word 4) 25 then some (fld (d.word 4) 48 8) else none
  | 0x200 => if bit (d.word 6) 8 then some (fld (d.word 6) 0 8) else none
  | 0x201 => some (fld (d.word 2) 0 6)
  | _ => none

/-- The word that holds TILE_MASK, CORES, SHARED and WC_NUM (R154, R167, R313, R336). -/
def Desc.jobWord (d : Desc) : DWord :=
  match d.opcode with
  | 0x303 => d.word 10
  | 0x710 => d.word 7
  | _ => d.word 9
def Desc.jobMask (d : Desc) : Nat := fld d.jobWord 0 12
def Desc.jobCores (d : Desc) : Nat := fld d.jobWord 12 5
def Desc.jobShared (d : Desc) : Bool := bit d.jobWord 17
def Desc.jobWc (d : Desc) : Nat := fld d.jobWord 18 12

/-- An issued descriptor of an opcode that has not completed. -/
def Ctx.inFlight (x : Ctx) (d : Desc) (p : Desc → Bool) : Bool :=
  x.descs.any (fun e => e.issued && !e.is d.ring d.index && p e)

/-- The chain record that the descriptor latches is not in its core's cache (R127): a fetch from the home I/O die comes first. -/
def State.chainMiss (s : State) (c : Nat) (d : Desc) : Bool :=
  match d.chainName with
  | some k =>
    let q := s.ringSeat c d.ring
    d.opcode != 0x201 && decide (k < 64) && !((s.ctx c).seat q.1 q.2).chainCache.contains k
  | none => false

/-- The context's cores on a tile have recompute work tiles to take, before any other work tile or descriptor (R194). -/
def Ctx.recomputes (x : Ctx) (t : Nat) : Bool := x.spaces.any (fun e => e.2.recomps.any (fun g => g.tile == t))

/-- The core of the descriptor's seat runs a counter-driven work tile, or recomputes: its array and vector engine are not free (R50, R194,
R203). -/
def State.coreBusy (s : State) (c : Nat) (d : Desc) : Bool :=
  let q := s.ringSeat c d.ring
  (decide (d.opcode ∈ [0x100, 0x200]) && ((s.ctx c).seat q.1 q.2).work.isSome)
    || (decide (d.opcode ∈ [0x100, 0x200, 0x402]) && (s.ctx c).recomputes q.1)

/-- The space that a descriptor of group 0x4 names. -/
def Desc.kvSpace (d : Desc) : Nat :=
  match d.opcode with
  | 0x402 => fld (d.word 3) 16 3
  | 0x403 => fld (d.word 3) 16 3
  | 0x404 => fld (d.word 1) 32 3
  | 0x405 => fld (d.word 1) 16 3
  | 0x406 => fld (d.word 1) 16 3
  | 0x407 => fld (d.word 4) 16 3
  | _ => fld (d.word 2) 0 3

/-- The sequence that an append, a scatter, an ATTN, a free or a prefetch names. -/
def Desc.kvSeq (d : Desc) : Nat :=
  match d.opcode with
  | 0x401 => fld (d.word 2) 3 16
  | 0x402 => fld (d.word 3) 0 16
  | 0x403 => fld (d.word 3) 0 16
  | 0x407 => fld (d.word 4) 0 16
  | _ => fld (d.word 1) 0 16

/-- The sequences whose map or lengths a descriptor of group 0x4 changes (R184), or a JET_PASS that receives (R335). -/
def Desc.kvChanges (d : Desc) : List (Nat × Nat) :=
  if d.opcode = 0x404 then [(d.kvSpace, fld (d.word 1) 0 16), (d.kvSpace, fld (d.word 1) 16 16)]
  else if d.opcode ∈ [0x401, 0x402, 0x403, 0x405] then [(d.kvSpace, d.kvSeq)]
  else if d.opcode = 0x721 ∧ bit (d.word 1) 3 then [(fld (d.word 4) 0 3, fld (d.word 4) 3 16)]
  else []

/-- A free or a redefinition touches the layer that an ATTN of the same sequence reads (R184). -/
def Desc.kvTouches (d e : Desc) : Bool :=
  let l := fld (e.word 4) 32 16
  decide (e.opcode = 0x407) && decide (e.kvSpace = d.kvSpace) && decide (e.kvSeq = d.kvSeq)
    && (decide (d.opcode = 0x401) || (decide (d.opcode = 0x405) && decide (fld (d.word 1) 32 16 ≤ l)
          && decide (l < fld (d.word 1) 32 16 + fld (d.word 1) 48 16)))

/-- R184 holds the descriptor back. -/
def Ctx.kvWait (x : Ctx) (d : Desc) : Bool :=
  x.inFlight d (fun e => d.kvChanges.any e.kvChanges.contains || d.kvTouches e)

/-- The group of a range, if it is set. -/
def Ctx.oldGroup (x : Ctx) (k : Nat) : List Nat := if (x.range k).valid then [(x.range k).group] else []

/-- The shard groups that an opcode of group 0x6 names; a HAIL_RANGE_SET names its range's old group and its record's, once it has
fetched the record (R270). -/
def Ctx.hailGroups (x : Ctx) (d : Desc) : List Nat :=
  match d.opcode with
  | 0x600 => [fld (d.word 1) 0 3]
  | 0x601 => [fld (d.word 1) 0 3]
  | 0x602 => [fld (d.word 1) 0 3]
  | 0x603 => [fld (d.word 2) 0 3]
  | 0x605 => [fld (d.word 2) 0 3]
  | 0x604 =>
    match d.prog with
    | .hailSet ws old => fld (wrd ws 0) 1 3 :: (if d.st = .executing then x.oldGroup (fld (d.word 2) 0 6) else old)
    | _ => []
  | _ => []

/-- An opcode of group 0x6 waits for another that names its group (R270). -/
def Ctx.hailWait (x : Ctx) (d : Desc) : Bool :=
  x.inFlight d (fun e => (x.hailGroups d).any (x.hailGroups e).contains)

/-- The reduction slot or ring slot that a descriptor of group 0x7 names. -/
def Desc.slotName (d : Desc) : Option (Bool × Nat) :=
  match d.opcode with
  | 0x711 => some (true, fld (d.word 2) 0 3)
  | 0x712 => some (true, fld (d.word 1) 0 3)
  | 0x720 => some (false, fld (d.word 2) 0 2)
  | 0x721 => some (false, fld (d.word 1) 0 2)
  | _ => none

/-- RED_SET and RED_RUN wait for a RED_RUN of their slot (R316, R323), JET_RING_SET for a JET_PASS of its slot (R332); so does a second
JET_PASS (log entry 16). -/
def Ctx.slotWait (x : Ctx) (d : Desc) : Bool :=
  d.slotName.isSome && x.inFlight d (fun e => decide (e.opcode = 0x712 ∨ e.opcode = 0x721) && e.slotName == d.slotName)

/-- The front that a descriptor arrives at or waits for (R271, R351, R357). -/
def Desc.frontName (d : Desc) : Option Nat :=
  match d.opcode with
  | 0x801 => some (fld (d.word 1) 0 32)
  | 0x802 => some (fld (d.word 1) 0 32)
  | 0x806 => some (fld (d.word 2) 0 32)
  | 0x600 => if fld (d.word 2) 0 32 = 0xFFFFFFFF then none else some (fld (d.word 2) 0 32)
  | _ => none

/-- An earlier arrival of the ring at the front is held (R350), though its descriptor may have been withdrawn. -/
def State.heldWait (s : State) (c : Nat) (d : Desc) : Bool :=
  match d.frontName with
  | some f =>
    let k := s.tile (f / 0x1000 % 16)
    let e := tget FrontEntry.reset k.fronts (f % 0x1000)
    e.valid && decide (e.owner = c) && k.holdQ.any (fun h => decide (h.entry = f % 0x1000) &&
      (match e.parts[h.part]? with
        | some p => !p.remote && p.ring == d.ring
        | none => false))
  | none => false

/-- A descriptor of group 0x5, those of the Permafrost tier among them (R218). -/
def Desc.isDma (d : Desc) : Bool := decide (d.opcode / 256 = 5)

/-- A descriptor of the DMA group finds four running on the engine of its core, or one issued before it that waits to start there (R219). -/
def State.engineWait (s : State) (c : Nat) (d : Desc) : Bool :=
  let same (e : Desc) : Bool := !e.is d.ring d.index && s.ringSeat c e.ring == s.ringSeat c d.ring
  let runs (e : Desc) : Bool := e.isDma && same e && decide (e.st = .executing)
  let waits (e : Desc) : Bool := match e.prog with
    | .memWait _ => same e && decide (e.st = .waiting)
    | _ => false
  d.isDma && (decide (4 ≤ ((s.ctx c).descs.filter runs).length) || (s.ctx c).descs.any waits)

/-- The descriptor waits for another that uses the same object (R128, R143, R184, R270, R316, R323, R332, R350). -/
def State.objectWait (s : State) (c : Nat) (d : Desc) : Bool :=
  let x := s.ctx c
  (d.planName != 0xFFF && x.inFlight d (fun e => e.opcode == 0x300 && e.planName == d.planName))
  || (d.chainName.isSome && x.inFlight d (fun e => e.opcode == 0x201 && e.chainName == d.chainName))
  || s.chainMiss c d || s.coreBusy c d || x.kvWait d || x.hailWait d || x.slotWait d || s.heldWait c d || s.engineWait c d
  || (d.opcode == 0x506 && x.othersExecute d)
  || (d.opcode == 0x002 && x.othersExecute d)

/-- The context runs or drains, and its descriptors are at their units: it is placed, and not being saved or restored (R379, R387). -/
def Ctx.atUnits (x : Ctx) : Bool :=
  (decide (x.st = .run) || decide (x.st = .drain)) && x.sched.placed && !x.sched.saving && !x.sched.restoring

/-- The descriptor can issue now (R50 to R52, R59, R61, R369): descriptors issue while the context runs or drains. -/
def State.ready (s : State) (c : Nat) (d : Desc) : Bool :=
  let x := s.ctx c
  x.atUnits && x.nextOnRing d && x.fenceMet d && !x.freezeBlocks d && !s.objectWait c d

/-- Distance of a ring from the one served last, round-robin in ring number order. -/
def rrDist (last r : Nat) : Nat := (r + 64 - (last + 1) % 64) % 64

/-- Ring a is served before ring b (R53): higher PRIORITY, then round-robin. -/
def Ctx.servedBefore (x : Ctx) (a b : Nat) : Bool :=
  decide ((x.ring b).priority.toNat < (x.ring a).priority.toNat)
  || ((x.ring a).priority == (x.ring b).priority
    && (let last := tget 0 x.lastServed (x.ring a).priority.toNat
        decide (rrDist last a < rrDist last b)))

/-- No ready descriptor of another ring is served before this one (R53). -/
def State.servedFirst (s : State) (c : Nat) (d : Desc) : Bool :=
  !(s.ctx c).descs.any (fun e => s.ready c e && (s.ctx c).servedBefore e.ring d.ring)

/-- The dispatcher serves this descriptor next (R53). Where it serves a phase change and several are ready, the lowest-numbered ring's is
applied first (R61). -/
def State.mayIssue (s : State) (c : Nat) (d : Desc) : Bool :=
  let changes := (s.ctx c).descs.filter (fun e => s.ready c e && e.changesPhase)
  s.ready c d &&
    if d.changesPhase then changes.any (s.servedFirst c) && !changes.any (fun e => decide (e.ring < d.ring))
    else s.servedFirst c d

/-! ### Uncorrectable words of a context's own state (R449 to R452, R460; log entry 92) -/

/-- SOURCE of an error in a store (R452). -/
def storeSource : Store → Nat
  | .fabric => 5
  | .chainBuffer => 8
  | .frontUnit => 9
  | .counterBlock => 9
  | .reductionStore => 10
  | .ioFabric => 11
  | _ => 13

/-- The work counter that a descriptor sets, or counts its work tiles with (R151, R156). -/
def Desc.wcName (d : Desc) : Option Nat :=
  match d.opcode with
  | 0x302 => some (fld (d.word 1) 4 12)
  | 0x303 => some d.jobWc
  | 0x407 => some d.jobWc
  | 0x710 => some d.jobWc
  | 0x722 => some d.jobWc
  | _ => none

/-- The tiles on which it does so. -/
def Desc.wcTiles (d : Desc) : Nat := if d.opcode = 0x302 then 2 ^ fld (d.word 1) 0 4 else d.jobMask

/-- The front or tally whose entry a descriptor uses, as EPID-less TILE and ENTRY (R342). -/
def Desc.entryName (d : Desc) : Option Nat :=
  match d.opcode with
  | 0x800 => some (fld (d.word 2) 0 4 * 0x1000 + fld (d.word 2) 4 12)
  | 0x804 => some (fld (d.word 1) 0 16)
  | 0x805 => some (fld (d.word 1) 0 16)
  | _ => d.frontName.map (· % 0x10000)

/-- The descriptor uses what the word belongs to: the object that it names; what crosses a fabric, all but the context and power groups (R47) a
tile's, and the groups of the memory tiers and the links an I/O die's; a save image, every descriptor but the context group's. -/
def State.uses (s : State) (c : Nat) (d : Desc) (b : BadWord) : Bool :=
  let q := s.ringSeat c d.ring
  let group := d.opcode / 256
  match b.store with
  | .fabric => q.1 == b.unit && !decide (group ∈ [0, 9])
  | .chainBuffer => q == (b.unit, b.seat) && (d.opcode == 0x200 || (d.opcode == 0x100 && d.chainName.isSome))
  | .frontUnit => d.entryName == some b.item
  | .counterBlock => d.wcName == some b.item && d.wcTiles.testBit b.unit
  | .reductionStore => d.slotName == some (true, b.item)
  | .ioFabric => decide (group ∈ [4, 5, 6, 7, 10])
  | .saveImage => group != 0
  | .planTable => d.planName != 0xFFF && d.planName == b.item
  | .chainTable => d.chainName == some b.item
  | .hailGroup => ((s.ctx c).hailGroups d).contains b.item
  | .pageTables => group == 4 && d.kvSpace == b.item

/-- The uncorrectable words that a descriptor uses. -/
def State.badFor (s : State) (c : Nat) (d : Desc) : List BadWord := (s.ctx c).badWords.filter (s.uses c d)

/-- The opcode writes the object anew, with every word of it (R451). -/
def Desc.anew (d : Desc) (b : BadWord) : Bool :=
  decide ((d.opcode, b.store) ∈ [(0x300, .planTable), (0x201, .chainTable), (0x302, .counterBlock), (0x400, .pageTables), (0x603, .hailGroup),
    (0x711, .reductionStore), (0x800, .frontUnit)])

/-- A descriptor reads an uncorrectable word of such a store: logged, counted at a tile, and 0x31 (R451, R452, R458, R459). -/
def failStore (w : Who) (b : BadWord) : Act (Option Stop) := fun s =>
  let s := if b.store ∈ [.fabric, .chainBuffer, .frontUnit, .counterBlock] then
      s.modTile b.unit (fun t => { t with ue := true, ueCnt := satInc t.ueCnt })
    else s
  let i := s.logIndex
  .error (memUncorr (storeSource b.store) b.unit (if b.store = .chainBuffer then b.seat else 0) b.line i)
    (s.errLog 2 (storeSource b.store) b.unit 0x1F (BitVec.ofNat 64 (b.line * 64)) (s.logWho w 0x31))

/-- What becomes of an action, begun in s, whose descriptor uses uncorrectable words: what a check refuses, or what needs nothing done, ends as it
would; an opcode that writes the object anew replaces the word; any other effect does not take place, and the descriptor ends with 0x31. -/
def storeOutcome (bad : List BadWord) (c : Nat) (d : Desc) (s : State) (r : EStateM.Result Stop State (Option Stop)) :
    EStateM.Result Stop State (Option Stop) :=
  let stop : Option Stop := match r with
    | .ok st _ => st
    | .error st _ => some st
  match bad.find? (fun b => !d.anew b) with
  | some b => if stop.any (fun st => st.refuses d.opcode) then r else failStore (d.who c) b s
  | none =>
    match r with
    | .ok st t => .ok st (t.modCtx c (fun x => { x with badWords := x.badWords.filter (fun b => !bad.contains b) }))
    | .error st t => .error st t

/-- A unit on the stores that its descriptor uses. -/
def withStores (bad : List BadWord) (c : Nat) (d : Desc) (unit : Act (Option Stop)) : Act (Option Stop) :=
  if bad.isEmpty then unit else fun s => storeOutcome bad c d s (unit s)

/-- The descriptor starts on its unit. -/
def State.startIssue (s : State) (c : Nat) (d : Desc) : State :=
  (s.modDesc c d.ring d.index (fun e => { e with st := .executing, issued := true })).modCtx c
    (fun x => { x with lastServed := tput x.lastServed (x.ring d.ring).priority.toNat d.ring }.latchFreeze)

/-- An action's outcome is the descriptor's: a status ends it; no status leaves it executing. -/
def State.settle (c r : Nat) (i : Word) : EStateM.Result Stop State (Option Stop) → State
  | .ok none s => s
  | .ok (some st) s => s.finish c r i st
  | .error st s => s.finish c r i st

/-- An opcode issues: the descriptor starts and its unit acts, on stores that it can read (R460). A command whose descriptor cannot issue now changes nothing
(R50: it is held back); log entry 8. -/
def issue (op : Nat) (ref : DescRef) (unit : Desc → Act (Option Stop)) (s : State) : State :=
  match s.desc ref with
  | none => s
  | some d =>
    if d.opcode = op ∧ s.mayIssue ref.ctx d = true then
      State.settle ref.ctx ref.ring ref.index (withStores (s.badFor ref.ctx d) ref.ctx d (unit d) (s.startIssue ref.ctx d).tick)
    else s

/-- The unit goes on with a descriptor that is executing. Between a teardown and its end, and across a pre-emption, it does not (R63, R379). -/
def continueDesc (op : Nat) (ref : DescRef) (unit : Desc → Act (Option Stop)) (s : State) : State :=
  match s.desc ref with
  | none => s
  | some d =>
    if d.opcode = op ∧ d.st = .executing ∧ (s.ctx ref.ctx).atUnits = true then
      State.settle ref.ctx ref.ring ref.index (withStores (s.badFor ref.ctx d) ref.ctx d (unit d) s.tick)
    else s

/-- 0x00 OK with a RESULT. -/
def okResult (r : DWord) : Act (Option Stop) := pure (some ⟨0, r⟩)
/-- 0x01 OK_NOOP with a RESULT. -/
def noopResult (r : DWord) : Act (Option Stop) := pure (some ⟨1, r⟩)

/-- The context of an action. -/
def getCtx (c : Nat) : Act Ctx := do let s ← get; pure (s.ctx c)
/-- A context changes. -/
def modCtxA (c : Nat) (f : Ctx → Ctx) : Act Unit := modify (fun s => s.modCtx c f)

end Sys2Proof.Machine
end

