-- ==== Sys2Proof/Machine/Rings.lean ====
section
/-! DEFINITION. Rings.lean: doorbells, ring registers, fetching and admission, and the writing of completion records
(R30 to R57). -/
namespace Sys2Proof.Machine

/-- Slots of a ring. -/
def Ring.slots (k : Ring) : Nat := 2 ^ k.sizeLog2.toNat

/-- The context has ring k (HST_CTX_ALLOT.RINGS). -/
def Ctx.hasRing (x : Ctx) (k : Nat) : Bool := decide (k < x.sched.rings.toNat)

/-- A stray doorbell write of ring k is counted in DB_STALE_CNT of ring k, or of ring 0 (R36); an EMPTY context has no owner (R425). -/
def State.strayDoorbell (s : State) (c k : Nat) : State :=
  if (s.ctx c).st = .empty then s
  else s.modRing c (if (s.ctx c).hasRing k then k else 0) (fun r => { r with dbStaleCnt := satInc r.dbStaleCnt })

/-- R37: a write of t to SQ_TAIL. -/
def Ring.writeTail (k : Ring) (t : Word) : Ring :=
  let d := (t - k.sqTail).toNat
  if d = 0 then k
  else if 2 ^ 31 ≤ d then { k with dbStaleCnt := satInc k.dbStaleCnt }
  else if (t - k.sqHead).toNat ≤ k.slots then { k with sqTail := t }
  else { k with dbViol := true, dbViolCnt := satInc k.dbViolCnt }

/-- R38: a write of h to CQ_HEAD. -/
def Ring.writeHead (k : Ring) (h : Word) : Ring :=
  let d := (h - k.cqHead).toNat
  if d ≤ (k.cqTail - k.cqHead).toNat then
    { k with cqHead := h, qualifying := k.qualifying.filter (fun i => decide ((i - h).toNat < (k.cqTail - h).toNat)) }
  else if 2 ^ 31 ≤ d then { k with dbStaleCnt := satInc k.dbStaleCnt }
  else { k with cqViol := true, cqViolCnt := satInc k.cqViolCnt }

/-- A CQ index lies between CQ_HEAD and CQ_TAIL. -/
def Ring.pendingRecord (k : Ring) (i : Word) : Bool := decide ((i - k.cqHead).toNat < (k.cqTail - k.cqHead).toNat)

/-- A vector sends no message: MSI-X is off or masked as a whole, or Vector Control's mask bit of its entry is set; an entry that nothing has
written is masked (PRESUMED: the PCIe standard's rules and reset values; log entry 20). -/
def Dom.vectorMasked (d : Dom) (v : Nat) : Bool := !d.msixEn || d.msixMask || bit (tget msixReset d.msix v).2 32

/-- An interrupt vector is raised: its message leaves, or its pending bit is set while the vector is masked (R39, R425). -/
def State.raise (s : State) (h v : Nat) : State :=
  if (s.dom h).vectorMasked v then s.modDom h (fun d => { d with pba := v :: d.pba.filter (· != v) }) else s.emit (.irq h v)

/-- Arming the ring: a qualifying record between CQ_HEAD and CQ_TAIL raises the interrupt at once (R39). -/
def State.armRing (s : State) (c k : Nat) : State :=
  let r := (s.ctx c).ring k
  if r.irqEn ∧ r.qualifying.any r.pendingRecord then
    (s.modRing c k (fun r => { r with armed := false })).raise (s.ctxDom c) r.vector.toNat
  else s.modRing c k (fun r => { r with armed := true })

def execCqHeadWrite (c k : Nat) (h : Word) (s : State) : Host.Outcome State Fault Refusal :=
  .next (if (s.ctx c).hasRing k then s.modRing c k (fun r => r.writeHead h) else s.strayDoorbell c k)

def execIrqArm (c k : Nat) (s : State) : Host.Outcome State Fault Refusal :=
  .next (if (s.ctx c).hasRing k then s.armRing c k else s.strayDoorbell c k)

/-- Any other write at an offset of the doorbell page (R36). -/
def execDoorbellStrayWrite (c off : Nat) (s : State) : Host.Outcome State Fault Refusal :=
  .next (s.strayDoorbell c (off / 0x40 % 64))

/-! ### Ring registers (R41, R42) -/

/-- CFG_VIOL is set and counted. -/
def Ring.cfgViolation (k : Ring) : Ring := { k with cfgViol := true, cfgViolCnt := satInc k.cfgViolCnt }

/-- RESET: the four indices, DB_STALE_CNT, REC_DROP_CNT and the HST_RING_EVCNT counters go to 0; a dropping ring
recovers (R41, R44). -/
def Ring.clear (k : Ring) : Ring :=
  { k with sqHead := 0, sqTail := 0, cqHead := 0, cqTail := 0, dbStaleCnt := 0, recDropCnt := 0, dbViolCnt := 0,
           cqViolCnt := 0, cfgViolCnt := 0, fetchErrCnt := 0, writeErrCnt := 0, dropping := false, qualifying := [],
           fetched := 0 }

/-- The descriptors of a ring that are admitted and not completed. -/
def Ctx.ringDescs (x : Ctx) (k : Nat) : List Desc := x.descs.filter (fun d => d.ring == k)

/-- A write of HST_RING_CFG: the fields other than RESET (R41, R42). -/
def Ring.writeCfg (k : Ring) (v : DWord) : Ring :=
  let size := fld v 0 5
  let en := bit v 5
  let sizeOk := decide (4 ≤ size) && decide (size ≤ 16)
  let same := decide (size = k.sizeLog2.toNat)
  let k1 := if same then k
    else if sizeOk && !k.enable then { k with sizeLog2 := BitVec.ofNat 5 size }
    else k.cfgViolation
  { k1 with enable := en, irqEn := bit v 7, vector := BitVec.ofNat 8 (fld v 8 8),
            priority := BitVec.ofNat 2 (fld v 16 2), fetched := if en then k1.fetched else 0 }

/-- A write of HST_RING_CFG: SIZE_LOG2, ENABLE, IRQ_EN, VECTOR and PRIORITY, then RESET; setting ENABLE arms the ring (R39, R41, R42). -/
def State.writeRingCfg (s : State) (c k : Nat) (v : DWord) : State :=
  let was := ((s.ctx c).ring k).enable
  let s1 := s.modRing c k (fun r => r.writeCfg v)
  let s2 := if !was && bit v 5 then s1.modRing c k (fun r => { r with armed := true }) else s1
  if bit v 6 then
    if !bit v 5 && ((s2.ctx c).ringDescs k).isEmpty then s2.modRing c k Ring.clear
    else s2.modRing c k Ring.cfgViolation
  else s2

/-- The context's setup window is there for its owner: every state but EMPTY (R40, R425). -/
def Ctx.live (x : Ctx) : Bool := decide (x.st ≠ .empty)

/-- The domain's valid host addresses hold x (R426): its offset, if it does. -/
def Dom.hostOffset (d : Dom) (x : Nat) : Option Nat :=
  let hb := if d.external then d.hbase.toNat * 4096 else 0
  if hb ≤ x ∧ x - hb < (if d.external then 2 ^ 42 else min (2 ^ 42) d.pwinBytes) then some (x - hb) else none

/-- A write of a ring base (R41, R42, R426). -/
def State.writeRingBase (s : State) (c k : Nat) (cq : Bool) (v : DWord) : State :=
  let r := (s.ctx c).ring k
  let v := v &&& ~~~0xFFF
  if r.enable ∨ (Dom.hostOffset (s.dom (s.ctxDom c)) v.toNat).isNone then s.modRing c k Ring.cfgViolation
  else s.modRing c k (fun r => if cq then { r with cqBase := v } else { r with sqBase := v })

def execRingBaseWrite (c k : Nat) (cq : Bool) (v : DWord) (s : State) : Host.Outcome State Fault Refusal :=
  .next (if (s.ctx c).live ∧ (s.ctx c).hasRing k then s.writeRingBase c k cq v else s)

/-! ### Fetching and admission (R33 to R35, R45 to R49) -/

/-- Free completion entries: neither written and unread, nor reserved by an admitted descriptor (R33). -/
def Ctx.freeEntries (x : Ctx) (k : Nat) : Nat :=
  let r := x.ring k
  r.slots - (r.cqTail - r.cqHead).toNat - (x.ringDescs k).length

/-- The ring may admit one more descriptor (R33, R59). -/
def Ctx.mayAdmit (x : Ctx) (k : Nat) : Bool :=
  decide (x.st = .run) && !x.sched.saving && !x.sched.restoring && (x.ring k).enable
    && decide (0 < x.freeEntries k) && decide ((x.ringDescs k).length < 256)

/-- The live cyclic table names the context. -/
def State.liveNames (s : State) (c : Nat) : Bool :=
  s.sched.cyc.en && s.sched.cyc.live.any (fun e => e.2.valid && e.2.context.toNat == c)

/-- A slot of the context has reached its START_US and not its end (R378). -/
def State.slotRuns (s : State) (c : Nat) : Bool :=
  s.sched.cyc.started.any (fun n => (tget CycSlot.reset s.sched.cyc.live n).context.toNat == c)

/-- The module admits: the ring may, the power-fail warning has not come (R393), and of a context of the live cyclic table a slot runs (R378,
log entry 72). -/
def State.admits (s : State) (c k : Nat) : Bool :=
  !s.pins.pwrFail && (!s.liveNames c || s.slotRuns c) && (s.ctx c).mayAdmit k

/-- A fetch read of n slots: up to 32, not past the accepted tail nor past the end of the ring (R33, R35). -/
def execFetchRequest (c k n : Nat) (s : State) : Host.Outcome State Fault Refusal :=
  let x := s.ctx c
  let r := x.ring k
  let first := r.sqHead + BitVec.ofNat 32 r.fetched
  let slot := first.toNat % r.slots
  .next (if s.admits c k ∧ 0 < n ∧ n ≤ 32 ∧ r.fetched + n ≤ (r.sqTail - r.sqHead).toNat ∧ slot + n ≤ r.slots then
      (s.modRing c k (fun r => { r with fetched := r.fetched + n })).emits
        (s.hostReads (s.ctxDom c) (r.sqBase.toNat + slot * 64) (n * 64))
    else s)

/-- Slots that a descriptor takes (R49): check 2 fails with one slot; check 1 takes two only at an even slot. -/
def slotsTaken (hdr : DWord) (index : Word) : Nat := if bit hdr 16 ∧ index.toNat % 2 = 0 then 2 else 1

/-- Checks 1 to 8 of R49. -/
def State.admitChecks (s : State) (c : Nat) (d : Desc) : Option Stop :=
  let x := s.ctx c
  let h := d.word 0
  let ver := fld h 0 4
  firstFail [
    (decide (ver < 1) || decide (x.cfg.verMax.toNat < ver), ⟨0x11, at_ ver 0⟩),
    (bit h 16 && decide (d.index.toNat % 2 = 1), badDesc 0 16 2),
    (decide (d.seq ≠ d.slotSeq), badDesc 0 48 3),
    (decide (fld h 32 16 ≠ x.cfg.tag.toNat), badDesc 0 32 4),
    (decide (opForm d.opcode ≠ some (bit h 16)), badDesc 0 4 5),
    (decide (fld h 19 2 ≠ 0), badDesc 0 19 6),
    (decide (fld h 21 3 ≠ 0), badDesc 0 21 6),
    (d.order && decide (d.fenceClass = 0), badDesc 0 18 7),
    ((s.unitAbsent d).isSome, absent ((s.unitAbsent d).getD 0))]

/-- A returned fetch read is taken for the descriptor at SQ_HEAD: its words are `ws` (8 words a slot). An extended
descriptor whose second slot the tail does not cover is not admitted (R34). NOP is not counted in HST_CTX_ADMITTED (R59). -/
def execDescriptorAdmit (c k : Nat) (ws : List DWord) (s : State) : Host.Outcome State Fault Refusal :=
  let x := s.ctx c
  let r := x.ring k
  let n := slotsTaken (wrd ws 0) r.sqHead
  .next (if s.admits c k ∧ n ≤ r.fetched then
      let d0 : Desc := { ring := k, index := r.sqHead, words := (List.range (8 * n)).map (wrd ws), st := .waiting,
                         status := 0, result := 0, issued := false, prog := .none }
      let d := match s.admitChecks c d0 with
        | some st => { d0 with st := .done, status := st.status, result := st.result }
        | none => d0
      s.modCtx c (fun x => (x.modRing k (fun r => { r with sqHead := r.sqHead + BitVec.ofNat 32 n, fetched := r.fetched - n }))
        |> fun x => { x with descs := x.descs ++ [d],
                             admitted := if d.opcode = 0 then x.admitted else x.admitted + 1 }.latchFreeze)
    else s)

/-- A fetch read returns an error: SQ_HEAD stays, ENABLE is cleared (R41, R44). -/
def State.fetchError (s : State) (c k : Nat) : State :=
  s.modRing c k (fun r => { r with fetchErr := true, fetchErrCnt := satInc r.fetchErrCnt, enable := false,
                                   fetched := 0 })

/-- The write of the record at CQ index i is refused: it and every later record are dropped, CQ_TAIL stands at its entry, and
ENABLE is cleared (R44). -/
def State.writeError (s : State) (c k : Nat) (i : Word) : State :=
  let r := (s.ctx c).ring k
  let dropped := (r.cqTail - i).toNat
  s.modRing c k (fun r => { r with writeErr := true, writeErrCnt := satInc r.writeErrCnt, enable := false,
                                   fetched := 0, dropping := true, cqTail := i, recDropCnt := satAdd r.recDropCnt dropped,
                                   qualifying := r.qualifying.filter (fun q => decide ((q - r.cqHead).toNat < (i - r.cqHead).toNat)) })

/-! ### Completion records (R54 to R57) -/

/-- Module physical address of a host-domain address (R426). -/
def State.hostPa (s : State) (h x : Nat) : Nat := hostBase h + ((s.dom h).hostOffset x).getD 0

/-- A module write to host memory: the module's view changes and the write leaves. -/
def State.hostWrite (s : State) (h x : Nat) (bs : List Byte) : State :=
  (s.poke (s.hostPa h x) bs).emits (s.hostWrites h x bs)

/-- The 32 B completion record (R55, R56). -/
def recordWords (d : Desc) (tag : Half) (k : Ring) (energy : BitVec 48) : List DWord :=
  [ at_ d.seq 0 ||| at_ d.opcode 16 ||| at_ (fld (d.word 0) 0 4) 28 ||| at_ d.status.toNat 32 ||| at_ d.ring 40
      ||| at_ (b2n (!bit k.cqTail k.sizeLog2.toNat)) 47 ||| at_ tag.toNat 48,
    at_ energy.toNat 0 ||| at_ (b2n (energy == BitVec.allOnes 48)) 48,
    d.result,
    d.user ]

/-- A record qualifies for the interrupt: IRQ was set, or the status is neither 0x00 nor 0x01 (R39). -/
def Desc.qualifies (d : Desc) : Bool := d.irq || (d.status != 0 && d.status != 1)

/-- The record of a finished descriptor is written (words 1 to 3 first, word 0 last), or dropped on a dropping ring; an armed
ring raises its interrupt once (R39, R44, R54 to R57). -/
def State.writeRecord (s : State) (c : Nat) (d : Desc) : State :=
  let x := s.ctx c
  let k := x.ring d.ring
  if x.silent then s
  else if k.dropping then s.modRing c d.ring (fun r => { r with recDropCnt := satInc r.recDropCnt })
  else
    let energy := if d.issued then Config.energy s.free else 0
    let ws := recordWords d x.cfg.tag k energy
    let a := k.cqBase.toNat + k.cqTail.toNat % k.slots * 32
    let h := s.ctxDom c
    let s1 := (s.tick.hostWrite h (a + 8) (wordsBytes (ws.drop 1))).hostWrite h a (wordsBytes (ws.take 1))
    let s2 := s1.modRing c d.ring (fun r => { r with
      qualifying := (if d.qualifies then r.qualifying ++ [r.cqTail] else r.qualifying), cqTail := r.cqTail + 1 })
    if d.qualifies ∧ k.irqEn ∧ k.armed then
      (s2.modRing c d.ring (fun r => { r with armed := false })).raise h k.vector.toNat
    else s2

/-- A finished descriptor leaves the context: its record, and the count of HST_CTX_COMPLETED (R59). -/
def State.retire (s : State) (c : Nat) (d : Desc) : State :=
  (s.writeRecord c d).modCtx c (fun x => { x with
    descs := x.descs.filter (fun e => !e.is d.ring d.index),
    completed := if d.opcode = 0 then x.completed else x.completed + 1 }.latchFreeze)

end Sys2Proof.Machine
end

