-- ==== Sys2Proof/Machine/Pages.lean ====
section
/-! DEFINITION. Pages.lean: the page agent of the key/value spaces: page entries, the space header, frames, read-epochs, spilling
and dropping, moves (R175 to R182, R188 to R192, R198). -/
namespace Sys2Proof.Machine

def Ctx.space (x : Ctx) (k : Nat) : KvSpace := tget KvSpace.reset x.spaces k
def getSpace (w : Who) (k : Nat) : Act KvSpace := do let s ← get; pure ((s.ctx w.ctx).space k)
def modSpace (w : Who) (k : Nat) (f : KvSpace → KvSpace) : Act Unit :=
  modify (fun s => s.modCtx w.ctx (fun x => { x with spaces := tput x.spaces k (f (x.space k)) }))

/-! ### Geometry (R177, R178) -/

def KvSpace.tok (p : KvSpace) : Nat := if p.geom = 2 then 384 else 2 ^ p.tokLog2
def KvSpace.d (p : KvSpace) : Nat := 64 * 2 ^ p.dsel
def KvSpace.esz (p : KvSpace) : Nat := codeBytes p.fmt 1
/-- Frame bytes, FB. -/
def KvSpace.fb (p : KvSpace) : Nat := 4096 * cdiv (2 * p.tok * p.d * p.esz) 4096
def KvSpace.tier (p : KvSpace) (t : Nat) : KvTier := p.tiers.getD t KvTier.reset
def KvSpace.frameVa (p : KvSpace) (t n : Nat) : Nat := (p.tier t).va + n * p.fb
def KvSpace.entryVa (p : KvSpace) (n : Nat) : Nat := p.ownVa + 256 + 32 * n
def KvSpace.seqVa (p : KvSpace) (q : Nat) : Nat := p.ownVa + 256 + 32 * p.pagesMax + 64 * q
/-- Bytes of the header, the page table and the sequence table. -/
def KvSpace.tables (p : KvSpace) : Nat := 256 + 32 * p.pagesMax + 64 * p.seqMax
/-- An 8-bit space. -/
def KvSpace.narrow (p : KvSpace) : Bool := decide (p.esz = 1)

/-- The number that names no page. -/
def noPage : Nat := 0xFFFFFFFF

/-! ### Page entries (R180) -/

structure PageEntry where
  state : Nat
  tier : Nat
  pin : Bool
  refcnt : Nat
  frame : Nat
  fill : Nat
  layer : Nat
  head : Nat
  creator : Nat
  freeEpoch : Nat
  lastUse : Nat
  pos0 : Nat
  link : Nat
  deriving DecidableEq, Repr

def pgFree : Nat := 0
def pgOpen : Nat := 1
def pgSealed : Nat := 2
def pgSpilling : Nat := 3
def pgFetching : Nat := 4
def pgDropped : Nat := 5
def pgRecomputing : Nat := 6
def pgRetired : Nat := 7

def PageEntry.ofWords (ws : List DWord) : PageEntry :=
  let w := wrd ws
  { state := fld (w 0) 0 4, tier := fld (w 0) 4 2, pin := bit (w 0) 6, refcnt := fld (w 0) 16 16, frame := fld (w 0) 32 32
    fill := fld (w 1) 0 13, layer := fld (w 1) 16 16, head := fld (w 1) 32 8, creator := fld (w 1) 48 16
    freeEpoch := fld (w 2) 0 32, lastUse := fld (w 2) 32 32, pos0 := fld (w 3) 0 32, link := fld (w 3) 32 32 }

def PageEntry.words (e : PageEntry) : List DWord :=
  [ at_ e.state 0 ||| at_ e.tier 4 ||| at_ (b2n e.pin) 6 ||| at_ e.refcnt 16 ||| at_ e.frame 32,
    at_ e.fill 0 ||| at_ e.layer 16 ||| at_ e.head 32 ||| at_ e.creator 48,
    at_ e.freeEpoch 0 ||| at_ e.lastUse 32,
    at_ e.pos0 0 ||| at_ e.link 32 ]

/-- The page holds tokens of a map and no transition runs. -/
def PageEntry.settled (e : PageEntry) : Bool := decide (e.state = pgOpen) || decide (e.state = pgSealed)
/-- A transition that must end before the page can be retired (R181). -/
def PageEntry.inTransit (e : PageEntry) : Bool :=
  decide (e.state = pgSpilling) || decide (e.state = pgFetching) || decide (e.state = pgRecomputing)

/-- A free entry: no frame, no tokens (the fields that R180 gives no value for are 0, log entry 10). -/
def freeEntry (link : Nat) : PageEntry := ⟨pgFree, 3, false, 0, 0, 0, 0, 0, 0, 0, 0, 0, link⟩

def rdEntry (w : Who) (k n : Nat) : Act PageEntry := do
  let p ← getSpace w k
  let bs ← rdVa w (p.entryVa n) 32
  pure (PageEntry.ofWords (bytesWords 4 bs))

def wrEntry (w : Who) (k n : Nat) (e : PageEntry) : Act Unit := do
  let p ← getSpace w k
  wrVa w (p.entryVa n) (wordsBytes e.words)

/-! ### The space header (R179): sixteen 32-bit fields -/

def hEpoch : Nat := 0
def hOldest : Nat := 1
def hUse : Nat := 2
def hRetired : Nat := 3
def hFree (tier : Nat) : Nat := 4 + tier
def hPagesFree : Nat := 7
def hSpills : Nat := 8
def hPromotes : Nat := 9
def hDrops : Nat := 10
def hRecomputes : Nat := 11
def hCow : Nat := 12
def hEpochHolds : Nat := 13
def hAllocFails : Nat := 14
def hErrRecomputes : Nat := 15

def hdr (w : Who) (k i : Nat) : Act Nat := do
  let p ← getSpace w k
  let bs ← rdVa w (p.ownVa + 4 * i) 4
  pure (leNat bs)

def hdrSet (w : Who) (k i v : Nat) : Act Unit := do
  let p ← getSpace w k
  wrVa w (p.ownVa + 4 * i) (leBytes 4 (min v 0xFFFFFFFF))

/-- A counter goes up; counters saturate. -/
def hdrInc (w : Who) (k i : Nat) : Act Unit := do let v ← hdr w k i; hdrSet w k i (v + 1)
def hdrDec (w : Who) (k i : Nat) : Act Unit := do let v ← hdr w k i; hdrSet w k i (v - 1)

/-! ### Frames and page entries, first in, first out (R182) -/

def KvTier.free (t : KvTier) : Nat := t.frames - t.fresh + t.freed.length

/-- The head of the list of free frames. -/
def KvTier.take (t : KvTier) : Option (Nat × KvTier) :=
  if t.fresh < t.frames then some (t.fresh, { t with fresh := t.fresh + 1 })
  else
    match t.freed with
    | f :: r => some (f, { t with freed := r })
    | [] => none

def setTier (w : Who) (k t : Nat) (v : KvTier) : Act Unit := do
  modSpace w k (fun p => { p with tiers := p.tiers.set t v })
  hdrSet w k (hFree t) v.free

/-- The first free frame that passes a test, in the order of the list; fresh frames before it join the tail (R252; log entry 10). -/
def KvTier.takeOpen (t : KvTier) (open_ : Nat → Bool) : Option (Nat × KvTier) :=
  match (List.range (t.frames - t.fresh)).find? (fun i => open_ (t.fresh + i)) with
  | some i => some (t.fresh + i, { t with fresh := t.fresh + i + 1, freed := t.freed ++ (List.range i).map (t.fresh + ·) })
  | none => (t.freed.find? open_).map (fun f => (f, { t with freed := t.freed.erase f }))

/-- No Permafrost device refuses user writes for its temperature or wear. -/
def State.frostOpen (s : State) : Bool := (List.range 8).all (fun n => decide ((s.pdev n).level ≠ 3))

/-- A frame of the tier can be had: one of Permafrost not while a device beneath it takes no user write (R252). -/
def KvSpace.frameOpen (p : KvSpace) (s : State) (w : Who) (t f : Nat) : Bool := !(decide (t = 2) && s.frostShutVa w (p.frameVa t f) p.fb)

/-- Frames of a tier that can be had (R252). -/
def KvSpace.freeNow (p : KvSpace) (s : State) (w : Who) (t : Nat) : Nat :=
  let k := p.tier t
  if t ≠ 2 ∨ s.frostOpen = true then k.free
  else ((List.range (k.frames - k.fresh)).filter (fun i => p.frameOpen s w t (k.fresh + i))).length + (k.freed.filter (p.frameOpen s w t)).length

/-- A frame of a tier is taken. -/
def takeFrame (w : Who) (k t : Nat) : Act (Option Nat) := do
  let p ← getSpace w k
  let s ← get
  match (if t ≠ 2 ∨ s.frostOpen = true then (p.tier t).take else (p.tier t).takeOpen (p.frameOpen s w t)) with
  | none => pure none
  | some (f, v) => do
    setTier w k t v
    pure (some f)

/-- A frame is released and joins the tail. -/
def giveFrame (w : Who) (k t f : Nat) : Act Unit := do
  let p ← getSpace w k
  if t < 3 then setTier w k t { p.tier t with freed := (p.tier t).freed ++ [f] } else pure ()

/-- A page entry is taken from the head of the list. -/
def takePage (w : Who) (k : Nat) : Act (Option Nat) := do
  let n ← hdr w k hPagesFree
  if n = 0 then pure none
  else do
    let p ← getSpace w k
    let e ← rdEntry w k p.pageHead
    modSpace w k (fun q => { q with pageHead := e.link })
    hdrDec w k hPagesFree
    pure (some p.pageHead)

/-- An entry joins the tail of the list of free entries. -/
def givePage (w : Who) (k n : Nat) : Act Unit := do
  let cnt ← hdr w k hPagesFree
  let p ← getSpace w k
  wrEntry w k n (freeEntry noPage)
  if cnt = 0 then modSpace w k (fun q => { q with pageHead := n, pageTail := n })
  else do
    let e ← rdEntry w k p.pageTail
    wrEntry w k p.pageTail { e with link := n }
    modSpace w k (fun q => { q with pageTail := n })
  hdrInc w k hPagesFree

/-! ### Epochs and reclaiming (R181, R198) -/

/-- A RETIRED page whose FREE_EPOCH lies below OLDEST becomes FREE; pages are taken in ascending order (log entry 10). -/
def reclaim (w : Who) (k : Nat) : Act Unit := do
  let p ← getSpace w k
  let oldest ← hdr w k hOldest
  let retired ← hdr w k hRetired
  if retired = 0 then pure ()
  else (List.range p.pagesMax).forM (fun n => do
    let e ← rdEntry w k n
    if e.state = pgRetired ∧ e.freeEpoch < oldest then do
      giveFrame w k e.tier e.frame
      givePage w k n
      hdrDec w k hRetired
    else pure ())

/-- OLDEST: the oldest epoch that an active reader holds, or EPOCH. -/
def setOldest (w : Who) (k : Nat) : Act Unit := do
  let p ← getSpace w k
  let e ← hdr w k hEpoch
  hdrSet w k hOldest (p.readers.foldl (fun m r => min m r.2.2) e)
  reclaim w k

/-- The descriptor takes the current EPOCH as its read-epoch, once. -/
def takeEpoch (w : Who) (k : Nat) : Act Unit := do
  let p ← getSpace w k
  let e ← hdr w k hEpoch
  if p.readers.any (fun r => r.1 == w.ring && r.2.1 == w.index) then pure ()
  else do
    modSpace w k (fun q => { q with readers := q.readers ++ [(w.ring, w.index, e)] })
    setOldest w k

/-- The descriptor releases its read-epoch. -/
def dropEpoch (w : Who) (k : Nat) : Act Unit := do
  let p ← getSpace w k
  if p.geom ≠ 0 ∧ p.readers.any (fun r => r.1 == w.ring && r.2.1 == w.index) then do
    modSpace w k (fun q => { q with readers := q.readers.filter (fun r => !(r.1 == w.ring && r.2.1 == w.index)) })
    setOldest w k
  else pure ()

/-- EPOCH advances after a free that retired pages, unless that would open a 65th distinct read-epoch. -/
def advanceEpoch (w : Who) (k : Nat) : Act Unit := do
  let p ← getSpace w k
  if (p.readers.map (·.2.2)).eraseDups.length < 64 then hdrInc w k hEpoch else hdrInc w k hEpochHolds
  setOldest w k

/-- A map ceases to name a page; true when its REFCNT reaches 0: FREE_EPOCH is stamped, and the page is RETIRED now, or once the
transition that runs on it ends (R181). -/
def decRef (w : Who) (k n : Nat) : Act Bool := do
  let e ← rdEntry w k n
  let cnt := e.refcnt - 1
  if cnt = 0 then do
    let epoch ← hdr w k hEpoch
    wrEntry w k n { e with refcnt := 0, freeEpoch := epoch, state := if e.inTransit then e.state else pgRetired }
    if e.inTransit then pure () else hdrInc w k hRetired
    pure true
  else do
    wrEntry w k n { e with refcnt := cnt }
    pure false

/-- A page whose transition has ended takes its settled state, or is RETIRED when no map names it. A page whose FILL lies below TOK is OPEN
again, after a recompute too, where R181 speaks of SEALED pages alone (log entry 89). -/
def settlePage (w : Who) (k n : Nat) (e : PageEntry) : Act Unit := do
  let p ← getSpace w k
  if e.refcnt = 0 then do
    wrEntry w k n { e with state := pgRetired }
    hdrInc w k hRetired
  else wrEntry w k n { e with state := if e.fill = p.tok then pgSealed else pgOpen }

/-! ### Sequences (R183) -/

/-- A sequence record in force. -/
structure SeqRec where
  words : List DWord
  deriving DecidableEq, Repr

def SeqRec.valid (r : SeqRec) : Bool := bit (wrd r.words 0) 0
def SeqRec.hkv (r : SeqRec) : Nat := fld (wrd r.words 0) 8 8
def SeqRec.layers (r : SeqRec) : Nat := fld (wrd r.words 0) 16 16
def SeqRec.maxLen (r : SeqRec) : Nat := fld (wrd r.words 0) 32 32
def SeqRec.mapOff (r : SeqRec) : Nat := (wrd r.words 1).toNat
def SeqRec.scaleVa (r : SeqRec) : Nat := (wrd r.words 2).toNat
def SeqRec.recipeVa (r : SeqRec) : Nat := (wrd r.words 3).toNat
/-- MAPW. -/
def SeqRec.mapW (r : SeqRec) (tok : Nat) : Nat := cdiv r.maxLen tok
/-- Where the page numbers begin, from the start of the owned region. -/
def SeqRec.pagesOff (r : SeqRec) : Nat := r.mapOff + roundUp (4 * r.layers) 64
/-- Bytes of the map. -/
def SeqRec.mapEnd (r : SeqRec) (tok : Nat) : Nat := r.pagesOff + 4 * (r.layers * r.hkv * r.mapW tok)

/-- The sequence's record; `valid` is false for a number beyond the table. -/
def rdSeq (w : Who) (k q : Nat) : Act SeqRec := do
  let p ← getSpace w k
  if p.geom = 0 ∨ p.seqMax ≤ q then pure ⟨[]⟩
  else do
    let bs ← rdVa w (p.seqVa q) 64
    pure ⟨bytesWords 8 bs⟩

def lenVa (p : KvSpace) (r : SeqRec) (l : Nat) : Nat := p.ownVa + r.mapOff + 4 * l
def mapVa (p : KvSpace) (r : SeqRec) (l h n : Nat) : Nat :=
  p.ownVa + r.pagesOff + 4 * ((l * r.hkv + h) * r.mapW p.tok + n)

def rd32 (w : Who) (va : Nat) : Act Nat := do let bs ← rdVa w va 4; pure (leNat bs)
def wr32 (w : Who) (va v : Nat) : Act Unit := wrVa w va (leBytes 4 v)

/-! ### Spilling and dropping (R189, R192) -/

/-- The next lower tier of the space: one that has frames. -/
def KvSpace.lower (p : KvSpace) (t : Nat) : Option Nat :=
  ([1, 2].filter (fun u => decide (t < u) && decide (0 < (p.tier u).frames))).head?

/-- Page moves under way from a tier. -/
def KvSpace.leaving (p : KvSpace) (t : Nat) : Nat := (p.moves.filter (fun m => m.tier == t)).length

/-- The page of lowest LAST_USE among those that pass a test; ties go to the lower number. -/
def victim (w : Who) (k : Nat) (ok : Nat → PageEntry → Act Bool) : Act (Option (Nat × PageEntry)) := do
  let p ← getSpace w k
  (List.range p.pagesMax).foldlM (fun (best : Option (Nat × PageEntry)) n => do
    let e ← rdEntry w k n
    let good ← ok n e
    pure (if good && (match best with
      | some b => decide (e.lastUse < b.2.lastUse)
      | none => true) then some (n, e) else best)) none

/-- The CREATOR of the page is defined and has recipes (R192, R195). -/
def recomputable (w : Who) (k : Nat) (e : PageEntry) : Act Bool := do
  let r ← rdSeq w k e.creator
  pure (r.valid && decide (r.recipeVa ≠ 0))

def droppable (w : Who) (k : Nat) (e : PageEntry) : Act Bool := do
  if e.state = pgSealed ∧ e.tier = 0 ∧ e.pin = false then recomputable w k e else pure false

/-- A page is dropped: its frame is released and nothing is copied. -/
def dropPage (w : Who) (k n : Nat) (e : PageEntry) : Act Unit := do
  giveFrame w k e.tier e.frame
  wrEntry w k n { e with state := pgDropped, tier := 3 }
  hdrInc w k hDrops

/-- One victim of a tier is dropped or begins to move to the next lower tier; `below` makes room there, told whether no frame was to be had. A
page whose move was abandoned is passed over (R195), and one that the allocating descriptor names (R188, R191). False: nothing can be done now. -/
def relieve (below : Bool → Act Unit) (w : Who) (k t : Nat) : Act Bool := do
  let p ← getSpace w k
  let s ← get
  let low := p.lower t
  let full : Bool := match low with
    | some u => decide (p.freeNow s w u < (p.tier u).lwm)
    | none => true
  let drop ← if t = 0 ∧ (p.drop = 1 ∨ (p.drop = 2 ∧ full = true)) then
      victim w k (fun n e => if p.keep.contains n then pure false else droppable w k e)
    else pure none
  match drop with
  | some (n, e) => do
    dropPage w k n e
    pure true
  | none =>
    match low with
    | none => pure false
    | some u =>
      if p.drop = 2 ∧ t = 0 ∧ full = true then pure false
      else do
        let passed := ((p.tier t).relief).getD [] ++ p.keep
        match ← victim w k (fun n e => pure (e.settled && decide (e.tier = t) && !e.pin && !passed.contains n)) with
        | none => pure false
        | some (n, e) => do
          match ← takeFrame w k u with
          | none => do
            below true
            pure false
          | some f => do
            wrEntry w k n { e with state := pgSpilling }
            modSpace w k (fun q => { q with moves := q.moves ++ [⟨n, t, e.frame, u, f⟩] })
            below false
            pure true

/-- The relief of a tier begins, goes on with pages to pass over, or ends. -/
def setRelief (w : Who) (k t : Nat) (v : Option (List Nat)) : Act Unit :=
  modSpace w k (fun p => { p with tiers := p.tiers.set t { p.tier t with relief := v } })

/-- Free frames that a relief brings the tier to: HWM, and one at least (log entry 73). -/
def KvTier.goal (t : KvTier) : Nat := max t.hwm 1

/-- A tier that is being relieved: victims until it has, or will have, HWM free frames. -/
def relieveTo (below : Bool → Act Unit) (w : Who) (k t : Nat) : Nat → Act Unit
  | 0 => pure ()
  | fuel + 1 => do
    let p ← getSpace w k
    if (p.tier t).relief.isNone then pure ()
    else if (p.tier t).goal ≤ (p.tier t).free then setRelief w k t none
    else if (p.tier t).goal ≤ (p.tier t).free + p.leaving t then pure ()
    else do
      let more ← relieve below w k t
      if more then relieveTo below w k t fuel else pure ()

/-- After an allocation: a tier with fewer free frames than its LWM is relieved (R189), and one that lacked a frame to give (R188). -/
def makeRoomIn (below : Bool → Act Unit) (w : Who) (k t : Nat) (lacking : Bool) : Act Unit := do
  let p ← getSpace w k
  if ((p.tier t).free < (p.tier t).lwm ∨ lacking = true) ∧ (p.tier t).relief.isNone then setRelief w k t (some []) else pure ()
  relieveTo below w k t (p.pagesMax + 1)

def makeRoomBelow (w : Who) (k : Nat) : Bool → Act Unit := makeRoomIn (fun _ => pure ()) w k 1
def makeRoom (w : Who) (k : Nat) : Bool → Act Unit := makeRoomIn (makeRoomBelow w k) w k 0

/-- The reliefs that are under way go on, with the frames that have come free (R189). -/
def resumeRelief (w : Who) (k : Nat) : Act Unit := do
  let p ← getSpace w k
  relieveTo (fun _ => pure ()) w k 1 (p.pagesMax + 1)
  relieveTo (makeRoomBelow w k) w k 0 (p.pagesMax + 1)

/-- A frame of the stack tier, and the spilling or dropping that its allocation calls for, of pages that the allocating descriptor does not
name; with none free, a drop may give one (R188). -/
def takeStackFrame (w : Who) (k : Nat) (mine : List Nat) : Act (Option Nat) := do
  let got ← takeFrame w k 0
  modSpace w k (fun q => { q with keep := mine })
  let p ← getSpace w k
  if got.isNone ∨ (p.tier 0).free < (p.tier 0).lwm then makeRoom w k got.isNone else pure ()
  match got with
  | some f => pure (some f)
  | none => takeFrame w k 0

/-! ### Promotion and recompute (R191, R194) -/

/-- The page agent of a context: accesses that no descriptor of a ring makes. -/
def agentWho (c : Nat) : Who := { ctx := c, ring := 64, index := 0 }

/-- The page agent goes on whatever an access of it met. -/
def quietly {α : Type} (a : Act α) : Act Unit := fun s =>
  match a s with
  | .ok _ s' => .ok () s'
  | .error _ s' => .ok () s'

/-- The page agent as it reads a page in Permafrost: its requests carry the page's number in place of a descriptor's index. -/
def pageWho (c k page : Nat) : Who := { agentWho c with index := BitVec.ofNat 32 (k * 2 ^ 25 + page), again := true }

/-- The requests for n bytes of a page in Permafrost, and the read that stands until it is taken (R190, R191). -/
def sendPageRead (w : Who) (k n : Nat) (r : PageRead) : Act Unit := do
  let ps ← xlRange w r.va n false
  ps.forM (fun q => do
    let s ← get
    if s.backing q.1 = .pmt then frostRead (pageWho w.ctx k r.page) q.1 q.2 else pure ())
  modSpace w k (fun p => { p with reads := p.reads ++ [r] })

/-- Requests for the page are on their way. -/
def State.pageAsked (s : State) (c k page : Nat) : Bool :=
  let w := pageWho c k page
  (List.range 8).any (fun n => (s.pdev n).reqs.any (fun r => !r.write && r.ctx == c && r.ring == w.ring && r.index == w.index))

/-- The descriptor's read of n bytes of a page, for a tile. -/
def Who.pageRead (w : Who) (tile page va : Nat) : PageRead := ⟨w.ring, w.index, tile, page, va, none⟩
/-- The same read, whatever has come of it. -/
def PageRead.same (r q : PageRead) : Bool := { r with bad := none } == { q with bad := none }

/-- A part of a page that a descriptor reads has come: at once but from Permafrost, where it is asked for and awaited; a line of it that could
not be read ends the descriptor (R190, R195, R243). -/
def pageHere (w : Who) (k n tier : Nat) (r : PageRead) : Act Bool := do
  if tier ≠ 2 then pure true
  else do
    let p ← getSpace w k
    match p.reads.find? r.same with
    | none => do
      sendPageRead w k n r
      pure false
    | some q =>
      match q.bad with
      | some res => throw ⟨0x32, res⟩
      | none => do
        let s ← get
        pure (!s.pageAsked w.ctx k r.page)

/-- The bytes of a frame whose reads have come (R190, R243). -/
def lookVa (w : Who) (va n : Nat) : Act (List Byte) := do
  let ps ← xlRange w va n false
  let s ← get
  pure (ps.map (fun q => s.peek q.1 q.2)).flatten

/-- n bytes of a page that is here. -/
def readPage (w : Who) (tier va n : Nat) : Act (List Byte) := if tier = 2 then lookVa w va n else rdVa w va n

/-- Reads end. -/
def dropReads (w : Who) (k : Nat) (which : PageRead → Bool) : Act Unit :=
  modSpace w k (fun p => { p with reads := p.reads.filter (fun r => !which r) })

/-- A move out of Permafrost reads its frame, and its copy waits for the reads (R190, R243). -/
def readFrame (c k page t f : Nat) : Act Unit := do
  let w := agentWho c
  let p ← getSpace w k
  quietly (sendPageRead w k p.fb ⟨64, 0, 0, page, p.frameVa t f, none⟩)

/-- A line of a page could not be read: the reads of the page that stand know it (R195, R243). -/
def State.pageFailed (s : State) (c : Nat) (index : Word) (res : DWord) : State :=
  let k := index.toNat / 2 ^ 25
  s.modCtx c (fun x => { x with spaces := tput x.spaces k { x.space k with
    reads := (x.space k).reads.map (fun r => if r.page = index.toNat % 2 ^ 25 ∧ r.bad.isNone then { r with bad := some res } else r) } })

/-- A page of a lower tier begins to move to the stack tier; false when no frame is to be had now. -/
def promote (w : Who) (k n : Nat) (mine : List Nat) (e : PageEntry) : Act Bool := do
  match ← takeStackFrame w k mine with
  | none => pure false
  | some f => do
    wrEntry w k n { e with state := pgFetching }
    modSpace w k (fun q => { q with moves := q.moves ++ [⟨n, e.tier, e.frame, 0, f⟩] })
    if e.tier = 2 then readFrame w.ctx k n e.tier e.frame else pure ()
    pure true

/-- A dropped page begins its recompute; false when no frame is to be had now. -/
def startRecompute (w : Who) (k n : Nat) (mine : List Nat) (e : PageEntry) : Act Bool := do
  match ← takeStackFrame w k mine with
  | none => pure false
  | some f => do
    wrEntry w k n { e with state := pgRecomputing }
    let s ← get
    modSpace w k (fun q => { q with recomps := q.recomps ++ [⟨n, f, w.ring, w.index, s.unitOf w / 16⟩] })
    pure true

/-- No frame of the stack tier is free, and nothing is under way that could bring one or make a victim of a page: an allocation fails after
spilling and dropping (R188, R192). -/
def noFrameComing (w : Who) (k : Nat) : Act Bool := do
  let p ← getSpace w k
  pure (decide ((p.tier 0).free = 0) && p.moves.isEmpty && p.recomps.isEmpty)

/-! ### What a descriptor leaves at its end (R186, R188, R189, R198) -/

/-- Pages and frames that an append took and did not use are returned. -/
def returnTaken (w : Who) (k : Nat) (taken : List (Nat × Nat)) : Act Unit :=
  taken.forM (fun p => do
    giveFrame w k 0 p.2
    givePage w k p.1)

/-- A descriptor that names a space ends: the reads of pages that it made and the pages that it kept are no longer its (R189, R191). -/
def Ctx.endReads (x : Ctx) (k : Nat) (d : Desc) : Ctx :=
  let p := x.space k
  if p.reads.isEmpty && p.keep.isEmpty then x
  else { x with spaces := tput x.spaces k { p with reads := p.reads.filter (fun r => !(r.ring == d.ring && r.index == d.index)), keep := [] } }

/-- The page agent acts; what it did before an access failed stays. -/
def State.agent (s : State) (a : Act Unit) : State :=
  match a s with
  | .ok _ s' => s'
  | .error _ s' => s'

/-- An append or scatter: layer, layers, POS, N. -/
def Desc.kvSpan (d : Desc) : Nat × Nat × Nat × Nat :=
  (fld (d.word 3) 32 16, if d.opcode = 0x402 then 1 else fld (d.word 3) 48 16, fld (d.word 4) 0 32, fld (d.word 4) 32 24)

/-- The pages of a span of tokens: page number in the map, first and end offset in the page. -/
def pagesOf (tok pos n : Nat) : List (Nat × Nat × Nat) :=
  if n = 0 then []
  else (List.range ((pos + n - 1) / tok - pos / tok + 1)).map (fun i =>
    let p := pos / tok + i
    (p, max pos (p * tok) - p * tok, min (pos + n) ((p + 1) * tok) - p * tok))

/-- FILL and LEN advance at the completion of an append (R188). -/
def advanceLen (w : Who) (k q layer layers pos n : Nat) : Act Unit := do
  let p ← getSpace w k
  let r ← rdSeq w k q
  (List.range layers).forM (fun i => do
    (List.range r.hkv).forM (fun h => (pagesOf p.tok pos n).forM (fun g => do
      let m ← rd32 w (mapVa p r (layer + i) h g.1)
      let e ← rdEntry w k m
      let e' := { e with fill := g.2.2 }
      wrEntry w k m (if e.state = pgOpen ∧ g.2.2 = p.tok then { e' with state := pgSealed } else e')))
    wr32 w (lenVa p r (layer + i)) (pos + n))

/-- A descriptor of group 0x4 ends with a status (which completions count for USE is log entry 89): an append that completed advances FILL and LEN, USE counts, the read-epoch is
released, an append that was waiting for frames gives back what it took, and spilling goes on with the frames that have come free. -/
def State.kvEnd (s : State) (c : Nat) (d : Desc) (status : BitVec 8) : State :=
  let op := d.opcode
  let w := d.who c
  let k := d.kvSpace
  if ((s.ctx c).space k).geom = 0 ∨ (s.ctx c).st = .dead then s
  else
    let s0 := s.modCtx c (fun x => x.endReads k d)
    let s1 := match d.prog with
      | .kvAlloc k' taken => s0.agent (returnTaken w k' taken)
      | _ => s0
    let (layer, layers, pos, n) := d.kvSpan
    let s2 := if (op = 0x402 ∨ op = 0x403) ∧ d.issued = true ∧ status = 0 then
        s1.agent (do
          advanceLen w k d.kvSeq layer layers pos n
          hdrInc w k hUse)
      else if op = 0x406 ∧ status = 0 then s1.agent (hdrInc w k hUse)
      else s1
    let s3 := if op ∈ [0x402, 0x403, 0x407] then s2.agent (dropEpoch w k) else s2
    s3.agent (resumeRelief w k)

end Sys2Proof.Machine
end

