-- ==== Sys2Proof/Machine/Transc.lean ====
section
/-! DEFINITION. Transc.lean: the transcendental functions of the vector engine (R133), on exact integers.

Each function answers a value that agrees with the exact one to more than 150 significant bits (exactly, where the exact
value is dyadic), so that rounding it to FP32 rounds the exact value. -/
namespace Sys2Proof.Machine

/-- Fraction bits of the fixed-point numbers of this file. -/
def fixP : Nat := 320

/-- ln 2 in units of 2^-320. -/
def fixLn2 : Nat := 0xb17217f7d1cf79abc9e3b39803f2f6af40f343267298b62d8a0d175b8baafa2be7b876206debac98

/-- 2/√π in units of 2^-320. -/
def fixErf : Nat := 0x120dd750429b6d11ae3a914fed7fd8688281341d7587cea2e7342b06199cc416180eb39f0b24e1e22

/-- A signed value as m·2^e. -/
def vOfInt (x : Int) (e : Int) : Val := .fin (decide (x < 0)) x.natAbs e

/-- Terms y^k/k! from `term` on, summed. -/
def expTerms (y : Nat) : Nat → Nat → Nat → Nat → Nat
  | 0, _, _, acc => acc
  | f + 1, k, term, acc => expTerms y f (k + 1) (term * y / 2 ^ fixP / k) (acc + term)

/-- e^y for 0 ≤ y < 1 in units of 2^-320. -/
def expFix (y : Nat) : Nat := expTerms y 90 1 (2 ^ fixP) 0

/-- A value below 1 by less than any FP32 half step. -/
def nearOne (neg : Bool) : Val := .fin neg (2 ^ 100 - 1) (-100)

/-- 2^x. -/
def exp2Val (neg : Bool) (m : Nat) (e : Int) : Val :=
  if m = 0 then .fin false 1 0
  else if 8 ≤ vLog2 m e then (if neg then .fin false 1 (-500) else .fin false 1 500)
  else
    let x := alignTo neg m e (-(fixP : Int))
    let n := x / (2 ^ fixP : Nat)
    let f := (x % (2 ^ fixP : Nat)).toNat
    if f = 0 then .fin false 1 n else .fin false (expFix (f * fixLn2 / 2 ^ fixP)) (n - fixP)

/-- e^x as mantissa in units of 2^-320 and a power of two, for |x| < 256. -/
def expParts (neg : Bool) (m : Nat) (e : Int) : Nat × Int :=
  let x := alignTo neg m e (-(fixP : Int))
  let n := x / (fixLn2 : Int)
  (expFix (x - n * fixLn2).toNat, n)

/-- e^x. -/
def expVal (neg : Bool) (m : Nat) (e : Int) : Val :=
  if m = 0 then .fin false 1 0
  else if 8 ≤ vLog2 m e then (if neg then .fin false 1 (-500) else .fin false 1 500)
  else
    let p := expParts neg m e
    .fin false p.1 (p.2 - fixP)

/-- Terms z^(2j+1)/(2j+1) of artanh z, summed. -/
def atanhTerms (zz : Nat) : Nat → Nat → Nat → Nat → Nat
  | 0, _, _, acc => acc
  | f + 1, k, pow, acc => atanhTerms zz f (k + 2) (pow * zz / 2 ^ fixP) (acc + pow / k)

/-- ln of m·2^e in units of 2^-320, m > 0. -/
def lnFix (m : Nat) (e : Int) : Int :=
  let k := Nat.log2 m
  let z := (m - 2 ^ k) * 2 ^ fixP / (m + 2 ^ k)
  ((k : Int) + e) * fixLn2 + 2 * (atanhTerms (z * z / 2 ^ fixP) 110 1 z 0 : Nat)

def lnVal (m : Nat) (e : Int) : Val := vOfInt (lnFix m e) (-(fixP : Int))

def log2Val (m : Nat) (e : Int) : Val :=
  if m = 2 ^ Nat.log2 m then vOfInt ((Nat.log2 m : Int) + e) 0
  else
    let l := lnFix m e
    .fin (decide (l < 0)) (l.natAbs * 2 ^ fixP / fixLn2) (-(fixP : Int))

/-- Newton's iteration for the integer square root, from above. -/
def isqrtStep (n : Nat) : Nat → Nat → Nat
  | 0, x => x
  | f + 1, x =>
    let y := (x + n / x) / 2
    if y < x then isqrtStep n f y else x

/-- The integer square root. -/
def isqrt (n : Nat) : Nat := if n = 0 then 0 else isqrtStep n (Nat.log2 n + 4) (2 ^ (Nat.log2 n / 2 + 1))

/-- 1/x, with a sticky bit below the quotient. -/
def rcpVal (neg : Bool) (m : Nat) (e : Int) : Val :=
  let q := 2 ^ fixP / m
  .fin neg (2 * q + b2n (decide (q * m ≠ 2 ^ fixP))) (-(fixP : Int) - 1 - e)

/-- The mantissa and exponent of x with an even exponent. -/
def evenExp (m : Nat) (e : Int) : Nat × Int := if e % 2 = 0 then (m, e) else (2 * m, e - 1)

def sqrtVal (m : Nat) (e : Int) : Val :=
  let (m, e) := evenExp m e
  let n := m * 2 ^ fixP
  let r := isqrt n
  .fin false (2 * r + b2n (decide (r * r ≠ n))) (e / 2 - (fixP / 2 : Nat) - 1)

def rsqrtVal (m : Nat) (e : Int) : Val :=
  let (m, e) := evenExp m e
  let r := isqrt (2 ^ (2 * fixP) / m)
  .fin false (2 * r + b2n (decide (r * r * m ≠ 2 ^ (2 * fixP)))) (-(e / 2) - fixP - 1)

def tanhVal (neg : Bool) (m : Nat) (e : Int) : Val :=
  if m = 0 ∨ vLog2 m e < -30 then .fin neg m e
  else if 5 ≤ vLog2 m e then nearOne neg
  else
    let p := expParts false m (e + 1)
    let x := p.1 <<< p.2.toNat
    .fin neg ((x - 2 ^ fixP) * 2 ^ fixP / (x + 2 ^ fixP)) (-(fixP : Int))

def sigmoidVal (neg : Bool) (m : Nat) (e : Int) : Val :=
  if m = 0 then .fin false 1 (-1)
  else if 7 ≤ vLog2 m e then (if neg then .fin false 1 (-400) else nearOne false)
  else
    let p := expParts false m e
    let x := p.1 <<< p.2.toNat
    .fin false ((if neg then 2 ^ fixP else x) * 2 ^ fixP / (x + 2 ^ fixP)) (-(fixP : Int))

/-- Terms (−1)^n x^(2n)/(n!(2n+1)), summed; xx is x² in units of 2^-320. -/
def erfTerms (xx : Nat) : Nat → Nat → Int → Nat → Int → Int
  | 0, _, _, _, acc => acc
  | f + 1, n, sg, p, acc =>
    erfTerms xx f (n + 1) (-sg) (p * xx / 2 ^ fixP / (n + 1)) (acc + sg * (p / (2 * n + 1) : Nat))

def erfVal (neg : Bool) (m : Nat) (e : Int) : Val :=
  if m = 0 then .fin neg 0 0
  else if 2 ≤ vLog2 m e then nearOne neg
  else
    let x := (alignTo false m e (-(fixP : Int))).toNat
    .fin neg (m * (erfTerms (x * x / 2 ^ fixP) 200 0 1 (2 ^ fixP) 0).toNat * fixErf) (e - 2 * fixP)

/-- The value of transcendental stage opcode `sop` (R132, R133) at a value. -/
def transc (sop : Nat) (v : Val) : Val :=
  match v with
  | .nan => .nan
  | .inf neg =>
    match sop with
    | 0x10 => if neg then .fin false 0 0 else .inf false
    | 0x11 => if neg then .fin false 0 0 else .inf false
    | 0x12 => if neg then .nan else .inf false
    | 0x13 => if neg then .nan else .inf false
    | 0x14 => .fin neg 0 0
    | 0x15 => if neg then .nan else .fin false 0 0
    | 0x16 => if neg then .nan else .inf false
    | 0x17 => .fin neg 1 0
    | 0x18 => if neg then .fin false 0 0 else .fin false 1 0
    | _ => .fin neg 1 0
  | .fin neg m e =>
    match sop with
    | 0x10 => exp2Val neg m e
    | 0x11 => expVal neg m e
    | 0x12 => if m = 0 then .inf true else if neg then .nan else log2Val m e
    | 0x13 => if m = 0 then .inf true else if neg then .nan else lnVal m e
    | 0x14 => if m = 0 then .inf neg else rcpVal neg m e
    | 0x15 => if m = 0 then .inf neg else if neg then .nan else rsqrtVal m e
    | 0x16 => if m = 0 then .fin neg 0 0 else if neg then .nan else sqrtVal m e
    | 0x17 => tanhVal neg m e
    | 0x18 => sigmoidVal neg m e
    | _ => erfVal neg m e

end Sys2Proof.Machine
end

