-- ==== Sys2Proof/Machine/Stage.lean ====
section
/-! DEFINITION. Stage.lean: the stages of the vector engine (R129 to R134): stage words, their checks, and a row's run
through a sequence of stages. -/
namespace Sys2Proof.Machine

/-! ### Stream values -/

/-- A value read from storage. -/
def SV.of (w : Word) : SV := ⟨w, false, false⟩
def SV.val (a : SV) : Val := f32val a.w
def SV.isInf (a : SV) : Bool := match a.val with
  | .inf _ => true
  | _ => false
def SV.isNan (a : SV) : Bool := match a.val with
  | .nan => true
  | _ => false
def SV.isZero (a : SV) : Bool := match a.val with
  | .fin _ m _ => decide (m = 0)
  | _ => false
def SV.isNeg (a : SV) : Bool := a.w.msb
def svNan : SV := SV.of f32nan
def svZero : SV := SV.of 0
def svNinf : SV := SV.of f32ninf

/-- The result of an FP32 operation with exact value `v` on operands `ins` (R71, R74). -/
def svOp (v : Val) (ins : List SV) : SV :=
  let (w, fl) := toF32F v
  let r := SV.of w
  ⟨w, r.isInf && (decide (fl &&& nfOvfNs ≠ 0) || ins.any (fun a => a.isInf && a.ov)), decide (fl &&& nfUnf ≠ 0)⟩

def svAdd (a b : SV) : SV := svOp (vAdd a.val b.val) [a, b]
def svNeg (a : SV) : SV := if a.isNan then svNan else { a with w := a.w ^^^ 0x80000000 }
def svAbs (a : SV) : SV := if a.isNan then svNan else { a with w := a.w &&& 0x7FFFFFFF }
def svSub (a b : SV) : SV := svOp (vAdd a.val (vNeg b.val)) [a, b]
def svMul (a b : SV) : SV := svOp (vMul a.val b.val) [a, b]
def svFma (a b c : SV) : SV := svOp (vAdd (vMul a.val b.val) c.val) [a, b, c]

/-- IEEE 754-2019 maximum: a NaN gives the canonical NaN, and +0 is above −0. -/
def svMax (a b : SV) : SV :=
  if a.isNan || b.isNan then svNan
  else if vLt a.val b.val then b
  else if vLt b.val a.val then a
  else if a.isNeg then b else a

/-- IEEE 754-2019 minimum. -/
def svMin (a b : SV) : SV :=
  if a.isNan || b.isNan then svNan
  else if vLt a.val b.val then a
  else if vLt b.val a.val then b
  else if a.isNeg then a else b

/-- The value of a stage that passes its operand on; a NaN becomes the canonical one. -/
def svCopy (a : SV) : SV := if a.isNan then svNan else a

def svPairUp : List SV → List SV
  | [] => []
  | [a] => [svAdd a svZero]
  | a :: b :: r => svAdd a b :: svPairUp r

def svTreeFuel : Nat → List SV → SV
  | 0, l => l.headD svZero
  | _ + 1, [] => svZero
  | _ + 1, [x] => x
  | n + 1, l => svTreeFuel n (svPairUp l)

/-- The balanced tree of R83. -/
def svTree (l : List SV) : SV := svTreeFuel l.length l

/-- The flags of a value written as FP32 (R74). -/
def SV.flags (a : SV) : NumFlags :=
  (if a.isNan then nfNan else 0) ||| (if a.isInf && a.ov then nfOvfNs else 0) ||| (if a.isZero && a.un then nfUnf else 0)

/-- A value converted to the element format of a format code, with the flags of the write (R72, R74). -/
def svConvert (code : Nat) (r : Rnd) (sat : Bool) (a : SV) : Nat × NumFlags :=
  let (x, fl) := convert (codeFmt code) r sat a.val
  (x, fl ||| (if a.isInf && a.ov && !sat then nfOvfNs else 0) ||| (if a.isZero && a.un then nfUnf else 0))

/-! ### Stage words (R130 to R132) -/

/-- A stage word. -/
abbrev StageWord := DWord

def StageWord.sop (w : StageWord) : Nat := fld w 0 6
def StageWord.sel (w : StageWord) (k : Nat) : Nat := fld w (8 + 8 * k) 4
def StageWord.idx (w : StageWord) (k : Nat) : Nat := fld w (12 + 8 * k) 4
def StageWord.mode (w : StageWord) : Nat := fld w 32 4
def StageWord.wslot (w : StageWord) : Nat := fld w 36 2
def StageWord.wslot2 (w : StageWord) : Nat := fld w 38 2
def StageWord.imm (w : StageWord) : Int := sgn 24 (fld w 40 24)

/-- The operands that a stage opcode reads (0 = A, 1 = B, 2 = C); MASKPOS reads B when MODE[1] is set, and without it B is unused (DEDUCED, log
entry 79). None: the opcode is reserved. -/
def sopUses (sop mode : Nat) : Option (List Nat) :=
  if sop ∈ [0x00, 0x07, 0x08, 0x28, 0x29, 0x2A] then some [0]
  else if sop ∈ [0x01, 0x02, 0x03, 0x05, 0x06, 0x0A, 0x21, 0x2B, 0x2C] then some [0, 1]
  else if sop ∈ [0x04, 0x09, 0x0B, 0x2D] then some [0, 1, 2]
  else if sop = 0x20 then some (if mode / 2 % 2 = 1 then [0, 1] else [0])
  else if 0x10 ≤ sop ∧ sop ≤ 0x19 then some [0]
  else none

/-- The MODE bits that an opcode defines. -/
def sopModes (sop : Nat) : Nat :=
  match sop with
  | 0x03 => 1
  | 0x20 => 7
  | 0x21 => 4
  | 0x28 => 1
  | 0x29 => 1
  | _ => 0

/-- A stage that writes row state. -/
def sopWrites (sop : Nat) : Bool := decide (sop ∈ [0x28, 0x29, 0x2A, 0x2C])

def StageWord.writesRow (w : StageWord) : Bool := sopWrites w.sop
def StageWord.uses (w : StageWord) : List Nat := (sopUses w.sop w.mode).getD []

/-- A stage selects an operand source. -/
def StageWord.selects (w : StageWord) (sel : Nat) : Bool := w.uses.any (fun k => w.sel k == sel)

/-- The lowest bit of the fields that the failing condition of a refused stage word reads (R131, R132, R487), `nconst` constants at hand: what
an opcode requires of a field reads SOP, at bit 0, and what a selector requires of its index reads the selector. Whether a field is unused is
judged by the opcode with its MODE (DEDUCED, log entry 79). -/
def stageBad (w : StageWord) (nconst : Nat) : Option Nat :=
  match sopUses w.sop w.mode with
  | none => some 0
  | some us =>
    let opnd (k : Nat) : List (Bool × Nat) :=
      if us.contains k then
        [ (decide (6 ≤ w.sel k), 8 + 8 * k),
          (k == 1 && w.sop == 0x2C && decide (w.sel 1 ≠ 4) && decide (w.sel 1 ≠ 5), 0),
          (decide (w.sel k ≤ 3) && decide (w.idx k ≠ 0), 8 + 8 * k),
          (decide (w.sel k = 4) && decide (nconst ≤ w.idx k), 8 + 8 * k),
          (decide (w.sel k = 5) && decide (4 ≤ w.idx k), 8 + 8 * k) ]
      else [ (decide (w.sel k ≠ 0) || decide (w.idx k ≠ 0), 0) ]
    let all := (decide (fld w 6 2 ≠ 0), 6) :: opnd 0 ++ opnd 1 ++ opnd 2 ++
      [ (decide (w.mode &&& (15 - sopModes w.sop) ≠ 0)
          || (!w.writesRow && decide (w.wslot ≠ 0))
          || (decide (w.sop ≠ 0x2A) && decide (w.wslot2 ≠ 0))
          || (!(w.sop == 0x20 && w.mode % 2 == 1) && decide (w.imm ≠ 0)), 0) ]
    (all.find? (·.1)).map (·.2)

/-! ### A row through the stages -/

/-- An operand of MASKPOS or MASKLEN as an integer: truncated toward zero and saturated to ±2^24; NaN is 0 (R132). -/
def maskInt (a : SV) : Int :=
  let clamp (neg : Bool) (n : Nat) : Int := if neg then -(min n (2 ^ 24) : Nat) else (min n (2 ^ 24) : Nat)
  match a.val with
  | .nan => 0
  | .inf neg => clamp neg (2 ^ 24)
  | .fin neg m e => if 0 ≤ e then clamp neg (m <<< e.toNat) else clamp neg (m >>> (-e).toNat)

/-- A stage that works element by element. -/
def stageElem (w : StageWord) (pr pc : Nat) (a b c : SV) : SV :=
  match w.sop with
  | 0x00 => svCopy a
  | 0x01 => svAdd a b
  | 0x02 => svSub a b
  | 0x03 => if w.mode % 2 = 1 ∧ (a.isZero ∨ b.isZero) then svZero else svMul a b
  | 0x04 => svFma a b c
  | 0x05 => svMax a b
  | 0x06 => svMin a b
  | 0x07 => svAbs a
  | 0x08 => svNeg a
  | 0x09 => svMin (svMax a b) c
  | 0x0A => if vLt b.val a.val then SV.of f32one else svZero
  | 0x0B => if c.isZero then svCopy b else svCopy a
  | 0x20 =>
    if (w.mode % 2 = 1 ∧ (pr : Int) + w.imm < pc) ∨ (w.mode / 2 % 2 = 1 ∧ (pc : Int) < pr - maskInt b) then
      (if w.mode / 4 % 2 = 1 then svZero else svNinf)
    else svCopy a
  | 0x21 => if maskInt b ≤ pc then (if w.mode / 4 % 2 = 1 then svZero else svNinf) else svCopy a
  | 0x2B => if b.w = f32ninf then { svNinf with ov := b.ov || (a.isInf && a.ov) } else svSub a b
  | 0x2D => if b.isZero then svCopy a else svFma b c a
  | sop => svOp (transc sop a.val) [a]

/-- A row on its way: its operands, its constants, its positions, its row-state record, the slots written, and the flags of
row state written. -/
structure RowRun where
  v : List SV
  x : List SV
  y : List SV
  z : List SV
  consts : List Word
  pr : Nat
  pcs : List Nat
  rs : List SV
  wrote : List Nat
  flags : NumFlags
  deriving DecidableEq, Repr

/-- Operand k of a stage at element i. -/
def RowRun.opnd (q : RowRun) (w : StageWord) (k i : Nat) : SV :=
  match w.sel k with
  | 0 => q.v.getD i svZero
  | 1 => q.x.getD i svZero
  | 2 => q.y.getD i svZero
  | 3 => q.z.getD i svZero
  | 4 => SV.of (q.consts.getD (w.idx k) 0)
  | _ => q.rs.getD (w.idx k) svZero

/-- A row-state slot is written. -/
def RowRun.put (q : RowRun) (slot : Nat) (a : SV) : RowRun :=
  { q with rs := q.rs.set slot (SV.of a.w), wrote := q.wrote ++ [slot], flags := q.flags ||| a.flags }

/-- One stage over the row (R132, R134). -/
def RowRun.stage (q : RowRun) (w : StageWord) : RowRun :=
  let n := q.v.length
  let as := (List.range n).map (fun i => svCopy (q.opnd w 0 i))
  let old := q.rs.getD w.wslot svZero
  match w.sop with
  | 0x28 =>
    let m := as.foldl svMax svNinf
    { q.put w.wslot (if w.mode % 2 = 1 then svMax old m else m) with v := as }
  | 0x29 =>
    let t := svTree as
    { q.put w.wslot (if w.mode % 2 = 1 then svAdd t old else t) with v := as }
  | 0x2A =>
    let m := svMax old (as.foldl svMax svNinf)
    let al := if old.w = f32ninf then svZero else let d := svSub old m; svOp (transc 0x10 d.val) [d]
    { (q.put w.wslot2 al).put w.wslot m with v := as }
  | 0x2C => { q.put w.wslot (svFma (q.opnd w 1 0) old (svTree as)) with v := as }
  | _ => { q with v := (List.range n).map (fun i =>
      stageElem w q.pr (q.pcs.getD i 0) (q.opnd w 0 i) (q.opnd w 1 i) (q.opnd w 2 i)) }

/-- The stages in order. -/
def RowRun.run (q : RowRun) (ws : List StageWord) : RowRun := ws.foldl RowRun.stage q

/-- A stage that writes row state is followed by another stage (R109, R124). -/
def rowHeld : List StageWord → Bool
  | [] => false
  | w :: r => (w.writesRow && !r.isEmpty) || rowHeld r

end Sys2Proof.Machine
end

