-- ==== Sys2Proof/Machine/Adds.lean ====
section
/-! DEFINITION. Adds.lean: the lines of a MEM_ADD at their stack controllers (R215, R226 to R229). -/
namespace Sys2Proof.Machine

/-- What MEM_ADD's words say of one addition: destination format, ROUND, ZERO_FIRST, rounding block. -/
structure AddForm where
  fmt : Nat
  round : Nat
  zero : Bool
  rnd : RndBlock
  deriving DecidableEq, Repr

def Desc.addForm (d : Desc) : AddForm :=
  ⟨fld (d.word 3) 6 4, fld (d.word 3) 10 3, bit (d.word 3) 13, rndBlock (d.word 11) (d.word 12)⟩

/-- A value written in the destination format: an FP32 destination is the sum itself, a BF16 one is converted by ROUND (R227). -/
def AddForm.write (f : AddForm) (n : Nat) (a : SV) : Nat × NumFlags :=
  if f.fmt = 0 then ((svCopy a).w.toNat, a.flags) else svConvert f.fmt (roundOf f.round f.rnd n) (roundSat f.round) a

/-- The line after its addition: element by element one FP32 addition by RNE (R85, R227). -/
def AddForm.apply (f : AddForm) (l : AddLine) (old : List Byte) : List Byte × NumFlags :=
  let eb := codeBytes f.fmt 1
  let out := (List.range l.vals.length).map (fun i =>
    let src := SV.of (l.vals.getD i 0)
    f.write (l.n + i) (if f.zero then src else svAdd (SV.of (elemF32 f.fmt (elemBits old (8 * eb) i))) src))
  ((out.map (fun x => leBytes eb x.1)).flatten, out.foldl (fun a x => a ||| x.2) 0)

/-- A controller takes a line: it reads it, unless ZERO_FIRST says not to, adds, and writes it back as one access. -/
def addLine (w : Who) (f : AddForm) (l : AddLine) : Act NumFlags := do
  let n := l.vals.length * codeBytes f.fmt 1
  guardPa w l.va (l.pa, n)
  let old ← if f.zero then pure [] else rdPa w l.pa n
  let (bs, fl) := f.apply l old
  wrPa w l.pa bs
  pure fl

/-- Lines one after another, each on its own: a line that fails stays unchanged (R228). The first failure is kept. -/
def addLines (w : Who) (f : AddForm) : List AddLine → State → State × NumFlags × Option Stop
  | [], s => (s, 0, none)
  | l :: r, s =>
    match addLine w f l s with
    | .ok fl s1 =>
      let (s2, g, e) := addLines w f r s1
      (s2, fl ||| g, e)
    | .error st s1 =>
      let (s2, g, _) := addLines w f r s1
      (s2, g, some st)

def lowestRow (lines : List AddLine) (rows : Nat) : Nat := (lines.map (·.row)).foldl min rows

/-- Lines reach their controllers: `now` of the lowest row, the rest still on their way. A failing line ends the descriptor: the other
lines of its row are added, and those lines of later rows that had already reached their controllers (R228: which of them had is
not specified). It keeps its lines, which say how many rows had been added should it be withdrawn before its record is written. -/
def State.addNow (s : State) (c : Nat) (d : Desc) (pick : AddLine → Bool) : State :=
  match d.prog with
  | .memAdd t q lines rows flags _ dest =>
    let low := lowestRow lines rows
    let f := d.addForm
    let (s1, fl, e) := addLines (d.who c) f (lines.filter pick) s
    let rest := lines.filter (fun l => !pick l)
    match e with
    | some st =>
      let (s2, _, _) := addLines (d.who c) f (rest.filter (fun l => l.row == low || Config.lineReached s1.free l.pa)) s1
      (s2.tick.finish c d.ring d.index st).setProg c d.ring d.index d.prog
    | none =>
      if rest.isEmpty then s1.finish c d.ring d.index ⟨0, at_ rows 0 ||| nfResult (flags ||| fl)⟩
      else s1.setProg c d.ring d.index (.memAdd t q rest rows (flags ||| fl) (rest.any (fun l => l.row == low)) dest)
  | _ => s

/-- Pre-emption and withdrawal let the row in progress finish (R228). -/
def State.finishRows (s : State) (c : Nat) : State :=
  (s.ctx c).descs.foldl (fun s d =>
    match d.prog with
    | .memAdd _ _ lines rows _ true _ => if d.st = .executing then s.addNow c d (fun l => l.row == lowestRow lines rows) else s
    | _ => s) s

/-- MEM_ADD_LINE: the k-th line left of the lowest row reaches its controller. -/
def execMemAddLine (ref : DescRef) (k : Nat) (s : State) : Host.Outcome State Fault Refusal :=
  .next (match s.desc ref with
    | none => s
    | some d =>
      match d.prog with
      | .memAdd _ _ lines rows _ _ _ =>
        let row := lines.filter (fun l => l.row == lowestRow lines rows)
        match row[k]? with
        | some l => if d.st = .executing ∧ (s.ctx ref.ctx).atUnits = true then s.addNow ref.ctx d (· == l) else s
        | none => s
      | _ => s)

end Sys2Proof.Machine
end

