-- ==== Sys2Proof/Machine/Net.lean ====
section
/-! DEFINITION. Net.lean: Vexja packets, ports and routing: what every sender of packets shares (R291 to R298, R301). -/
namespace Sys2Proof.Machine

/-! ### Packets (R294) -/

def Pkt.w (p : Pkt) (i : Nat) : DWord := wrd p.hdr i
def Pkt.ver (p : Pkt) : Nat := fld (p.w 0) 0 4
def Pkt.type (p : Pkt) : Nat := fld (p.w 0) 4 4
def Pkt.vc (p : Pkt) : Nat := fld (p.w 0) 8 2
def Pkt.slow (p : Pkt) : Bool := bit (p.w 0) 10
def Pkt.ackreq (p : Pkt) : Bool := bit (p.w 0) 11
def Pkt.hops (p : Pkt) : Nat := fld (p.w 0) 12 4
def Pkt.dst (p : Pkt) : Nat := fld (p.w 0) 16 14
def Pkt.src (p : Pkt) : Nat := fld (p.w 0) 32 14
def Pkt.ndata (p : Pkt) : Nat := fld (p.w 0) 48 5
def Pkt.dseq (p : Pkt) : Nat := fld (p.w 1) 0 24
def Pkt.txid (p : Pkt) : Nat := fld (p.w 1) 24 24
def Pkt.arg (p : Pkt) : DWord := p.w 3
/-- The context that a VC3 packet names (R319, R333). -/
def Pkt.destCtx (p : Pkt) : Nat := fld (p.w 2) 4 10
/-- Flits of a packet. -/
def Pkt.flits (p : Pkt) : Nat := 1 + p.data.length

/-- The channel of a packet type (R291). -/
def vcOf (type : Nat) : Nat :=
  match type with
  | 0 => 1
  | 1 => 0
  | 2 => 2
  | 3 => 2
  | _ => 3

/-- Word 0 of a header. -/
def pktWord0 (ver type : Nat) (slow ackreq : Bool) (hops dst src ndata : Nat) : DWord :=
  at_ (ver % 16) 0 ||| at_ type 4 ||| at_ (vcOf type) 8 ||| at_ (b2n slow) 10 ||| at_ (b2n ackreq) 11 ||| at_ (hops % 16) 12
    ||| at_ (dst % 2 ^ 14) 16 ||| at_ (src % 2 ^ 14) 32 ||| at_ (ndata % 32) 48

/-- A field of a word takes a value. -/
def setFld (x : DWord) (lo n v : Nat) : DWord := (x &&& ~~~ (at_ (2 ^ n - 1) lo)) ||| at_ (v % 2 ^ n) lo

def Pkt.setHdr (p : Pkt) (i lo n v : Nat) : Pkt := { p with hdr := p.hdr.set i (setFld (p.w i) lo n v) }

/-! ### Ports -/

def State.port (s : State) (p : Nat) : Port := tget Port.reset s.lnk.ports p
def State.modPort (s : State) (p : Nat) (f : Port → Port) : State :=
  { s with lnk := { s.lnk with ports := tput s.lnk.ports p (f (s.port p)) } }
def State.modLnk (s : State) (f : Links → Links) : State := { s with lnk := f s.lnk }

/-- The number of the port that stands for delivery inside the module. -/
def localPort : Nat := 15

/-- The I/O die of a port (R283). -/
def dieOf (p : Nat) : Nat := if p < 6 then 0 else 1

/-- A port that carries traffic. -/
def State.active (s : State) (p : Nat) : Bool := decide (p < s.variant.ports) && decide ((s.port p).state = 3)

/-- Element k of a list of four counts changes. -/
def modAt (l : List Nat) (k : Nat) (f : Nat → Nat) : List Nat := l.set k (f (l.getD k 0))

/-! ### Reduction and ring slots (R316, R332) -/

def Ctx.redSlot (x : Ctx) (k : Nat) : RedSlot := tget RedSlot.reset x.redSlots k
def State.modRed (s : State) (c k : Nat) (f : RedSlot → RedSlot) : State :=
  s.modCtx c (fun x => { x with redSlots := tput x.redSlots k (f (x.redSlot k)) })
/-- The step in progress changes. -/
def State.modRun (s : State) (c k : Nat) (f : RedRun → RedRun) : State := s.modRed c k (fun q => { q with run := q.run.map f })
def Ctx.jetSlot (x : Ctx) (k : Nat) : JetSlot := tget JetSlot.reset x.jetSlots k
def State.modJet (s : State) (c k : Nat) (f : JetSlot → JetSlot) : State :=
  s.modCtx c (fun x => { x with jetSlots := tput x.jetSlots k (f (x.jetSlot k)) })

/-! ### Owners of flits (R301) -/

/-- RESULT of 0x60 (R301). -/
def linkDown (port epid cause : Nat) : DWord := at_ port 0 ||| at_ (epid % 2 ^ 14) 4 ||| at_ cause 18

/-- A descriptor by its owner's number. -/
def State.ownerDesc (s : State) (o : Nat × Nat × Word) : Option Desc := (s.ctx o.1).findDesc o.2.1 o.2.2

/-- The owners of the flits that a port has not had acknowledged. -/
def Port.owners (k : Port) : List (Nat × Nat × Word) :=
  ((k.sent.filterMap (fun f => f.flit.owner)) ++ (((k.egress.map (·.2)).flatten).filterMap (·.owner))).eraseDups

/-- A descriptor's flits wait for their acknowledgement on some port. -/
def State.ownerBusy (s : State) (o : Nat × Nat × Word) : Bool := s.lnk.ports.any (fun e => e.2.owners.contains o)

/-! ### Routing (R295, R296) -/

/-- Where a packet for an endpoint goes. -/
inductive Route where
  | local_
  | port (p : Nat)
  | noPort     -- a valid entry, no active port
  | noEntry
  deriving DecidableEq, Repr

def State.route (s : State) (epid : Nat) : Route :=
  if epid = s.lnk.epid.toNat then .local_
  else
    let e := tget 0 s.lnk.routes epid
    if !bit e 8 || bit e 9 || s.lnk.badRoutes.contains epid then .noEntry
    else if s.active (fld e 0 4) then .port (fld e 0 4)
    else if s.active (fld e 4 4) then .port (fld e 4 4)
    else .noPort

/-! ### Queueing a packet (R293, R298) -/

/-- The flits of a packet. -/
def Pkt.tx (p : Pkt) (owner : Option (Nat × Nat × Word)) : List TxFlit :=
  ⟨p.vc, true, p.hdr, owner⟩ :: p.data.map (fun d => ⟨p.vc, false, d, owner⟩)

/-- The packet as it leaves on a port: the port's version, its DSEQ or its COVER (R287, R298). -/
def Port.stamp (k : Port) (p : Pkt) : Pkt :=
  let p := p.setHdr 0 0 4 k.ver.toNat
  if p.type = 0 then p.setHdr 1 0 24 k.txDseq
  else if p.type = 1 then p.setHdr 1 0 24 ((k.txDseq + 2 ^ 24 - 1) % 2 ^ 24)
  else p

/-- DSEQ goes up with each VC1 packet queued. -/
def Port.numbered (k : Port) (p : Pkt) : Port := if p.type = 0 then { k with txDseq := (k.txDseq + 1) % 2 ^ 24 } else k

/-- A packet enters the queue of an egress port, or, for delivery inside the module, arrives at once. -/
def State.enqueue (s : State) (port : Nat) (p : Pkt) (owner : Option (Nat × Nat × Word)) : State :=
  let k := s.port port
  let q := k.stamp p
  if port = localPort then
    s.modPort port (fun k => { k.numbered p with rxQ := tput k.rxQ q.vc (tget [] k.rxQ q.vc ++ [⟨q, false⟩]) })
  else
    s.modPort port (fun k => { k.numbered p with egress := tput k.egress q.vc (tget [] k.egress q.vc ++ q.tx owner) })

/-- A packet of this module is routed; none when no route is active. -/
def State.send (s : State) (p : Pkt) (owner : Option (Nat × Nat × Word)) : Option State :=
  match s.route p.dst with
  | .local_ => some (s.enqueue localPort p owner)
  | .port e => some (s.enqueue e p owner)
  | _ => none

/-- A header of this module: VER is set where the packet is queued. -/
def State.header (s : State) (type : Nat) (ackreq : Bool) (dst ndata : Nat) (w1 w2 w3 : DWord) : List DWord :=
  [pktWord0 0 type s.lnk.slow ackreq s.lnk.hopMax.toNat dst s.lnk.epid.toNat ndata, w1, w2, w3]

/-- A response to a packet: COMMIT_RSP, or NACK_RSP with STATUS and reason (R294). -/
def State.respond (s : State) (type dst txid : Nat) (arg : DWord) : State :=
  (s.send ⟨s.header type false dst 0 (at_ txid 24) 0 arg, []⟩ none).getD s

/-- NACK_RSP. -/
def State.nack (s : State) (dst txid status reason : Nat) : State := s.respond 3 dst txid (at_ status 0 ||| at_ reason 8)

/-- The TXID of a transfer is taken. -/
def State.takeTx (s : State) (signal : Bool) : State :=
  s.modLnk (fun l => { l with
    txid := (l.txid + 1) % 2 ^ 24
    sigs := l.sigs.filter (· != l.txid) ++ (if signal then [l.txid] else []) })

/-- A SIGNAL packet to an endpoint; none when no route is active. -/
def State.sendSignal (s : State) (dst : Nat) (front value : Word) (owner : Option (Nat × Nat × Word)) : Option State :=
  (s.send ⟨s.header 1 false dst 0 (at_ s.lnk.txid 24) 0 (at_ front.toNat 0 ||| at_ value.toNat 32), []⟩ owner).map (·.takeTx (decide (dst ≠ s.lnk.epid.toNat)))

/-! ### Taking a packet from a receive buffer (R291) -/

/-- A channel's oldest packet that was received whole. -/
def State.rxHead (s : State) (port vc : Nat) : Option Pkt := ((tget [] (s.port port).rxQ vc).head?).map (·.pkt)

/-- The flits of a packet leave the receive buffer, and their credits are to be returned; those of a packet from before a fresh start
have none. -/
def Port.freeRx (k : Port) (r : RxPkt) (vc : Nat) : Port :=
  if r.old then k
  else { k with rxHeld := modAt k.rxHeld vc (· - r.pkt.flits), ret := modAt k.ret vc (· + r.pkt.flits) }

/-- The oldest packet of a channel leaves its buffer. -/
def State.takeRx (s : State) (port vc : Nat) : State :=
  s.modPort port (fun k =>
    match tget [] k.rxQ vc with
    | r :: rest =>
      let k1 := { k with rxQ := tput k.rxQ vc rest }
      if port = localPort then k1 else k1.freeRx r vc
    | [] => k)

end Sys2Proof.Machine
end

