-- ==== Sys2Proof/Machine/Waits.lean ====
section
/-! DEFINITION. Waits.lean: the front units: rounds, releases, held arrivals, tallies, waits, and what the signals of peers do
(R341 to R360). -/
namespace Sys2Proof.Machine

def Tile.front (t : Tile) (i : Nat) : FrontEntry := tget FrontEntry.reset t.fronts i
def Tile.modFront (t : Tile) (i : Nat) (f : FrontEntry → FrontEntry) : Tile :=
  { t with fronts := tput t.fronts i (f (t.front i)) }
def State.front (s : State) (t i : Nat) : FrontEntry := (s.tile t).front i
def State.modFront (s : State) (t i : Nat) (f : FrontEntry → FrontEntry) : State := s.modTile t (fun k => k.modFront i f)

/-- The identifier of an entry, with KIND and GEN (R342). -/
def frontIdent (t i key kind gen : Nat) : Word :=
  BitVec.ofNat 32 (i % 4096 + t % 16 * 2 ^ 12 + kind % 4 * 2 ^ 16 + gen % 4 * 2 ^ 18 + key % 2 ^ 11 * 2 ^ 20)

/-- A front log entry (R360). -/
def State.frontLog (s : State) (t cls gen ring epid : Nat) (ident : Word) : State :=
  s.modTile t (fun k => { k with fLog := k.fLog.add 64 (fun o =>
    [at_ cls 0 ||| at_ (gen % 4) 4 ||| at_ ring 6 ||| at_ epid 16 ||| at_ ident.toNat 32, at_ o.toNat 0]) })

/-- RESULT of 0x40 (R350). -/
def frontViolation (f : Word) : Stop := ⟨0x40, at_ f.toNat 0⟩

/-! ### Waits -/

/-- The context's waits are at their units: it is placed and not being saved or restored. -/
def Ctx.waitsHere (x : Ctx) : Bool := x.sched.placed && !x.sched.saving && !x.sched.restoring

/-- The waits at a tile's unit: context and descriptor. -/
def State.waitsOn (s : State) (t : Nat) : List (Nat × Desc × FrontWait) :=
  (s.ctxs.map (fun e => e.2.descs.filterMap (fun d =>
    match d.prog with
    | .front w => if d.st = .executing ∧ w.tile = t then some (e.1, d, w) else none
    | _ => none))).flatten

/-- Wait slots in use on a tile. -/
def State.slotsUsed (s : State) (t : Nat) : Nat := ((s.waitsOn t).filter (fun x => x.2.2.slot)).length

def waitSlots : Nat := 1024
def holdSlots : Nat := 64

/-- A wait takes a slot, or waits for one (R352). -/
def State.placeWait (s : State) (c : Nat) (d : Desc) (w : FrontWait) : State :=
  if s.slotsUsed w.tile < waitSlots then s.setProg c d.ring d.index (.front { w with slot := true })
  else (s.setProg c d.ring d.index (.front { w with slot := false })).modTile w.tile
    (fun k => { k with fSlotWait := true, fSlotWaitCnt := satInc k.fSlotWaitCnt })

/-! ### How a wait ends -/

/-- A PREPARE whose round gave L and H (R272). -/
def State.endPrepare (s : State) (c : Nat) (d : Desc) (group : Nat) (tag low high : Word) : State :=
  if low = tag ∧ high = tag then
    let x := s.ctx c
    let n := (x.ranges.filter (fun r => r.2.valid && r.2.group == group)).length
    (s.modCtx c (fun x => { x with groups := tput x.groups group { x.group group with state := .prepared, prepTag := tag } })).finish
      c d.ring d.index ⟨0, at_ tag.toNat 0 ||| at_ n 32⟩
  else s.finish c d.ring d.index ⟨0x50, at_ low.toNat 0 ||| at_ high.toNat 32⟩

/-- Tallies (R357): the condition of TALLY_WAIT. -/
def reached (t thresh : Word) : Bool := decide ((t - thresh).toNat < 2 ^ 31)

/-- T changes, and the waits whose condition it meets complete. `adds` is what adds alone have brought since the entry was set. -/
def State.setTally (s : State) (t i : Nat) (v adds : Word) : State :=
  let s1 := s.modFront t i (fun e => { e with tally := v, adds := adds })
  (s1.waitsOn t).foldl (fun s x =>
    match x.2.2.kind with
    | .tally th => if x.2.2.slot ∧ x.2.2.entry = i ∧ reached v th then
        s.finish x.1 x.2.1.ring x.2.1.index ⟨0, at_ v.toNat 0⟩ else s
    | _ => s) s1

/-- An add to a tally. -/
def State.addTally (s : State) (t i : Nat) (v : Word) : State :=
  let e := s.front t i
  s.setTally t i (e.tally + v) (e.adds + v)

/-- A wait for a generation ends with its L and H (R351, R357, R272). -/
def State.endWait (s : State) (c : Nat) (d : Desc) (w : FrontWait) (low high : Word) : State :=
  match w.kind with
  | .prepare g tag => s.endPrepare c d g tag low high
  | .align t i takeLow a0 =>
    let adds := (s.front t i).adds
    (s.finish c d.ring d.index ⟨0, at_ low.toNat 0 ||| at_ high.toNat 32⟩).setTally t i
      ((if takeLow then low else high) + (adds - a0)) adds
  | _ => s.finish c d.ring d.index ⟨0, at_ low.toNat 0 ||| at_ high.toNat 32⟩

/-- The generation is neither OLDEST nor OLDEST + 1: it has been released (R351). -/
def FrontEntry.released (e : FrontEntry) (gen : Nat) : Bool := gen != e.oldest && gen != (e.oldest + 1) % 4

/-- A placed wait is judged again: it ends at once if its condition is met (R351, R352, R355, R357). -/
def State.judgeWait (s : State) (c : Nat) (d : Desc) (w : FrontWait) : State :=
  let e := s.front w.tile w.entry
  if !w.slot || w.held then s
  else
    match w.kind with
    | .tally th => if reached e.tally th then s.finish c d.ring d.index ⟨0, at_ e.tally.toNat 0⟩ else s
    | .count => s.finish c d.ring d.index ⟨0, at_ w.gen 0 ||| at_ 1 2⟩
    | _ => if e.released w.gen then s.endWait c d w e.lLast e.hLast else s

/-! ### Arrivals (R346, R347, R350) -/

/-- Arrivals of a participant that are counted and not released. -/
def FrontEntry.pendingOf (e : FrontEntry) (p : Nat) : Nat := b2n (e.arrOldest.contains p) + b2n (e.arrNext.contains p)

def mergeLH (o : Option (Word × Word)) (low high : Word) : Option (Word × Word) :=
  match o with
  | none => some (low, high)
  | some (a, b) => some (if low.toNat < a.toNat then low else a, if b.toNat < high.toNat then high else b)

/-- An arrival counts toward the generation that its pending count says. -/
def FrontEntry.count (e : FrontEntry) (p : Nat) (low high : Word) : FrontEntry :=
  if e.arrOldest.contains p then
    { e with arrNext := e.arrNext ++ [p], open1 := mergeLH e.open1 low high, lastGen := tput e.lastGen p ((e.oldest + 1) % 4) }
  else
    { e with arrOldest := e.arrOldest ++ [p], open0 := mergeLH e.open0 low high, lastGen := tput e.lastGen p e.oldest }

/-- The descriptor whose held arrival is a participant's: of the owning context, on the participant's ring. -/
def State.holder (s : State) (t i p : Nat) : Option (Nat × Desc × FrontWait) :=
  let e := s.front t i
  match e.parts[p]? with
  | some q => if q.remote then none
      else (s.waitsOn t).find? (fun x => x.1 == e.owner && x.2.1.ring == q.ring && x.2.2.held && x.2.2.entry == i)
  | none => none

/-- A held arrival has counted: its descriptor completes, or goes on to wait for its generation (R350, R351). That of a context which is not
placed is saved so, and judged on resume (R355). -/
def State.counted (s : State) (t i p : Nat) : State :=
  match s.holder t i p with
  | none => s
  | some (c, d, w) =>
    let gen := tget 0 (s.front t i).lastGen p
    let saved := s.setProg c d.ring d.index (.front { w with held := false, gen := gen })
    match w.kind with
    | .count => if (s.ctx c).waitsHere then s.finish c d.ring d.index ⟨0, at_ gen 0 ||| at_ 1 2⟩ else saved
    | _ => saved

/-- Held arrivals whose participant's pending count has come to 1 or 0 count, in ascending participant number (R346, R347, R350). -/
def State.applyHeld (s : State) (t i : Nat) : State :=
  (List.range 64).foldl (fun s p =>
    match (s.tile t).holdQ.find? (fun h => h.entry == i && h.part == p) with
    | some h =>
      if (s.front t i).pendingOf p < 2 then
        ((s.modTile t (fun k => { k with holdQ := k.holdQ.filter (· != h) })).modFront t i
          (fun e => e.count p h.low h.high)).counted t i p
      else s
    | none => s) s

/-- A signal of the front unit; one without an active route is dropped and logged with class 9 (R348). -/
def State.unitSignal (s : State) (t dst : Nat) (ident value : Word) : State :=
  match s.sendSignal dst ident value none with
  | some s' => s'
  | none => s.frontLog t 9 (fld ident 18 2) 0 0 ident

/-- The two halves of a pair, with KIND and GEN set (R342). -/
def State.unitPair (s : State) (t dst : Nat) (ident : Word) (gen : Nat) (low high : Word) : State :=
  let id (kind : Nat) : Word := (ident &&& ~~~ 0xF0000#32) ||| BitVec.ofNat 32 (kind * 2 ^ 16 + gen * 2 ^ 18)
  (s.unitSignal t dst (id 1) low).unitSignal t dst (id 2) high

/-- The release of the oldest open generation (R347), the first part: values, waits, children, and the next generation. -/
def State.releaseOnce (s : State) (t i : Nat) (low high : Word) : State :=
  let e := s.front t i
  let g := e.oldest
  let s1 := (s.waitsOn t).foldl (fun s x =>
    let w := x.2.2
    match w.kind with
    | .tally _ => s
    | .count => s
    | _ => if w.slot ∧ ¬ w.held ∧ w.entry = i ∧ w.gen = g then s.endWait x.1 x.2.1 w low high else s) s
  let s2 := e.parts.foldl (fun s p =>
    if p.remote ∧ p.child ≠ 0xFFFFFFFF then s.unitPair t p.epid (BitVec.ofNat 32 p.child) g low high else s) s1
  (s2.modFront t i (fun e => { e with
    lLast := low, hLast := high, arrOldest := e.arrNext, arrNext := [], open0 := e.open1, open1 := none, oldest := (g + 1) % 4,
    releases := e.releases + 1, awaits := false })).applyHeld t i

/-- Every participant has arrived toward the oldest open generation. -/
def FrontEntry.complete (e : FrontEntry) : Bool := e.valid && !e.mode && decide (e.arrOldest.length = e.parts.length)

/-- A complete generation is released, or sent to the parent; at most three follow one another. -/
def State.settleFront : Nat → State → Nat → Nat → State
  | 0, s, _, _ => s
  | n + 1, s, t, i =>
    let e := s.front t i
    if !e.complete || e.awaits then s
    else
      let (low, high) := e.open0.getD (0, 0)
      if e.parentEn then
        (s.modFront t i (fun e => { e with awaits := true })).unitPair t e.parentEpid e.parentFront e.oldest low high
      else State.settleFront n (s.releaseOnce t i low high) t i

/-- The parent's release (R347). -/
def State.releaseFront (s : State) (t i : Nat) (low high : Word) : State := State.settleFront 4 (s.releaseOnce t i low high) t i

/-- An arrival at a front: it counts, or it is held, or the hold queue is full (R346, R350). -/
inductive Arrived where
  | counted (gen : Nat)
  | held
  | full
  deriving DecidableEq, Repr

/-- A participant's arrival reaches the unit. The round is settled afterwards, by `settleFront`. -/
def State.arrive (s : State) (t i p ring epid : Nat) (low high : Word) (ident : Word) : State × Arrived :=
  let e := s.front t i
  if e.pendingOf p < 2 then
    let s1 := s.modFront t i (fun e => e.count p low high)
    (s1, .counted (tget 0 (s1.front t i).lastGen p))
  else if holdSlots ≤ (s.tile t).holdQ.length then
    (s.modTile t (fun k => { k with fHoldFull := true, fHoldFullCnt := satInc k.fHoldFullCnt }), .full)
  else
    let s1 := s.modTile t (fun k => { k with holdQ := k.holdQ ++ [⟨i, p, low, high, e.oldest, ident⟩], fViol := true, fViolCnt := satInc k.fViolCnt })
    (s1.frontLog t 1 e.oldest ring epid ident, .held)

/-! ### Signals of peers (R349, R357) -/

/-- A signal is dropped, counted and logged. -/
def State.dropSignal (s : State) (t cls gen epid : Nat) (ident : Word) : State :=
  (s.modTile t (fun k => { k with fRdrop := true, fRdropCnt := satInc k.fRdropCnt })).frontLog t cls gen 0 epid ident

/-- A signal from an endpoint reaches its front entry. -/
def State.frontSignal (s : State) (src : Nat) (ident value : Word) : State :=
  let t := fld ident 12 4
  let i := fld ident 0 12
  let kind := fld ident 16 2
  let gen := fld ident 18 2
  let e := s.front t i
  let drop (cls : Nat) : State := s.dropSignal t cls gen src ident
  if t ≥ s.nStacks then s
  else if i > 511 || !e.valid || bit ident 31 || decide (fld ident 20 11 ≠ e.key) then drop 3
  else
    let part := e.parts.findIdx? (fun p => p.remote && p.epid == src)
    let parent := e.parentEn && decide (src = e.parentEpid)
    if part.isNone && !parent then drop 4
    else if kind = 3 || (e.mode && decide (kind ≠ 0)) then drop 6
    else
      let low := e.lows.find? (fun l => l.1 == src)
      if kind = 1 then
        if low.isSome then drop 6 else s.modFront t i (fun e => { e with lows := tput e.lows src value })
      else if kind = 2 ∧ low.isNone then drop 6
      else if e.mode then s.addTally t i value
      else
        let lo := if kind = 2 then (low.map (·.2)).getD value else value
        let s1 := if kind = 2 then s.modFront t i (fun e => { e with lows := tdel e.lows src }) else s
        if parent then
          if e.awaits && decide (gen = e.oldest) then s1.releaseFront t i lo value else s1.dropSignal t 7 gen src ident
        else
          let p := part.getD 0
          if (s1.tile t).holdQ.any (fun h => h.entry == i && h.part == p) then s1.dropSignal t 5 gen src ident
          else
            match s1.arrive t i p 0 src lo value ident with
            | (s2, .full) => s2.dropSignal t 5 gen src ident
            | (s2, _) => State.settleFront 4 s2 t i

/-! ### Leaving: Doldrums, teardown, pre-emption (R350, R354, R355, R358) -/

/-- A descriptor's held arrival leaves the hold queue uncounted, and the abandonment is logged with class 2 (R350). -/
def State.abandonHeld (s : State) (d : Desc) (w : FrontWait) : State :=
  if w.held then
    let e := s.front w.tile w.entry
    match e.parts.findIdx? (fun p => !p.remote && p.ring == d.ring) with
    | some p => (s.modTile w.tile (fun k => { k with
        holdQ := k.holdQ.filter (fun h => !(h.entry == w.entry && h.part == p)) })).frontLog w.tile 2 w.gen d.ring 0 w.ident
    | none => s
  else s

/-- A wait ends by teardown: its slot is free and a held arrival is abandoned. -/
def State.dropWait (s : State) (d : Desc) : State :=
  match d.prog with
  | .front w => if d.st = .executing then s.abandonHeld d w else s
  | _ => s

/-- Every wait of a context is saved and frees its slot; a held arrival stays in the queue (R355). -/
def State.saveWaits (s : State) (c : Nat) : State :=
  s.modCtx c (fun x => { x with descs := x.descs.map (fun d =>
    match d.prog with
    | .front w => { d with prog := .front { w with slot := false } }
    | _ => d) })

/-- On resume each saved wait takes a slot and is judged again (R355). -/
def State.restoreWaits (s : State) (c : Nat) : State :=
  (s.ctx c).descs.foldl (fun s d =>
    match d.prog with
    | .front w => if d.st = .executing then
        (s.placeWait c d w).judgeWait c d { w with slot := decide (s.slotsUsed w.tile < waitSlots) } else s
    | _ => s) s

/-- A local arrival that is still held though its descriptor was withdrawn is abandoned too (R350, R355). -/
def State.abandonArrival (s : State) (t : Nat) (h : HeldArrival) : State :=
  match (s.front t h.entry).parts[h.part]? with
  | some p => if p.remote then s else s.frontLog t 2 h.gen p.ring 0 h.ident
  | none => s

/-- The held arrivals at a tile's unit for the entries of a context. -/
def State.heldFor (s : State) (t c : Nat) : List HeldArrival :=
  (s.tile t).holdQ.filter (fun h => (s.front t h.entry).valid && (s.front t h.entry).owner == c)

/-- The entries of a context are emptied, whether busy or not (R345, R368); its held arrivals leave, each local one abandoned (R350). -/
def State.dropFronts (s : State) (c : Nat) : State :=
  let s0 := (s.ctx c).descs.foldl (fun s d => s.dropWait d) s
  let s1 := (List.range 12).foldl (fun s t => (s.heldFor t c).foldl (fun s h => s.abandonArrival t h) s) s0
  { s1 with tiles := s1.tiles.map (fun e => (e.1,
      let mine := (e.2.fronts.filter (fun f => f.2.valid && f.2.owner == c)).map (·.1)
      { e.2 with fronts := e.2.fronts.filter (fun f => !mine.contains f.1)
                 holdQ := e.2.holdQ.filter (fun h => !mine.contains h.entry) })) }

end Sys2Proof.Machine
end

