-- ==== Sys2Proof/Machine/Contexts.lean ====
section
/-! DEFINITION. Contexts.lean: the states of a context, its teardown and release, its creation, and the allotment of
seats, counters, front entries, pool frames and windows (R59 to R64, R362 to R370, R387 to R391, R441). -/
namespace Sys2Proof.Machine

/-! ### Runnable, waiting (R371, R372) -/

/-- The context has work: an enabled ring with unfetched slots, or an admitted descriptor that has not completed. -/
def Ctx.hasWork (x : Ctx) : Bool :=
  !x.descs.isEmpty || x.rings.any (fun e => e.2.enable && e.2.sqTail != e.2.sqHead)

def Ctx.runnable (x : Ctx) : Bool :=
  match x.st with
  | .run => true
  | .bound => x.sched.queued
  | .paused => !x.sched.suspended && (x.hasWork || x.sched.resumed)
  | _ => false

/-- Runnable and not placed; a context of the live cyclic table is placed by the table alone (R371). -/
def State.waiting (s : State) (c : Nat) : Bool :=
  let x := s.ctx c
  x.runnable && !x.sched.placed && !x.sched.saving && !s.liveNames c

/-- A domain has a runnable context. -/
def State.domRunnable (s : State) (h : Nat) : Bool :=
  s.ctxs.any (fun e => e.2.sched.domain.toNat == h && e.2.runnable)

/-- The lowest V among domains with runnable contexts (R372). -/
def State.lowestV (s : State) : Option Nat :=
  ((List.range 16).filter s.domRunnable).map (fun h => (s.dom h).served.toNat) |>.min?

/-- After an event: a domain that gained its first runnable context has its V raised (R372), a context that began to wait takes its place in
the order of waiting (R373), and of one that gained work the idle time starts afresh (R374). -/
def State.track (old new : State) : State :=
  let raise_ (s : State) (h : Nat) : State :=
    if !old.domRunnable h && new.domRunnable h then
      match old.lowestV with
      | some v => s.modDom h (fun d => if d.served.toNat < v then { d with served := BitVec.ofNat 64 v } else d)
      | none => s
    else s
  let s1 := (List.range 16).foldl raise_ new
  (tkeys new.ctxs).foldl (fun s c =>
    let s := if (new.ctx c).hasWork && !(old.ctx c).hasWork then s.modCtx c (fun x => x.modSched (fun q => { q with idleHit := false })) else s
    if new.waiting c && !old.waiting c then
      let s' := s.modCtx c (fun x => x.modSched (fun q => { q with waitStamp := s.sched.stamp }))
      { s' with sched := { s'.sched with stamp := s.sched.stamp + 1 } }
    else s) s1

/-- A doorbell write of SQ_TAIL (R36, R37); new work may make a paused context runnable (R371). -/
def execSqTailWrite (c k : Nat) (t : Word) (s : State) : Host.Outcome State Fault Refusal :=
  .next (if (s.ctx c).hasRing k then State.track s (s.modRing c k (fun r => r.writeTail t)) else s.strayDoorbell c k)

/-- A write of HST_RING_CFG; a ring that becomes enabled may make a paused context runnable (R371). -/
def State.ringCfg (s : State) (c k : Nat) (v : DWord) : State :=
  if (s.ctx c).live ∧ (s.ctx c).hasRing k then State.track s (s.writeRingCfg c k v) else s

def execRingReset (c k : Nat) (v : DWord) (s : State) : Host.Outcome State Fault Refusal := .next (s.ringCfg c k (v ||| 0x40))
def execRingEnable (c k : Nat) (v : DWord) (s : State) : Host.Outcome State Fault Refusal := .next (s.ringCfg c k (v ||| 0x20))
def execRingDisable (c k : Nat) (v : DWord) (s : State) : Host.Outcome State Fault Refusal := .next (s.ringCfg c k (v &&& ~~~0x20))

/-- HST_CTX_ALLOT.SEATS (R390): the seats of each tile, less those lost on the tile that lost most (log entry 72). -/
def CtxSched.seatsLeft (q : CtxSched) : Nat :=
  q.seats.toNat - (((List.range 12).map (fun t => (q.lost.filter (fun p => p.1 == t)).length)).max?).getD 0

/-- Tiles of a mask, ascending. -/
def tilesOf (mask : Nat) : List Nat := (List.range 12).filter (fun t => mask.testBit t)

/-- The lowest tile of a mask: the reset value of HST_RING_SEAT.TILE (R370). -/
def lowestTile (mask : Nat) : Nat := (tilesOf mask).headD 0

/-! ### Counter-driven descriptors (R149 to R165) -/

/-- A counter-driven descriptor runs on work counters, not on one seat (R149, R203). -/
def Desc.counterDriven (d : Desc) : Bool := d.opcode ∈ [0x303, 0x407, 0x710, 0x722]

def Tile.counter (t : Tile) (n : Nat) : WorkCounter := tget WorkCounter.reset t.counters n
def Tile.modCounter (t : Tile) (n : Nat) (f : WorkCounter → WorkCounter) : Tile :=
  { t with counters := tput t.counters n (f (t.counter n)) }

/-- The tile's number of a context's counter. -/
def Ctx.wcAt (x : Ctx) (t n : Nat) : Nat := tget 0 x.sched.wcFirst t + n
/-- The home tile: the lowest of the mask. -/
def Desc.jobHome (d : Desc) : Nat := lowestTile d.jobMask

/-- The tiles whose counters the descriptor uses (R156). -/
def Desc.jobTiles (d : Desc) : List Nat := if d.jobShared then [d.jobHome] else tilesOf d.jobMask

/-- The work tile of a core that is not restored goes to the redo list of the counter it came from; the core keeps it, should it be
restored later (R163, R381). A list that holds 256 entries already takes none; REDO_CNT counts all the same (DESIGN CHOICE, log entry 88). -/
def State.redoSeat (s : State) (c t q : Nat) : State :=
  match ((s.ctx c).seat t q).work with
  | none => s
  | some (r, i, n, _) =>
    match (s.ctx c).findDesc r i with
    | none => s
    | some d =>
      let tc := if d.jobShared then d.jobHome else t
      let s1 := s.modTile tc (fun k => { k.modCounter ((s.ctx c).wcAt tc d.jobWc)
        (fun w => if w.redo.length < 256 then { w with redo := w.redo ++ [n] } else w) with redoCnt := satInc k.redoCnt })
      s1.modDesc c r i (fun e => match e.prog with
        | .job j => { e with prog := .job { j with left := [] } }
        | _ => e)

/-- Every saved core of a lost seat that still holds one of the descriptor's work tiles is discarded, its image with it; another core drops
the work tile, and its work area is unspecified (R163, R203). -/
def Ctx.dropWork (x : Ctx) (d : Desc) (stamp : Nat) : Ctx :=
  let holds (e : Nat × Seat) : Bool := e.2.work.any (fun w => d.is w.1 w.2.1)
  let gone := ((x.seats.filter holds).map (fun e => (e.1 / 16, e.1 % 16))).filter x.sched.lost.contains
  { x with
    seats := (x.seats.filter (fun e => !gone.contains (e.1 / 16, e.1 % 16))).map
      (fun e => (e.1, if holds e then { e.2 with work := none, workStamp := stamp } else e.2))
    sched := { x.sched with images := x.sched.images.filter (fun i => !gone.contains i) } }

/-- What a counter-driven descriptor holds is released at its completion; saved cores that still hold one of its work tiles drop it
(R152, R160, R163, R205). -/
def State.releaseJob (s : State) (c : Nat) (d : Desc) : State :=
  let own (e : Nat × Nat × Word) : Bool := e.1 == c && e.2.1 == d.ring && e.2.2 == d.index
  if d.counterDriven then
    let drop (t : Tile) : Tile := { t with
      slices := t.slices.filter (fun k => !own k)
      bitmap := t.bitmap.filter (fun k => !own (k.1, k.2.1, k.2.2.1))
      counters := t.counters.map (fun w => (w.1, if w.2.holder.any own then { w.2 with holder := none } else w.2)) }
    let s1 : State := { s with tiles := s.tiles.map (fun e => (e.1, drop e.2)) }
    s1.tick.modCtx c (fun x => x.dropWork d s1.tick.free)
  else s

/-! ### Leaving a context -/

/-- The context's holds on models end (R386); a load in progress leaves its slot EMPTY (R387). -/
def State.dropModels (s : State) (c : Nat) : State :=
  { s with models := s.models.map (fun e =>
      (e.1, let m := e.2
        match m.loader with
        | some (c', _, _) => if c' = c then ModelSlot.reset else { m with holders := m.holders.filter (· != c) }
        | none => { m with holders := m.holders.filter (· != c) })) }

/-- What the units of every tile hold for the context. -/
def Tile.dropCtx (t : Tile) (c : Nat) : Tile :=
  { t with
    slices := t.slices.filter (fun e => e.1 != c)
    bitmap := t.bitmap.filter (fun e => e.1 != c)
    counters := t.counters.map (fun w => (w.1, if w.2.holder.any (fun h => h.1 == c) then { w.2 with holder := none } else w.2)) }

/-- Reduction steps and passes of the context stop, and what the stores hold for it goes (R330). -/
def State.dropRuns (s : State) (c : Nat) : State :=
  (s.modLnk (fun l => { l with stores := l.stores.map (fun e =>
      (e.1, { e.2 with held := e.2.held.filter (fun p => decide (p.2.destCtx ≠ c)) })) })).modCtx c
    (fun x => { x with redSlots := x.redSlots.map (fun e => (e.1, { e.2 with run := none }))
                       jetSlots := x.jetSlots.map (fun e => (e.1, { e.2 with run := none })) })

/-- The units of the module forget the context (R368, R387, R388). -/
def State.dropUnits (s : State) (c : Nat) : State :=
  let s := ((s.dropModels c).dropFronts c).dropRuns c
  { s with tiles := s.tiles.map (fun e => (e.1, e.2.dropCtx c)) }

/-- A context enters EMPTY: everything it was allotted is released (R368); HST_CTX_KILL is kept (R59). -/
def State.toEmpty (s : State) (c : Nat) : State :=
  (s.dropUnits c).modCtx c (fun x => { Ctx.reset with kill := x.kill })

/-- DRAIN ends in EMPTY once no descriptor is left; DEAD does so after CLOSE (R59). -/
def State.endIfDone (s : State) (c : Nat) : State :=
  let x := s.ctx c
  if x.descs.isEmpty ∧ (x.st = .drain ∨ (x.st = .dead ∧ x.closing)) then s.toEmpty c else s

/-- HST_CTX_KILL after a teardown (R59): from a descriptor, or from KILL. -/
def killReg (cause : Option Desc) (status : BitVec 8) : KillReg :=
  match cause with
  | some d => ⟨status, BitVec.ofNat 16 d.seq, BitVec.ofNat 6 d.ring, false⟩
  | none => ⟨0x71, 0, 0, true⟩

/-- RESULT of 0x71 (R58). -/
def KillReg.result (k : KillReg) : DWord :=
  if k.cmd then BitVec.allOnes 64 else at_ k.seq.toNat 0 ||| at_ k.ring.toNat 16

/-- A teardown (R63, R387), from every state but EMPTY and DEAD, DRAIN among them (log entry 68): admission stops, STATE becomes DEAD, units stop, seats free without a save, holds end. -/
def State.teardown (s : State) (c : Nat) (k : KillReg) : State :=
  let x := s.ctx c
  if x.st = .empty ∨ x.st = .dead then s
  else (s.dropUnits c).modCtx c (fun x => { x with
    st := .dead, kill := k, update := false, frozen := false,
    spaces := x.spaces.map (fun e => (e.1, { e.2 with moves := [], recomps := [], readers := [], reads := [], keep := [] })),
    sched := { x.sched with placed := false, place := [], queued := false, saving := false, restoring := false, images := [] } })

/-- The status tears the context down (R58). -/
def Ctx.tearsDown (x : Ctx) (status : BitVec 8) : Bool :=
  (x.cfg.strictCmd && status.toNat ∈ [0x10, 0x11, 0x12, 0x13, 0x14, 0x40])
    || status.toNat ∈ [0x20, 0x21, 0x30, 0x31, 0x32, 0x7F]

/-- A completion counts for the context's quantum (R374) and, but for NOP, for the domain's served value (R372). -/
def State.countCompletion (s : State) (c : Nat) (d : Desc) : State :=
  (if d.opcode = 0 then s
   else s.modDom (s.ctxDom c) (fun h => { h with served := h.served + BitVec.ofNat 64 (65536 / h.weight.toNat) })).modCtx c
    (fun x => x.modSched (fun q => { q with jobs := q.jobs + 1 }))

/-- What the model cache notes at the completion of a MODEL_LOAD or MODEL_EVICT: the use counter goes up, and the slot that it named takes the
counter's value (R382); a load that is withdrawn leaves its slot EMPTY, as one that fails does (R384). -/
def State.endModel (s : State) (c : Nat) (d : Desc) : State :=
  if d.opcode = 0xA00 ∨ d.opcode = 0xA01 then
    let n := s.modelUse + 1
    let i := fld d.result 0 3
    let s1 : State := { s with modelUse := n, models := s.models.map (fun e =>
      (e.1, if e.2.loader == some (c, d.ring, d.index) then ModelSlot.reset else e.2)) }
    if d.status = 0 ∧ (s1.model i).state ≠ .empty ∧ (s1.model i).id = (if d.opcode = 0xA00 then d.word 3 else d.word 1) then
      s1.modModel i (fun m => { m with stamp := n })
    else s1
  else s

/-- What a descriptor of group 0x4 leaves in its key/value space (R188, R189, R198); `was` is the progress it had. -/
def State.endPages (s : State) (c : Nat) (d : Desc) (was : Prog) : State :=
  if d.opcode / 256 = 4 then s.kvEnd c { d with prog := was } d.status
  else if d.opcode = 0x721 then s.modCtx c (fun x => x.endReads (fld (d.word 2) 0 3) d)
  else s

/-- The stacks on which the ranges of a group lie. -/
def State.groupStacks (s : State) (c g : Nat) : List Nat :=
  let rs := (s.ctx c).ranges.filter (fun r => r.2.valid && r.2.group == g)
  (List.range 12).filter (fun n => rs.any (fun r => decide (s.backing r.2.wPa = .stack n)))

/-- What an opcode of group 0x6 changes at its completion (R61, R269, R273 to R275, R282). -/
def State.endHail (s : State) (c : Nat) (d : Desc) : State :=
  let g := fld (d.word 1) 0 3
  let clear (x : Ctx) : Ctx := { x with update := false }
  if !d.issued then s
  else if d.opcode = 0x600 ∧ d.status ∈ [0x40#8, 0x41#8, 0x50#8] then s.modCtx c clear
  else if d.opcode = 0x602 ∧ d.status = 0 then s.modCtx c clear
  else if d.opcode = 0x601 ∧ d.status ∈ [0x00#8, 0x01#8, 0x31#8] then
    let s1 := (s.groupStacks c g).foldl (fun s n => s.modStack n (fun k => { k with commitCnt := satInc k.commitCnt })) s
    if d.status = 0x31 then s1
    else
      let tag := BitVec.ofNat 32 (fld (d.word 1) 32 32)
      s1.modCtx c (fun x => clear { x with
        groups := tput x.groups g { x.group g with state := .idle, lastTag := tag, expect := tag + 1, prepTag := 0 }
        ranges := x.ranges.map (fun r => (r.1, if r.2.group = g then { r.2 with ptr := 0 } else r.2)) })
  else s

/-- A run is a descriptor's. -/
def Desc.ownsRun (d : Desc) (ring : Nat) (index : Word) : Bool := d.ring == ring && d.index == index

/-- At the end of a RED_RUN EXPECT goes up and the step's policy is kept for late partials (R324); at the end of a JET_PASS with 0x00 EXPECT
goes up (R335, log entry 16). -/
def State.endRuns (s : State) (c : Nat) (d : Desc) : State :=
  if d.opcode = 0x712 then
    s.modCtx c (fun x => { x with redSlots := x.redSlots.map (fun e =>
      (e.1, match e.2.run with
        | some r => if d.ownsRun r.ring r.index then
            { e.2 with run := none, expect := r.step + 1, history := (r.step, r.policy) :: e.2.history } else e.2
        | none => e.2)) })
  else if d.opcode = 0x721 then
    s.modCtx c (fun x => { x with jetSlots := x.jetSlots.map (fun e =>
      (e.1, match e.2.run with
        | some r => if d.ownsRun r.ring r.index then
            { e.2 with run := none, expect := if d.status = 0 then r.round + 1 else e.2.expect } else e.2
        | none => e.2)) })
  else s

/-- A descriptor's record is written and it leaves the context. -/
def State.completeDesc (s : State) (c : Nat) (d : Desc) : State :=
  let was := (((s.ctx c).findDesc d.ring d.index).map (·.prog)).getD .none
  ((((((s.endPages c d was).endHail c d).endRuns c d).endModel c d).countCompletion c d).releaseJob c d).retire c d

/-- RESULT of a withdrawal with 0x70 (R58, R228, R276): of a MEM_ADD the rows fully added: none before it starts, all of
them where its last line is added, those below the row of a line that failed. -/
def Desc.withdrawn (d : Desc) : DWord :=
  match d.prog with
  | .memAdd _ _ lines rows _ _ _ => at_ (lowestRow lines rows) 0
  | _ => if d.opcode ≠ 0x504 then BitVec.allOnes 64 else if d.st = .done ∧ d.status.toNat ≤ 1 then at_ (fld d.result 0 32) 0 else 0

/-- The descriptor passed its checks: its unit works, or has finished with one of these statuses. -/
def Desc.worked (d : Desc) (sts : List Nat) : Bool := decide (d.st = .executing) || (decide (d.st = .done) && d.issued && decide (d.status.toNat ∈ sts))

/-- A COMMIT that is withdrawn leaves its group PARTIAL (R276); a PREPARE leaves no group PREPARED, and the UPDATE of either ends (R61). -/
def Ctx.withdrawHail (x : Ctx) (d : Desc) : Ctx :=
  let g := fld (d.word 1) 0 3
  if d.opcode = 0x601 ∧ d.worked [0, 1, 0x31] then
    { x with groups := tput x.groups g { x.group g with state := .partial_ }, update := false }
  else if d.opcode = 0x600 ∧ d.worked [0, 0x40, 0x41, 0x50] then
    let k := x.group g
    let started := x.ranges.any (fun r => r.2.valid && r.2.group == g && decide (0 < r.2.ptr))
    let k' : HailGroup := if started then { k with state := .partial_ } else { k with state := .idle, prepTag := 0 }
    { x with update := false, groups := if k.state = .prepared then tput x.groups g k' else x.groups }
  else if d.opcode = 0x602 ∧ d.worked [0] then { x with update := false }
  else x

/-- A RED_RUN or JET_PASS that has issued runs to its end and completes with its own status (R330): its context's CLOSE while PAUSED does not
withdraw it either (DEDUCED, log entry 86). -/
def Desc.runsOn (d : Desc) : Bool := d.issued && decide (d.opcode = 0x712 ∨ d.opcode = 0x721)

/-- A descriptor whose record is not written has not completed (R32): it completes with 0x70 (R64), unless it runs to its end. A held arrival
stays in the hold queue (R350, R355). -/
def State.withdrawDesc (s : State) (c : Nat) (d : Desc) : State :=
  if d.runsOn then s
  else (s.modCtx c (fun x => x.withdrawHail d)).completeDesc c { d with st := .done, status := 0x70, result := d.withdrawn, prog := .none }

/-- Every admitted descriptor that has not completed is withdrawn (R64). -/
def State.withdrawAll (s0 : State) (c : Nat) : State :=
  let s := s0.finishRows c
  (s.ctx c).descs.foldl (fun s d => s.withdrawDesc c d) s

/-- A counted command that the state does not allow (R59). -/
def State.ctrlIgnored (s : State) (c : Nat) : State := s.modCtx c (fun x => { x with ctrlIgnored := satInc x.ctrlIgnored })

def execCtxCfgWrite (c : Nat) (v : DWord) (s : State) : Host.Outcome State Fault Refusal :=
  let x := s.ctx c
  .next (if x.st = .empty then s
    else if x.st ≠ .bound then s.ctrlIgnored c
    else
      let p := s.dom (s.ctxDom c)
      let cls := fld v 22 2
      let clsDenied := decide (cls = 2) && !p.class2Ok
      let dbgDenied := bit v 25 && !p.debugOk
      let s1 := s.modCtx c (fun x => { x with cfg := {
        tag := BitVec.ofNat 16 (fld v 0 16)
        verMax := if fld v 16 4 = 1 then 1 else x.cfg.verMax
        strictCmd := bit v 20
        strictSum := bit v 21
        cls := if cls = 3 ∨ clsDenied then x.cfg.cls else BitVec.ofNat 2 cls
        resumable := bit v 24
        debug := if dbgDenied then x.cfg.debug else bit v 25 } })
      if clsDenied || dbgDenied then s1.ctrlIgnored c else s1)

def execStart (c : Nat) (s : State) : Host.Outcome State Fault Refusal :=
  .next (if (s.ctx c).st = .empty then s
    else if (s.ctx c).st = .bound then
      State.track s (s.modCtx c (fun x => x.modSched (fun q => { q with queued := true })))
    else s.ctrlIgnored c)

/-! ### Pre-emption (R379) -/

/-- Image slots in use on a tile's stack. -/
def State.imagesOn (s : State) (t : Nat) : Nat :=
  (s.ctxs.map (fun e => (e.2.sched.images.filter (fun i => i.1 == t)).length)).sum

/-- Seats of a context that are placed on a tile. -/
def Ctx.placedOn (x : Ctx) (t : Nat) : Nat := (x.sched.place.filter (fun p => p.1 == t)).length

/-- The passes of the descriptor that are outstanding on the array of a seat; a work tile of TILED_GEMM or ATTN counts as one, under the work
tile's number (log entry 92). -/
def Ctx.arrayPasses (x : Ctx) (d : Desc) (t q : Nat) : List Nat :=
  match d.prog with
  | .matmul t' q' _ ps _ _ _ => if t' = t ∧ q' = q then ps.map (·.num) else []
  | .job _ =>
    match (x.seat t q).work with
    | some (r, i, n, _) => if d.is r i ∧ d.opcode ∈ [0x303, 0x407] then [n] else []
    | none => []
  | _ => []

/-- A pass is outstanding on the array of a seat. -/
def Ctx.arrayUsed (x : Ctx) (t q : Nat) : Bool := x.descs.any (fun d => !(x.arrayPasses d t q).isEmpty)

/-- The array of a seat stands at its boundary, with every earlier pass released, or has no pass (R114, R117). -/
def Ctx.atBoundary (x : Ctx) (t q : Nat) : Bool := !x.arrayUsed t q || ((x.seat t q).held.map (·.2)) == some 0

/-- Every seat to be saved has a free image slot (R379). -/
def State.slotsFree (s : State) (c : Nat) : Bool :=
  (List.range 12).all (fun t => decide (s.imagesOn t + (s.ctx c).placedOn t ≤ s.sched.savePerTile.toNat))

/-- The pre-emption starts (R379 steps 1 to 4): fetching stops, the units stop at their boundaries, the waits are saved,
the images are being written; a context that is not resumable has its descriptors withdrawn (R64). -/
def State.beginPreempt (s : State) (c : Nat) : State :=
  let s1 := ((s.finishRows c).saveWaits c).modCtx c (fun x => (x.modSched (fun q => { q with
    saving := true, slotOver := false, images := q.images ++ q.place.map (fun p => (p.1, p.2.1)), preemptCnt := satInc q.preemptCnt }))
    |> fun x => { x with rings := x.rings.map (fun e => (e.1, { e.2 with fetched := 0 })) })
  if (s.ctx c).cfg.resumable then s1 else s1.withdrawAll c

def execSuspend (c : Nat) (s : State) : Host.Outcome State Fault Refusal :=
  let x := s.ctx c
  .next (if x.st = .empty then s
    else if x.st = .run then
      let s1 := s.modCtx c (fun x => x.modSched (fun q => { q with suspended := true }))
      if x.sched.saving || x.sched.restoring || !s.slotsFree c then s1 else s1.beginPreempt c
    else s.ctrlIgnored c)

def execResume (c : Nat) (s : State) : Host.Outcome State Fault Refusal :=
  let x := s.ctx c
  .next (if x.st = .empty then s
    else if x.st = .paused then
      State.track s (s.modCtx c (fun x =>
        { x with xl := { x.xl with cache := [], ptrs := if x.sched.rootWritten then [] else x.xl.ptrs },
                 sched := { x.sched with suspended := false, resumed := x.sched.resumed || x.sched.suspended,
                                         rootWritten := false } }))
    else s.ctrlIgnored c)

def execClose (c : Nat) (s : State) : Host.Outcome State Fault Refusal :=
  let x := s.ctx c
  .next (match x.st with
    | .bound => s.toEmpty c
    | .run => (s.modCtx c (fun x => { x with
        st := .drain, sched := { x.sched with saving := false, images := x.sched.images.filter x.sched.lost.contains } })).endIfDone c
    | .paused => ((s.modCtx c (fun x => { x with st := .drain })).withdrawAll c).endIfDone c
    | .dead => (s.modCtx c (fun x => { x with closing := true })).endIfDone c
    | .drain => s.ctrlIgnored c
    | .empty => s)

def execKill (c : Nat) (s : State) : Host.Outcome State Fault Refusal :=
  let x := s.ctx c
  .next (match x.st with
    | .run => s.teardown c (killReg none 0x71)
    | .paused => s.teardown c (killReg none 0x71)
    | .empty => s
    | _ => s.ctrlIgnored c)

/-- How a descriptor completes at a teardown that another one, or KILL, caused: with 0x71 (R63), but with 0x40 where its arrival is held
(R350). -/
def Desc.killed (d : Desc) (k : KillReg) : Stop :=
  match d.prog with
  | .front w => if w.held then frontViolation w.ident else ⟨0x71, k.result⟩
  | _ => ⟨0x71, k.result⟩

/-- The descriptor as a teardown completes it. -/
def Desc.stopped (d : Desc) (k : KillReg) : Desc :=
  { d with st := .done, status := (d.killed k).status, result := (d.killed k).result, prog := .none }

/-- Every unit has stopped: the admitted descriptors that remain, those too whose unit has finished and whose record is not written (R32),
complete (R63). -/
def State.stopAll (s : State) (c : Nat) : State :=
  (s.ctx c).descs.foldl (fun s d => s.completeDesc c (d.stopped (s.ctx c).kill)) s

def execTeardownStopped (c : Nat) (s : State) : Host.Outcome State Fault Refusal :=
  .next (if (s.ctx c).st = .dead then (s.stopAll c).endIfDone c else s)

/-! ### NOP, FENCE, FREEZE, THAW (R48, R60, R61) -/

/-- The reserved words of the control group. -/
def controlChecks (d : Desc) : List (Bool × Stop) := rsvWords d [1, 2, 3, 4, 5, 6, 7]

def unitNop (d : Desc) : Act (Option Stop) := do
  checks (controlChecks d)
  okResult 0

/-- A phase change of the control group. -/
def unitPhase (c : Nat) (frozen : Bool) (d : Desc) : Act (Option Stop) := do
  let x ← getCtx c
  checks (controlChecks d ++ [phaseCheck x d.opcode])
  modCtxA c (fun x => { x with frozen := frozen })
  okResult 0

def execNop (d : DescRef) (s : State) : Host.Outcome State Fault Refusal := .next (issue 0x000 d unitNop s)
def execFence (d : DescRef) (s : State) : Host.Outcome State Fault Refusal := .next (issue 0x001 d unitNop s)
def execFreeze (d : DescRef) (s : State) : Host.Outcome State Fault Refusal := .next (issue 0x002 d (unitPhase d.ctx true) s)
def execThaw (d : DescRef) (s : State) : Host.Outcome State Fault Refusal := .next (issue 0x003 d (unitPhase d.ctx false) s)

/-! ### Fences and locked ranges (R367, R441) -/

/-- Two ranges share a byte. -/
def overlap (a n b m : Nat) : Bool := decide (a < b + m) && decide (b < a + n)

/-- The locked ranges: SEC_LOCK(r), the partition windows whole (R426), and the top of every fitted stack (R441). -/
def State.lockedRanges (s : State) : List (Nat × Nat) :=
  ((s.doms.filter (fun e => !e.2.external && !e.2.noWindow && e.2.pwinGib != 0)).map (fun e => (mrdimmBase + e.2.pwinBase.toNat * gib, e.2.pwinBytes))) ++
  ((List.range 16).map (fun r => let v := tget 0 s.sec.locks r; (fld v 16 32 * 65536, fld v 48 16 * 65536))).filter (fun p => p.2 ≠ 0)
  ++ (List.range s.nStacks).map (fun n =>
      let top := (s.boot.stkGib.toNat + (s.stack n).rsvGib.toNat) * gib
      (stackBase n + 72 * gib - top, top))

/-- The fence comparators accept a window load (R441). -/
def State.fenceAccepts (s : State) (base size : Nat) : Bool :=
  s.sec.done && !s.lockedRanges.any (fun p => overlap base size p.1 p.2)

/-- The ranges in which a domain's windows may lie (R367). -/
def State.domainRanges (s : State) (h : Nat) : List (Nat × Nat) :=
  ((List.range s.nStacks).filter (fun n => (s.stack n).inService)).map (fun n => (stackBase n, 72 * gib))
  ++ (if s.boot.ilv then [(mrdimmBase, s.dimmTotal)]
      else ((List.range 16).filter (fun n => (s.dimm n).placed)).map (fun n =>
        (mrdimmBase + n * 0x4000000000, (s.dimm n).cap.toNat * 4 * gib)))
  ++ (if s.variant.full ∧ s.capBit 0 then [(pmtBase, if s.pmt.interleaved then pmtUser else 2 ^ 44)] else [])
  ++ [(hostBase h, if (s.dom h).external then 2 ^ 42 else min (2 ^ 42) (s.dom h).pwinBytes)]

/-- Ranges cover n bytes from a on. -/
def covered (rs : List (Nat × Nat)) : Nat → Nat → Nat → Bool
  | 0, _, n => decide (n = 0)
  | f + 1, a, n =>
    if n = 0 then true
    else
      match rs.find? (fun p => decide (p.1 ≤ a) && decide (a < p.1 + p.2)) with
      | some p => covered rs f (p.1 + p.2) (n - (p.1 + p.2 - a))
      | none => false

/-! ### Creation (R365 to R368, R391) -/

/-- The fields of a creation record. -/
structure CreateRec where
  words : List DWord
  deriving DecidableEq, Repr

def CreateRec.mask (r : CreateRec) : Nat := fld (wrd r.words 0) 0 12
def CreateRec.seats (r : CreateRec) : Nat := fld (wrd r.words 0) 12 5
def CreateRec.rings (r : CreateRec) : Nat := fld (wrd r.words 0) 17 7
def CreateRec.wc (r : CreateRec) : Nat := fld (wrd r.words 0) 24 8
def CreateRec.fronts (r : CreateRec) : Nat := fld (wrd r.words 0) 32 7
def CreateRec.pool (r : CreateRec) : Nat := fld (wrd r.words 0) 39 7
def CreateRec.win (r : CreateRec) (w : Nat) : Window :=
  let a := wrd r.words (32 + 2 * w)
  ⟨bit a 0, bit a 1, fld a 16 32 * 65536, (wrd r.words (33 + 2 * w)).toNat⟩

/-- Code 5 of R367: a reserved field, a field out of range, or an unfitted tile. -/
def CreateRec.malformed (r : CreateRec) (tiles : Nat) : Bool :=
  decide (fld (wrd r.words 0) 46 18 ≠ 0)
  || (List.range 31).any (fun i => wrd r.words (i + 1) != 0)
  || (List.range 16).any (fun w => decide (fld (wrd r.words (32 + 2 * w)) 2 14 ≠ 0)
        || decide (fld (wrd r.words (32 + 2 * w)) 48 16 ≠ 0) || decide ((r.win w).size % 65536 ≠ 0))
  || decide (r.mask = 0) || decide (2 ^ tiles ≤ r.mask)
  || decide (r.seats < 1) || decide (16 < r.seats) || decide (r.rings < 1) || decide (64 < r.rings)
  || decide (64 < r.fronts) || decide (64 < r.pool)

/-- The contexts a domain holds outside EMPTY. -/
def State.domCtxs (s : State) (h : Nat) : List Ctx :=
  (s.ctxs.filter (fun e => decide (e.2.st ≠ .empty) && e.2.sched.domain.toNat == h)).map (·.2)

/-- The sum of an allotment over the domain's contexts on a tile. -/
def State.domUse (s : State) (h t : Nat) (f : CtxSched → Nat) : Nat :=
  (((s.domCtxs h).filter (fun x => x.sched.tileMask.getLsbD t)).map (fun x => f x.sched)).sum

/-- Code 2 of R367: CTX_MAX or a quota would be exceeded. -/
def State.overQuota (s : State) (h : Nat) (r : CreateRec) : Bool :=
  let d := s.dom h
  decide (d.ctxMax.toNat < (s.domCtxs h).length + 1)
  || decide (d.seatMax.toNat < r.seats)
  || decide (d.ringMax.toNat < ((s.domCtxs h).map (fun x => x.sched.rings.toNat)).sum + r.rings)
  || (List.range 12).any (fun t => r.mask.testBit t &&
      (decide (d.wcMax.toNat < s.domUse h t (fun q => q.wc.toNat) + r.wc)
       || decide (d.frontMax.toNat < s.domUse h t (fun q => q.fronts.toNat) + r.fronts)
       || decide (d.poolMax.toNat < s.domUse h t (fun q => q.pool.toNat) + r.pool)))

/-- A cyclic entry names the context, live or shadow (R367). -/
def State.cycNames (s : State) (c : Nat) : Bool :=
  (s.sched.cyc.live ++ s.sched.cyc.shadow).any (fun e => e.2.valid && e.2.context.toNat == c)

/-- The lowest EMPTY context that can be given; the module has 4,096 rings in all (R30, R367). -/
def State.freeCtx (s : State) (rings : Nat) : Option Nat :=
  if ((s.ctxs.filter (fun e => decide (e.2.st ≠ .empty))).map (fun e => e.2.sched.rings.toNat)).sum + rings > 4096 then none
  else (List.range 1024).find? (fun c => decide ((s.ctx c).st = .empty) && !s.cycNames c)

/-- The lowest start, a multiple of `align`, of n free units below `limit`. -/
def firstFit (used : List (Nat × Nat)) (n align limit : Nat) : Option Nat :=
  if n = 0 then some 0
  else ((List.range (limit / align)).map (· * align)).find? (fun a =>
    decide (a + n ≤ limit) && !used.any (fun p => overlap a n p.1 p.2))

/-- What the contexts hold on a tile: counters, front entries, pool frames. -/
def State.wcUsed (s : State) (t : Nat) : List (Nat × Nat) :=
  (s.ctxs.filter (fun e => decide (e.2.st ≠ .empty) && e.2.sched.tileMask.getLsbD t)).map
    (fun e => (tget 0 e.2.sched.wcFirst t, 16 * e.2.sched.wc.toNat))
def State.frontUsed (s : State) (t : Nat) : List (Nat × Nat) :=
  (s.ctxs.filter (fun e => decide (e.2.st ≠ .empty) && e.2.sched.tileMask.getLsbD t)).map
    (fun e => (tget 0 e.2.sched.frontFirst t, 8 * e.2.sched.fronts.toNat))
def State.poolUsed (s : State) (t : Nat) : List (Nat × Nat) :=
  (s.ctxs.filter (fun e => decide (e.2.st ≠ .empty))).map (fun e => tget (0, 0) e.2.xl.poolWin t)

/-- Where a tile's resources for a record would lie: counters, front entries, pool frames (R391). -/
def State.tileFit (s : State) (t : Nat) (r : CreateRec) : Option (Nat × Nat × Nat) :=
  if !s.capBit (20 + t) || !(s.tile t).inService || (s.tile t).enabled == 0 then none
  else
    match firstFit (s.wcUsed t) (16 * r.wc) 16 4096, firstFit (s.frontUsed t) (8 * r.fronts) 8 512,
          firstFit (s.poolUsed t) r.pool 1 64 with
    | some a, some b, some p => some (a, b, p)
    | _, _, _ => none

/-- A window that R367 refuses with code 4 for a reason other than the fence. -/
def State.winBad (s : State) (h : Nat) (w : Window) : Bool :=
  decide (w.size ≠ 0) && (!covered (s.domainRanges h) 32 w.base w.size || (w.w && !w.r))

/-- The first code of R367 that applies. -/
def State.createCode (s : State) (h : Nat) (rec_ : Option CreateRec) : Nat :=
  match rec_ with
  | none => if (s.dom h).en then 6 else 7
  | some r =>
    if !(s.dom h).en then 7
    else if r.malformed s.nStacks then 5
    else if s.overQuota h r then 2
    else if (s.freeCtx r.rings).isNone then 1
    else if (tilesOf r.mask).any (fun t => (s.tileFit t r).isNone) then 3
    else if (List.range 16).any (fun i => s.winBad h (r.win i)
        || (decide ((r.win i).size ≠ 0) && !s.fenceAccepts (r.win i).base (r.win i).size)) then 4
    else 0

/-- The context is created: resources allotted, pool frames zeroed (an uncorrectable word among them is written anew: R451), windows loaded, registers at reset (R367). -/
def State.createCtx (s : State) (h c : Nat) (r : CreateRec) : State :=
  let ts := tilesOf r.mask
  let fit (t : Nat) : Nat × Nat × Nat := (s.tileFit t r).getD (0, 0, 0)
  let s1 := ts.foldl (fun s t => s.modTile t (fun k =>
    { k with
      pool := mclear k.pool (0xC000000 + (fit t).2.2 * 0x100000) (r.pool * 0x100000)
      poolBad := k.poolBad.filter (fun w => decide (w * 8 < 0xC000000 + (fit t).2.2 * 0x100000)
        || decide (0xC000000 + ((fit t).2.2 + r.pool) * 0x100000 ≤ w * 8))
      counters := k.counters.filter (fun e => decide (e.1 < (fit t).1) || decide ((fit t).1 + 16 * r.wc ≤ e.1)) })) s
  s1.modCtx c (fun _ => { Ctx.reset with
    st := .bound
    rings := (List.range r.rings).map (fun k => (k, { Ring.reset with tile := BitVec.ofNat 4 (lowestTile r.mask) }))
    xl := { CtxXlate.reset with
      windows := ((List.range 16).map (fun i => (i, r.win i))).filter (fun e => e.2.size ≠ 0)
      poolWin := ts.map (fun t => (t, ((fit t).2.2, r.pool))) }
    sched := { CtxSched.reset with
      tileMask := BitVec.ofNat 12 r.mask, seats := BitVec.ofNat 5 r.seats, rings := BitVec.ofNat 7 r.rings
      wc := BitVec.ofNat 8 r.wc, fronts := BitVec.ofNat 7 r.fronts, pool := BitVec.ofNat 7 r.pool
      domain := BitVec.ofNat 4 h, modelWin := (s.dom h).modelOk
      wcFirst := ts.map (fun t => (t, (fit t).1)), frontFirst := ts.map (fun t => (t, (fit t).2.1)) } })

/-- A write of HST_DOM_REQ (R365). -/
def execCreate (h : Nat) (v : DWord) (s : State) : Host.Outcome State Fault Refusal :=
  let d := s.dom h
  .next (if d.busy ∨ fld v 0 2 ≠ 1 ∨ fld v 2 10 ≠ 0 then
      s.modDom h (fun d => { d with reqIgnoredCnt := satInc d.reqIgnoredCnt })
    else s.modDom h (fun d => { d with req := v, busy := true, lostWhileBusy := false }))

/-- A request ends with a code (R365). -/
def Dom.answer (d : Dom) (code ctx : Nat) : Dom :=
  { d with busy := false, lostWhileBusy := false, done := true, doneCnt := satInc d.doneCnt,
           code := BitVec.ofNat 4 code, ctx := BitVec.ofNat 10 ctx }

/-- Window loads that the fence comparators refuse are counted (R441). -/
def State.countFence (s : State) (r : CreateRec) : State :=
  let n := ((List.range 16).filter (fun i => decide ((r.win i).size ≠ 0)
    && !s.fenceAccepts (r.win i).base (r.win i).size)).length
  { s with sec := { s.sec with fenceRefusedCnt := satAdd s.sec.fenceRefusedCnt n } }

/-- Bluone answers (R366, R367): `rec` is the record that the read returned, or none for an unreadable record. Nothing is
answered while stage 2 does not run (R446) or after a fatal error (R460); a format answers CODE 1 (R440); a lost domain's request ends with CODE 6 (R429). -/
def execCreateAnswer (h : Nat) (rec_ : Option (List DWord)) (s : State) : Host.Outcome State Fault Refusal :=
  let d := s.dom h
  .next (if !d.busy || s.err.closed || decide (s.blu.stage < 2) then s
    else if d.lostWhileBusy then s.modDom h (fun d => d.answer 6 0)
    else if s.formatting then s.modDom h (fun d => d.answer 1 0)
    else
      match rec_.map CreateRec.mk with
      | none => s.modDom h (fun d => d.answer (s.createCode h none) 0)
      | some r =>
        let code := s.createCode h (some r)
        if code = 0 then
          let c := (s.freeCtx r.rings).getD 0
          (s.createCtx h c r).modDom h (fun d => d.answer 0 c)
        else (if code = 4 then s.countFence r else s).modDom h (fun d => d.answer code 0))

/-- A write of HST_RING_SEAT (R370). -/
def State.writeRingSeat (s : State) (c k : Nat) (v : DWord) : State :=
  let x := s.ctx c
  let t := fld v 0 4
  let q := fld v 4 4
  if (x.ring k).enable || !x.sched.tileMask.getLsbD t || decide (x.sched.seats.toNat ≤ q) || x.sched.lost.contains (t, q) then
    s.modRing c k Ring.cfgViolation
  else s.modRing c k (fun r => { r with tile := BitVec.ofNat 4 t, seat := BitVec.ofNat 4 q })

def execRingSeatWrite (c k : Nat) (v : DWord) (s : State) : Host.Outcome State Fault Refusal :=
  .next (if (s.ctx c).live ∧ (s.ctx c).hasRing k then s.writeRingSeat c k v else s)

/-- A write of HST_CTX_PT_ROOT (R212). -/
def execPtRootWrite (c : Nat) (v : DWord) (s : State) : Host.Outcome State Fault Refusal :=
  let x := s.ctx c
  .next (if x.st = .empty then s
    else if x.st = .bound ∨ x.st = .paused then
      s.modCtx c (fun x => { x with xl := { x.xl with ptRoot := BitVec.ofNat 36 (fld v 12 36) },
                                    sched := { x.sched with rootWritten := true } })
    else s.ctrlIgnored c)

/-- A write of HST_DOM_HWIN.HBASE (R426). -/
def execHbaseWrite (h : Nat) (v : DWord) (s : State) : Host.Outcome State Fault Refusal :=
  .next (if !(s.dom h).external then s
    else if (s.domCtxs h).isEmpty then s.modDom h (fun d => { d with hbase := BitVec.ofNat 52 (fld v 12 52) })
    else { s with ctxs := s.ctxs.map (fun e => (e.1,
      if decide (e.2.st ≠ .empty) && e.2.sched.domain.toNat == h then { e.2 with ctrlIgnored := satInc e.2.ctrlIgnored } else e.2)) })

end Sys2Proof.Machine
end

