-- ==== Sys2Proof/Machine/Vector.lean ====
section
/-! DEFINITION. Vector.lean: the chain table and the vector stream engine (R121 to R139). -/
namespace Sys2Proof.Machine

/-! ### Chains (R127, R128) -/

/-- A chain in force: where its row state lies on a drain, its stages, its constants. -/
structure Chain where
  rsBase : Nat
  stages : List StageWord
  consts : List Word
  deriving DecidableEq, Repr

/-- The chain that a record holds. -/
def chainOf (ws : List DWord) : Chain :=
  { rsBase := fld (wrd ws 0) 8 26
    stages := (List.range (fld (wrd ws 0) 0 4)).map (fun i => wrd ws (i + 1))
    consts := (List.range 8).map (fun i => BitVec.ofNat 32 (fld (wrd ws (9 + i / 2)) (32 * (i % 2)) 32)) }

/-- The chain in a slot of the chain table, if one is loaded. -/
def Ctx.chain (x : Ctx) (slot : Nat) : Option Chain := (x.chains.find? (fun e => e.1 == slot)).map (fun e => chainOf e.2)

/-- Why a chain record is refused: word and lowest bit (R128). -/
def chainBad (ws : List DWord) : Option (Nat × Nat) :=
  let n := fld (wrd ws 0) 0 4
  let base := fld (wrd ws 0) 8 26
  let fields : List (Bool × (Nat × Nat)) :=
    [ (decide (8 < n), (0, 0)),
      (decide (fld (wrd ws 0) 4 4 ≠ 0), (0, 4)),
      (decide (n ≠ 0) && (decide (base % 64 ≠ 0) || decide (spBytes < base + 4096)), (0, 8)),
      (decide (fld (wrd ws 0) 34 30 ≠ 0), (0, 34)) ]
    ++ (List.range 8).map (fun i => (decide (n ≤ i) && wrd ws (i + 1) != 0, (0, 0)))
    ++ (List.range 8).map (fun i => (decide (i < n) && (stageBad (wrd ws (i + 1)) 8).isSome,
          (i + 1, (stageBad (wrd ws (i + 1)) 8).getD 0)))
    ++ [13, 14, 15].map (fun i => (wrd ws i != 0, (i, 0)))
  (fields.find? (·.1)).map (·.2)

/-- A slot of the chain table takes a record, or is emptied; no core keeps an older copy in its cache (R127, R128). -/
def Ctx.setChain (x : Ctx) (slot : Nat) (ws : List DWord) : Ctx :=
  { x with
    chains := if fld (wrd ws 0) 0 4 = 0 then tdel x.chains slot else tput x.chains slot ws
    seats := x.seats.map (fun e => (e.1, { e.2 with chainCache := e.2.chainCache.filter (· != slot) })) }

def unitChainLoad (c : Nat) (d : Desc) : Act (Option Stop) := do
  let slot := fld (d.word 2) 0 6
  checks ([(decide ((d.word 1).toNat % 64 ≠ 0), badDesc 1 0 9), rsv d 2 6 58] ++ rsvWords d [3, 4, 5, 6, 7])
  let bs ← rdVa (d.who c) (d.word 1).toNat 128
  let ws := bytesWords 16 bs
  match chainBad ws with
  | some (w, b) => throw (badRecord w b)
  | none =>
    let x ← getCtx c
    checks [phaseCheck x d.opcode]
    modCtxA c (fun x => x.setChain slot ws)
    okResult (at_ (fld (wrd ws 0) 0 4) 0 ||| at_ slot 4)

def execChainLoad (d : DescRef) (s : State) : Host.Outcome State Fault Refusal := .next (issue 0x201 d (unitChainLoad d.ctx) s)

/-- A chain record fetched from the home I/O die enters the cache of a seat's core; of eight records the oldest leaves (R127,
log entry 9). -/
def Seat.cacheChain (q : Seat) (slot : Nat) : Seat :=
  if q.chainCache.contains slot then q
  else { q with chainCache := (if q.chainCache.length < 8 then q.chainCache else q.chainCache.drop 1) ++ [slot] }

/-- A descriptor of the context waits for this record on this core. -/
def State.awaitsChain (s : State) (c t q slot : Nat) : Bool :=
  (s.ctx c).descs.any (fun d => decide (d.st = .waiting) && s.chainMiss c d && d.chainName == some slot
    && s.ringSeat c d.ring == (t, q))

def execChainCacheFill (c t q slot : Nat) (s : State) : Host.Outcome State Fault Refusal :=
  .next (if s.awaitsChain c t q slot then s.modSeat c t q (fun k => k.cacheChain slot) else s)

/-! ### The VSTREAM descriptor (R123) -/

/-- An operand of a VSTREAM. -/
structure VOpnd where
  base : Nat
  fmt : Nat
  bc : Nat
  str1 : Nat
  str2 : Nat
  deriving DecidableEq, Repr

/-- The operand of word w; D has no BC. -/
def Desc.vopnd (d : Desc) (w : Nat) : VOpnd :=
  let x := d.word w
  ⟨fld x 0 26, fld x 26 4, if w = 4 then 0 else fld x 30 2, fld x 32 16, fld x 48 16⟩

/-- Alignment of a base (R123). -/
def fmtAlign (code : Nat) : Nat := if 5 ≤ code then 64 else codeBytes code 1

/-- Byte offset of row (i1, i2). -/
def VOpnd.row (o : VOpnd) (i1 i2 : Nat) : Nat := o.base + i1 * o.str1 * 64 + i2 * o.str2 * 1024

/-- Bytes from base to the end of the operand at a shape; 0 for an empty shape. -/
def VOpnd.span (o : VOpnd) (d0 d1 d2 : Nat) : Nat :=
  if d0 = 0 ∨ d1 = 0 ∨ d2 = 0 then 0
  else
    let off := (d1 - 1) * o.str1 * 64 + (d2 - 1) * o.str2 * 1024
    match o.bc with
    | 0 => off + codeBytes o.fmt d0
    | 1 => off + codeBytes o.fmt 1
    | 2 => codeBytes o.fmt d0
    | _ => codeBytes o.fmt 1

/-- SROW: bytes of a row of scales (R123). -/
def scaleRow (d0 : Nat) : Nat := 64 * cdiv (cdiv d0 32) 64

/-- What a VSTREAM says beside its operands. -/
structure VStream where
  x : VOpnd
  y : VOpnd
  z : VOpnd
  d : VOpnd
  slot : Nat
  chainEn : Bool
  mode : Nat
  round : Nat
  bsrc : Nat
  keep : Bool
  dstOff : Bool
  fill : Word
  inline : DWord
  xScale : Nat
  dScale : Nat
  count : Nat
  idx : Nat
  rnd : RndBlock
  rs : Nat
  width : Nat
  row0 : Nat
  col0 : Nat
  consts : List Word
  deriving DecidableEq, Repr

def Desc.vstream (d : Desc) : VStream :=
  let w6 := d.word 6
  { x := d.vopnd 1, y := d.vopnd 2, z := d.vopnd 3, d := d.vopnd 4
    slot := fld w6 0 8, chainEn := bit w6 8, mode := fld w6 9 2, round := fld w6 11 3, bsrc := fld w6 26 2
    keep := bit w6 28, dstOff := bit w6 29, fill := BitVec.ofNat 32 (fld w6 32 32)
    inline := d.word 7, xScale := fld (d.word 8) 0 26, dScale := fld (d.word 8) 32 26
    count := fld (d.word 9) 0 26, idx := fld (d.word 9) 32 26
    rnd := rndBlock (d.word 10) (d.word 11)
    rs := fld (d.word 12) 0 26, width := fld (d.word 12) 32 24
    row0 := fld (d.word 13) 0 24, col0 := fld (d.word 13) 24 24
    consts := [BitVec.ofNat 32 (fld (d.word 14) 0 32), BitVec.ofNat 32 (fld (d.word 14) 32 32)] }

/-- How a VSTREAM names its dimensions. -/
def Desc.vuse (d : Desc) : PlanUse :=
  ⟨fld (d.word 6) 14 12, fld (d.word 6) 26 2 == 1, 2,
    [fld (d.word 5) 0 24, fld (d.word 5) 24 20, fld (d.word 5) 44 20]⟩

/-- An operand is in use (R124). -/
def VStream.usesY (_ : VStream) (st : List StageWord) : Bool := st.any (fun w => w.selects 2)
def VStream.usesZ (v : VStream) (st : List StageWord) : Bool := st.any (fun w => w.selects 3) || decide (v.mode = 1 ∨ v.mode = 2)
def VStream.usesRs (_ : VStream) (st : List StageWord) : Bool := st.any (fun w => w.writesRow || w.selects 5)
def VStream.usesCount (v : VStream) : Bool := decide (v.mode = 1 ∨ v.mode = 2)
def VStream.usesIdx (v : VStream) : Bool := decide (v.mode = 1) && decide (v.idx ≠ 0x03FFFFFF)

/-- The items of R124, in order, then the reserved fields (R11). The index area is counted with its last row at the full stride, the scale areas
with the scales of their last row alone (DESIGN CHOICE, log entry 87). -/
def VStream.checks (v : VStream) (d : Desc) (st : List StageWord) (dims : Option (List Nat)) : List (Bool × Stop) :=
  let uy := v.usesY st
  let uz := v.usesZ st
  let ud := !v.dstOff
  let d0 := (dims.getD []).getD 0 0
  let d1 := (dims.getD []).getD 1 0
  let d2 := (dims.getD []).getD 2 0
  let rows := d1 * d2
  let sc := if rows = 0 ∨ d0 = 0 then 0 else (rows - 1) * scaleRow d0 + cdiv d0 32
  let fmtItem (use : Bool) (o : VOpnd) (w lim : Nat) : Bool × Stop :=
    (use && (decide (lim < o.fmt) || (decide (5 ≤ o.fmt) && decide (o.bc ≠ 0))), badDesc w 26 9)
  let baseItem (use : Bool) (o : VOpnd) (w : Nat) : Bool × Stop := (use && decide (o.base % fmtAlign o.fmt ≠ 0), badDesc w 0 9)
  let al (use : Bool) (b w lo : Nat) : Bool × Stop := (use && decide (b % 64 ≠ 0), badDesc w lo 9)
  [ fmtItem true v.x 1 9, fmtItem uy v.y 2 4, fmtItem uz v.z 3 4, fmtItem ud v.d 4 9,
    (decide (v.mode ≠ 0) && ud && decide (5 ≤ v.d.fmt), badDesc 4 26 9),
    baseItem true v.x 1, baseItem uy v.y 2, baseItem uz v.z 3, baseItem ud v.d 4,
    al (codeMx v.x.fmt) v.xScale 8 0, al (ud && codeMx v.d.fmt) v.dScale 8 32,
    al v.usesCount v.count 9 0, al (v.usesRs st) v.rs 12 0,
    (decide (v.mode = 3), badDesc 6 9 9),
    (decide (2 ≤ v.bsrc), badDesc 6 26 9),
    (roundBad v.round, badDesc 6 11 9),
    (d.vuse.unnamed, badDesc 6 14 9),
    (v.chainEn && decide (64 ≤ v.slot), badDesc 6 0 9),
    (!v.chainEn && (stageBad v.inline 2).isSome, badDesc 6 8 9),
    (beyondSp v.x.base (v.x.span d0 d1 d2), badDesc 1 0 9),
    (uy && beyondSp v.y.base (v.y.span d0 d1 d2), badDesc 2 0 9),
    (uz && beyondSp v.z.base (v.z.span d0 d1 d2), badDesc 3 0 9),
    (ud && beyondSp v.d.base (v.d.span d0 d1 d2), badDesc 4 0 9),
    (codeMx v.x.fmt && beyondSp v.xScale sc, badDesc 8 0 9),
    (ud && codeMx v.d.fmt && beyondSp v.dScale sc, badDesc 8 32 9),
    (v.usesCount && beyondSp v.count (4 * rows), badDesc 9 0 9),
    (v.usesIdx && beyondSp v.idx (rows * 64 * cdiv d0 16), badDesc 9 32 9),
    (v.usesRs st && beyondSp v.rs (16 * rows), badDesc 12 0 9),
    (rowHeld st && decide (16384 < d0), badDesc 5 0 9),
    (dims.isSome && decide (v.round % 4 = 1) && decide (v.width < v.col0 + d0), if v.bsrc = 1 then badDesc 6 11 9 else badDesc 5 0 9),
    (decide (v.mode ≠ 0) && v.dstOff, badDesc 6 9 9),
    rsv d 4 30 2, rsv d 6 30 2, rsv d 8 26 6, rsv d 8 58 6, rsv d 9 26 6, rsv d 9 58 6, rsv d 12 26 6, rsv d 12 56 8,
    rsv d 13 48 16 ]

/-- n elements of an operand row as FP32 (R68, R69, R123, R131). An MX element whose scaled value lies beyond the FP32 range is rounded to
infinity, and the overflow is flagged (log entry 70). -/
def VOpnd.readRow (o : VOpnd) (w : Who) (t q : Nat) (scale i1 i2 r n d0 : Nat) : Act (List SV) := do
  if n = 0 then pure []
  else if o.bc = 1 ∨ o.bc = 3 then do
    let bs ← rdEng w t q (if o.bc = 1 then o.row i1 i2 else o.base) (codeBytes o.fmt 1)
    pure (List.replicate n (SV.of (elemF32 o.fmt (elemBits bs (codeBits o.fmt) 0))))
  else do
    let bs ← rdEng w t q (if o.bc = 0 then o.row i1 i2 else o.base) (codeBytes o.fmt n)
    if codeMx o.fmt then do
      let sc ← rdEng w t q (scale + r * scaleRow d0) (cdiv n 32)
      pure ((List.range n).map (fun i =>
        svOp (mxVal o.fmt (elemBits bs (codeBits o.fmt) i) (sc.getD (i / 32) 0).toNat) []))
    else pure ((List.range n).map (fun i => SV.of (elemF32 o.fmt (elemBits bs (codeBits o.fmt) i))))

/-- Values as destination elements: bytes, scales, flags; `cols i` is the destination position of value i and `n0` the linear
index of position 0 (R126, R131). -/
def encodeRow (code round : Nat) (rb : RndBlock) (n0 : Nat) (cols : Nat → Nat) (vs : List SV) :
    List Byte × List Byte × NumFlags :=
  let rnd (i : Nat) : Rnd := roundOf round rb (n0 + cols i)
  if codeMx code then
    let blocks := (List.range (cdiv vs.length 32)).map (fun b =>
      mxConvert code (fun i => rnd (32 * b + i)) ((List.range 32).map (fun i => (vs.getD (32 * b + i) svZero).val)))
    let pats := (blocks.map (fun b => b.2.1)).flatten
    (packBytes (codeBits code) (codeBytes code vs.length) pats, blocks.map (fun b => BitVec.ofNat 8 b.1),
      (blocks.foldl (fun f b => f ||| b.2.2) 0) ||| (if vs.any (fun v => v.isZero && v.un) then nfUnf else 0))
  else
    let out := (List.range vs.length).map (fun i => svConvert code (rnd i) (roundSat round) (vs.getD i svZero))
    ((out.map (fun x => leBytes (codeBytes code 1) x.1)).flatten, [], out.foldl (fun f x => f ||| x.2) 0)

/-- The row-state record of a row. -/
def readRowState (w : Who) (t q base r : Nat) (use : Bool) : Act (List SV) := do
  if use then do
    let bs ← rdEng w t q (base + 16 * r) 16
    pure ((List.range 4).map (fun i => SV.of (BitVec.ofNat 32 (leNat ((bs.drop (4 * i)).take 4)))))
  else pure (List.replicate 4 svZero)

/-- The writes of the row-state slots that a row wrote. -/
def RowRun.rowWrites (q : RowRun) (base r : Nat) : List (Nat × List Byte) :=
  ((List.range 4).filter q.wrote.contains).map (fun i => (base + 16 * r + 4 * i, leBytes 4 (q.rs.getD i svZero).w.toNat))

/-- Writes in order, by a stream. -/
def wrAll (w : Who) (t q : Nat) (ws : List (Nat × List Byte)) : Act Unit := ws.forM (fun p => wrEng w t q p.1 p.2)

/-- One row of a stream: elements written and flags (R123, R129, R135). -/
def VStream.row (v : VStream) (w : Who) (t q : Nat) (ch : Chain) (d0 d1 i1 i2 : Nat) : Act (Nat × NumFlags) := do
  let r := i1 + d1 * i2
  let pr := v.row0 + r
  let n0 := pr * v.width + v.col0
  let zs ← if v.usesZ ch.stages then v.z.readRow w t q 0 i1 i2 r d0 d0 else pure []
  let ys ← if v.usesY ch.stages then v.y.readRow w t q 0 i1 i2 r d0 d0 else pure []
  let picked := if v.mode = 0 then [] else (List.range d0).filter (fun i => !(zs.getD i svZero).isZero)
  let pos := if v.mode = 2 then picked else List.range d0
  let xs ← v.x.readRow w t q v.xScale i1 i2 r pos.length d0
  let rs ← readRowState w t q v.rs r (v.usesRs ch.stages)
  let run := RowRun.run
    { v := xs, x := xs, y := pos.map (fun i => ys.getD i svZero), z := pos.map (fun i => zs.getD i svZero),
      consts := ch.consts, pr := pr, pcs := pos.map (v.col0 + ·), rs := rs, wrote := [], flags := 0 } ch.stages
  wrAll w t q (run.rowWrites v.rs r)
  let dst := v.d.row i1 i2
  let es := codeBytes v.d.fmt 1
  if v.usesCount then wrEng w t q (v.count + 4 * r) (leBytes 4 picked.length) else pure ()
  match v.mode with
  | 1 => do
    let vs := picked.map (fun i => run.v.getD i svZero)
    let (bs, _, fl) := encodeRow v.d.fmt v.round v.rnd n0 id vs
    wrEng w t q dst bs
    if v.usesIdx then wrEng w t q (v.idx + r * 64 * cdiv d0 16) ((picked.map (leBytes 4)).flatten) else pure ()
    pure (picked.length, run.flags ||| fl)
  | 2 =>
    if v.keep then do
      let parts := (List.range picked.length).map (fun j =>
        let c := picked.getD j 0
        (c, encodeRow v.d.fmt v.round v.rnd n0 (fun _ => c) [run.v.getD j svZero]))
      wrAll w t q (parts.map (fun p => (dst + p.1 * es, p.2.1)))
      pure (picked.length, parts.foldl (fun f p => f ||| p.2.2.2) run.flags)
    else do
      let vs := (List.range d0).map (fun i =>
        match (List.range picked.length).find? (fun j => picked.getD j 0 == i) with
        | some j => run.v.getD j svZero
        | none => SV.of v.fill)
      let (bs, _, fl) := encodeRow v.d.fmt v.round v.rnd n0 id vs
      wrEng w t q dst bs
      pure (d0, run.flags ||| fl)
  | _ =>
    if v.dstOff then pure (0, run.flags)
    else do
      let (bs, sc, fl) := encodeRow v.d.fmt v.round v.rnd n0 id run.v
      wrEng w t q dst bs
      if codeMx v.d.fmt then wrEng w t q (v.dScale + r * scaleRow d0) sc else pure ()
      pure (d0, run.flags ||| fl)

/-- The chain or the inline stage that a VSTREAM runs. -/
def VStream.chain (v : VStream) (x : Ctx) : Option Chain :=
  if v.chainEn then x.chain v.slot else some ⟨0, [v.inline], v.consts⟩

/-- The rows of a VSTREAM run one after another, each to its end: where operands overlap, a row sees what the earlier rows of its own
descriptor wrote (R130 speaks of earlier descriptors; DESIGN CHOICE, log entry 87). -/
def unitVstream (c : Nat) (d : Desc) : Act (Option Stop) := do
  let x ← getCtx c
  let v := d.vstream
  let st := ((v.chain x).map (·.stages)).getD []
  checks (v.checks d st (x.judged d.vuse))
  checks (phaseCheck x d.opcode :: x.planCheck d.vuse ++ [((v.chain x).isNone, badState x 0x0101)])
  match ← runDims (d.who c) d.vuse with
  | none => noopResult 0
  | some dims => do
    let s ← get
    let (t, q) := s.ringSeat c d.ring
    let ch := (v.chain x).getD ⟨0, [], []⟩
    let d0 := dims.getD 0 0
    let d1 := dims.getD 1 0
    let rows := ((List.range (dims.getD 2 0)).map (fun i2 => (List.range d1).map (fun i1 => (i1, i2)))).flatten
    let (n, fl) ← rows.foldlM (fun (a : Nat × NumFlags) p => do
      let r ← v.row (d.who c) t q ch d0 d1 p.1 p.2
      pure (a.1 + r.1, a.2 ||| r.2)) (0, 0)
    okResult (at_ (n % 2 ^ 48) 0 ||| nfResult fl)

def execVstream (d : DescRef) (s : State) : Host.Outcome State Fault Refusal := .next (issue 0x200 d (unitVstream d.ctx) s)

end Sys2Proof.Machine
end

