-- ==== Sys2Proof/Machine/Gemm.lean ====
section
/-! DEFINITION. Gemm.lean: what the matrix array computes: feed classes, shapes, passes, leaves, roots and the value of an
output element (R82 to R84, R88 to R106). -/
namespace Sys2Proof.Machine

/-- The feed class of a format pair (R89): elements per lane and feed step, A and B lane bytes. -/
def feedClass (a b : Nat) : Option (Nat × Nat × Nat) :=
  let lane (c : Nat) : Nat := if c = 9 then 2 else 3
  if (a = 1 ∧ b = 1) ∨ (a = 2 ∧ b = 2) then some (1, 2, 2)
  else if (a = 3 ∨ a = 4) ∧ (b = 3 ∨ b = 4) then some (2, 2, 2)
  else if (a = 5 ∨ a = 6) ∧ (b = 5 ∨ b = 6) then some (2, 2, 2)
  else if (a = 7 ∨ a = 8 ∨ a = 9) ∧ (b = 7 ∨ b = 8 ∨ b = 9) then some (4, lane a, lane b)
  else none

/-- An instruction shape (R102): greatest M and N, array rows and columns used. -/
structure Shape where
  maxM : Nat
  maxN : Nat
  h : Nat
  w : Nat
  deriving DecidableEq, Repr

def shapeOf : Nat → Shape
  | 0 => ⟨128, 128, 128, 128⟩
  | 1 => ⟨256, 256, 128, 128⟩
  | 2 => ⟨64, 128, 64, 128⟩
  | 3 => ⟨32, 128, 32, 128⟩
  | _ => ⟨128, 96, 128, 96⟩

/-- The passes of a shape in order, as ranges of output columns (R102, R104); those beyond N are skipped. -/
def passRanges (shape n : Nat) (narrowed : Bool) : List (Nat × Nat) :=
  let all : List (Nat × Nat) :=
    if shape = 1 then
      (if narrowed then [(0, 96), (96, 128), (128, 224), (224, 256)] else [(0, 128), (128, 256)])
    else if shape = 4 then [(0, 96)]
    else if narrowed then [(0, 96), (96, 128)] else [(0, 128)]
  all.filter (fun p => decide (p.1 < n))

/-- Leaves of a reduction over K elements (R82, R90). -/
def leafCount (code k : Nat) : Nat := if codeGrouped code then cdiv k 32 else k

/-- The exact sum of the exact products of a group, rounded once (R82). -/
def leafGroupSV (as bs : List Val) : SV :=
  match List.zipWith vMul as bs with
  | [] => svZero
  | p :: r => svOp (r.foldl vAdd p) []

/-- A list filled up with +0 elements to a whole number of groups of 32 (R93). -/
def padGroup (l : List Val) : List Val := l ++ List.replicate (roundUp l.length 32 - l.length) (.fin false 0 0)

/-- The leaves of one output element: one per index, or one per group of 32 with the block scales in the values (R82). -/
def leavesSV (grouped : Bool) (as bs : List Val) : List SV :=
  if grouped then List.zipWith leafGroupSV (groupsOf 32 as.length (padGroup as)) (groupsOf 32 bs.length (padGroup bs))
  else List.zipWith (fun a b => svOp (vMul a b) []) as bs

/-- The root of the tree; a segment pass pads to 2^seg leaves (R83, R90). -/
def rootSV (seg : Option Nat) (ls : List SV) : SV :=
  match seg with
  | none => svTree ls
  | some m => svTree (ls ++ List.replicate (2 ^ m - ls.length) svZero)

/-- Steps 2 and 3 of R100: TSCALE, then the bias. -/
def scaleBias (root : SV) (tscale : Word) (bias : Option SV) : SV :=
  let v := svMul root (SV.of tscale)
  match bias with
  | some b => svAdd v b
  | none => v

/-- TSCALE is zero, subnormal, infinite or NaN (R97 item 7, R157 item 6). -/
def tscaleBad (t : Word) : Bool := decide (fld t 23 8 = 0) || decide (fld t 23 8 = 255)

/-- The values of n elements of a row with block scales applied (R69). -/
def scaledVals (code n : Nat) (bs scales : List Byte) : List Val :=
  if codeMx code then
    (List.range n).map (fun i => mxVal code (elemBits bs (codeBits code) i) (scales.getD (i / 32) 0).toNat)
  else elemVals code bs n

end Sys2Proof.Machine
end

