-- ==== Sys2Proof/Machine/Complete.lean ====
section
/-! DEFINITION. Complete.lean: a finished descriptor's completion record, and the teardown that its status brings (R54, R58, R63). -/
namespace Sys2Proof.Machine

/-- Reads of the Permafrost tier that the descriptor has asked for and not got (R239, R243). -/
def State.frostWaits (s : State) (c ring : Nat) (index : Word) : Bool :=
  (List.range 8).any (fun n => (s.pdev n).reqs.any (fun r => !r.write && r.ctx == c && r.ring == ring && r.index == index))

/-- The record of a finished descriptor is written; a status of R58's teardown column takes the context down first. After a teardown every
descriptor but the one that caused it completes as R63 says. -/
def State.endDesc (s : State) (c : Nat) (d : Desc) : State :=
  if (s.ctx c).st = .dead then (s.completeDesc c (d.stopped (s.ctx c).kill)).endIfDone c
  else
    let s1 := if (s.ctx c).tearsDown d.status then s.teardown c (killReg (some d) d.status) else s
    (s1.completeDesc c d).endIfDone c

/-- The descriptor has finished and everything that it read has come. -/
def execDescriptorComplete (ref : DescRef) (s : State) : Host.Outcome State Fault Refusal :=
  .next (match s.desc ref with
    | some d => if d.st = .done ∧ ¬ s.frostWaits ref.ctx ref.ring ref.index then s.endDesc ref.ctx d else s
    | none => s)

end Sys2Proof.Machine
end

