-- ==== Sys2Proof/Machine/Sched.lean ====
section
/-! DEFINITION. Sched.lean: placement, pre-emption and restore of contexts, and the cyclic table (R369 to R381). -/
namespace Sys2Proof.Machine

/-! ### Cores (R369, R381, R454) -/

/-- A core that can take a seat: enabled and not held. -/
def Tile.usable (t : Tile) (n : Nat) : Bool := t.enabled.getLsbD n && !(t.core n).held

/-- Cores of a tile that placed contexts occupy. -/
def State.occupied (s : State) (t : Nat) : List Nat :=
  (s.ctxs.map (fun e => (e.2.sched.place.filter (fun p => p.1 == t)).map (fun p => p.2.2))).flatten

/-- The usable cores of a tile, full ones before narrowed ones (R369). -/
def State.coreOrder (s : State) (t : Nat) : List Nat :=
  let k := s.tile t
  let us := (List.range 18).filter k.usable
  us.filter (fun n => !k.narrowed.getLsbD n) ++ us.filter (fun n => k.narrowed.getLsbD n)

/-- Free cores of a tile in the order in which seats take them. -/
def State.freeCores (s : State) (t : Nat) : List Nat := (s.coreOrder t).filter (fun n => !(s.occupied t).contains n)

/-- Seats of a context that are placed on each of its tiles: all of them, or as many as the tile has usable cores (R381). -/
def State.need (s : State) (c t : Nat) : Nat :=
  if (s.ctx c).sched.tileMask.getLsbD t then min (s.ctx c).sched.seats.toNat (s.coreOrder t).length else 0

/-- A tile that an open slot of the live table grants (R378). -/
def State.tileGranted (s : State) (t : Nat) : Bool :=
  s.sched.cyc.open_.any (fun n => (tget CycSlot.reset s.sched.cyc.live n).tileMask.getLsbD t)

/-- Context a is ranked before context b (R373). -/
def State.ranked (s : State) (a b : Nat) : Bool :=
  let x := s.ctx a
  let y := s.ctx b
  let va := (s.dom (s.ctxDom a)).served.toNat
  let vb := (s.dom (s.ctxDom b)).served.toNat
  decide (va < vb) || (decide (va = vb) && (decide (y.sched.priority.toNat < x.sched.priority.toNat)
    || (x.sched.priority == y.sched.priority && decide (x.sched.waitStamp < y.sched.waitStamp))))

/-- The waiting contexts. -/
def State.waiters (s : State) : List Nat := (tkeys s.ctxs).filter s.waiting

/-- The head: the waiting context that no other is ranked before (R373). -/
def State.head (s : State) : Option Nat :=
  s.waiters.find? (fun c => s.waiters.all (fun d => d == c || !s.ranked d c))

/-- The cores of a tile suffice for a context, with `kept` cores kept for the head. -/
def State.fits (s : State) (c : Nat) (kept : Nat → Nat) : Bool :=
  (tilesOf (s.ctx c).sched.tileMask.toNat).all (fun t =>
    !s.tileGranted t && decide (s.need c t + kept t ≤ (s.freeCores t).length))
  && (tilesOf (s.ctx c).sched.tileMask.toNat).any (fun t => decide (0 < s.need c t))

/-- The scheduler may place the context: it is the head, or it takes only cores that the head does not need (R373). -/
def State.mayPlace (s : State) (c : Nat) : Bool :=
  s.waiting c && s.fits c (fun t => match s.head with
    | some h => if h = c then 0 else s.need h t
    | none => 0)

/-- A seat that is left out loses its work (R381): its ring's direct descriptors complete with 0x70, its rings are disabled. Its saved core
stays, should it be restored later (R163). -/
def State.loseSeat (s : State) (c t q : Nat) : State :=
  let onSeat (r : Ring) : Bool := r.tile.toNat == t && r.seat.toNat == q
  let s1 := (s.ctx c).descs.foldl (fun s d =>
    if onSeat ((s.ctx c).ring d.ring) ∧ d.st ≠ .done ∧ ¬ d.counterDriven then
      s.withdrawDesc c d
    else s) s
  let s2 := s1.redoSeat c t q
  s2.modCtx c (fun x => { x with
    rings := x.rings.map (fun e => (e.1, if onSeat e.2 then { e.2 with enable := false, fetched := 0 } else e.2))
    sched := { x.sched with seatLost := true, seatLostCnt := satInc x.sched.seatLostCnt } })

/-- The seats of a context that a placement leaves out: on each tile those above the cores that there are (R381). -/
def State.lostSeats (s : State) (c : Nat) : List (Nat × Nat) :=
  ((tilesOf (s.ctx c).sched.tileMask.toNat).map (fun t =>
    (List.range ((s.ctx c).sched.seats.toNat - s.need c t)).map (fun i => (t, s.need c t + i)))).flatten

/-- The context takes its cores, seat numbers ascending (R369), and its restore begins. -/
def State.placeCtx (s : State) (c : Nat) : State :=
  let place := ((tilesOf (s.ctx c).sched.tileMask.toNat).map (fun t =>
    (List.range (s.need c t)).map (fun q => (t, q, (s.freeCores t).getD q 0)))).flatten
  let lost := s.lostSeats c
  let s1 := (lost.filter (fun p => !(s.ctx c).sched.lost.contains p)).foldl (fun s p => s.loseSeat c p.1 p.2) s
  let s2 := s1.modCtx c (fun x => x.modSched (fun q => { q with
    placed := true, place := place, restoring := true, placeStamp := s.sched.stamp, resumed := false, slotOver := false, lost := lost }))
  { s2 with sched := { s2.sched with stamp := s2.sched.stamp + 1 } }

/-- The context can take its slot of the cyclic table (R378): it runs, is BOUND with a START accepted, or is PAUSED and not suspended, with
work or without. -/
def Ctx.slotMay (x : Ctx) : Bool :=
  match x.st with
  | .run => true
  | .bound => x.sched.queued
  | .paused => !x.sched.suspended
  | _ => false

/-- The live slot of number n, when the table runs. -/
def State.liveSlot (s : State) (n : Nat) : Option CycSlot :=
  let k := tget CycSlot.reset s.sched.cyc.live n
  if s.sched.cyc.en && k.valid then some k else none

/-- The context of an open slot is placed once its cores are free (R378, R389). -/
def State.slotPlaces (s : State) (c : Nat) : Bool :=
  let x := s.ctx c
  s.sched.cyc.open_.any (fun n => (s.liveSlot n).any (fun k => k.context.toNat == c))
    && x.slotMay && !x.sched.placed && !x.sched.saving
    && (tilesOf x.sched.tileMask.toNat).all (fun t => decide (s.need c t ≤ (s.freeCores t).length))
    && (tilesOf x.sched.tileMask.toNat).any (fun t => decide (0 < s.need c t))

def execContextPlace (c : Nat) (s : State) : Host.Outcome State Fault Refusal :=
  .next (if s.mayPlace c || s.slotPlaces c then s.placeCtx c else s)

/-! ### Yielding (R374) -/

/-- Idle for IDLE_LIMIT, and still idle. -/
def Ctx.idle (x : Ctx) : Bool := x.sched.idleHit && !x.hasWork

/-- The context has been placed for HOLD_LIMIT. -/
def State.held (s : State) (x : Ctx) : Bool := x.sched.holdHit && decide (s.sched.holdLimit ≠ 0)

/-- A placed context is yieldable (R374). -/
def State.yieldable (s : State) (c : Nat) : Bool :=
  let x := s.ctx c
  x.sched.placed && !s.liveNames c && !x.sched.saving && !x.sched.restoring && decide (x.st = .run)
    && (x.idle || decide (s.sched.quantumJobs.toNat ≤ x.sched.jobs) || s.held x)

/-- A tile on which the head lacks cores holds the context. -/
def State.inHeadsWay (s : State) (h c : Nat) : Bool :=
  (tilesOf (s.ctx h).sched.tileMask.toNat).any (fun t =>
    decide ((s.freeCores t).length < s.need h t) && decide (0 < (s.ctx c).placedOn t))

/-- The scheduler may pre-empt the context for the head (R374). -/
def State.mayYieldTo (s : State) (h c : Nat) : Bool :=
  let x := s.ctx c
  s.yieldable c && s.inHeadsWay h c
    && (x.descs.isEmpty || decide ((s.dom (s.ctxDom h)).served.toNat < (s.dom (s.ctxDom c)).served.toNat))
    && (x.cfg.resumable || x.idle || s.held x)

/-- Among those that may yield, a is taken before b: idle first, then the domain with the highest V, then the one placed longest ago. -/
def State.yieldsBefore (s : State) (a b : Nat) : Bool :=
  let x := s.ctx a
  let y := s.ctx b
  let va := (s.dom (s.ctxDom a)).served.toNat
  let vb := (s.dom (s.ctxDom b)).served.toNat
  (x.idle && !y.idle) || (x.idle == y.idle && (decide (vb < va)
    || (decide (va = vb) && decide (x.sched.placeStamp < y.sched.placeStamp))))

/-- The scheduler pre-empts the context for the head now. -/
def State.yieldChosen (s : State) (c : Nat) : Bool :=
  match s.head with
  | some h => s.mayYieldTo h c
      && (tkeys s.ctxs).all (fun d => d == c || !s.mayYieldTo h d || !s.yieldsBefore d c)
  | none => false

/-- One of the context's cores has been held or retired: it is pre-empted and restored under R381 (R389, R454). -/
def State.coreGone (s : State) (c : Nat) : Bool :=
  (s.ctx c).sched.place.any (fun p => !(s.tile p.1).usable p.2.2)

/-- An open slot of another context has been granted one of the context's tiles (R378). -/
def State.cleared (s : State) (c : Nat) : Bool :=
  s.sched.cyc.open_.any (fun n =>
    let k := tget CycSlot.reset s.sched.cyc.live n
    k.context.toNat != c && (tilesOf k.tileMask.toNat).any (fun t => decide (0 < (s.ctx c).placedOn t)))

/-- A pre-emption of the context may start: for the head, for a slot, for a gone core, or for a SUSPEND or
the end of the context's own slot that waited for image slots or for a restore. -/
def State.mayPreempt (s : State) (c : Nat) : Bool :=
  let x := s.ctx c
  x.sched.placed && !x.sched.saving && !x.sched.restoring && decide (x.st = .run) && s.slotsFree c
    && (s.yieldChosen c || s.coreGone c || s.cleared c || x.sched.suspended || x.sched.slotOver)

def execContextPreempt (c : Nat) (s : State) : Host.Outcome State Fault Refusal :=
  .next (if s.mayPreempt c then s.beginPreempt c else s)

/-- The last image is written, which it is once every array stands at its boundary (R114): the cores are released and STATE becomes PAUSED
(R379 steps 2 to 5). -/
def execContextSaveComplete (c : Nat) (s : State) : Host.Outcome State Fault Refusal :=
  .next (if (s.ctx c).sched.saving && (s.ctx c).sched.place.all (fun p => (s.ctx c).atBoundary p.1 p.2.1) then
      State.track s (s.modCtx c (fun x => { x with st := .paused, sched := { x.sched with
        saving := false, placed := false, place := [], idleHit := false, holdHit := false } }))
    else s)

/-- The images are read back and their slots freed, or the seats are zeroed; the context is in RUN and its waits are placed and judged again
(R355, R371, R379). -/
def execContextRestoreComplete (c : Nat) (s : State) : Host.Outcome State Fault Refusal :=
  .next (if (s.ctx c).sched.restoring then
      State.track s ((s.modCtx c (fun x => { x with
        st := .run
        seats := (x.seats.filter (fun e => x.sched.images.contains (e.1 / 16, e.1 % 16))).map
          (fun e => (e.1, { e.2 with held := none, chainCache := [] }))
        xl := if x.sched.rootWritten then { x.xl with cache := [], ptrs := [] } else x.xl
        sched := { x.sched with restoring := false, queued := false, images := x.sched.images.filter x.sched.lost.contains, jobs := 0, idleHit := false,
                                holdHit := false, rootWritten := false } })).restoreWaits c)
    else s)

/-- IDLE_LIMIT passes with no unfetched slot and no admitted descriptor (R374). -/
def execIdleLimitExpiry (c : Nat) (s : State) : Host.Outcome State Fault Refusal :=
  .next (if (s.ctx c).sched.placed ∧ (s.ctx c).hasWork = false then
      s.modCtx c (fun x => x.modSched (fun q => { q with idleHit := true })) else s)

/-- HOLD_LIMIT passes since the placement; 0 is no limit (R374). -/
def execHoldLimitExpiry (c : Nat) (s : State) : Host.Outcome State Fault Refusal :=
  .next (if (s.ctx c).sched.placed ∧ s.sched.holdLimit ≠ 0 then
      s.modCtx c (fun x => x.modSched (fun q => { q with holdHit := true })) else s)

/-! ### The cyclic table (R376 to R378) -/

/-- The slots of a table that are valid, with their numbers. -/
def validSlots (t : Tbl CycSlot) : List (Nat × CycSlot) := t.filter (fun e => e.2.valid)

/-- Two slots that share a tile overlap, or lie closer than the lead, around the period (condition 5 of R377). -/
def slotsClash (period lead : Nat) (a b : Nat × CycSlot) : Bool :=
  let s1 := a.2.startUs.toNat
  let e1 := s1 + a.2.lenUs.toNat
  let s2 := b.2.startUs.toNat
  let e2 := s2 + b.2.lenUs.toNat
  let gap := if a.2.context = b.2.context then 0 else lead
  decide (a.1 ≠ b.1) && (a.2.tileMask &&& b.2.tileMask != 0)
    && !((decide (e1 + gap ≤ s2) && decide (e2 + gap ≤ s1 + period)) || (decide (e2 + gap ≤ s1) && decide (e1 + gap ≤ s2 + period)))

/-- One slot against the lead of the next period's first use of its own tiles: the slot repeats after a period. -/
def State.cycError (s : State) : Nat :=
  let c := s.sched.cyc
  let p := c.periodUs.toNat
  let l := c.leadUs.toNat
  let vs := validSlots c.shadow
  if p < 1000 ∨ 100000 < p ∨ l < 720 then 1
  else if vs.any (fun e => decide (e.2.lenUs = 0) || decide (e.2.startUs.toNat < l)
      || decide (p < e.2.startUs.toNat + e.2.lenUs.toNat)) then 2
  else if vs.any (fun e => decide (2 ^ s.nStacks ≤ e.2.tileMask.toNat)
      || decide ((s.ctx e.2.context.toNat).cfg.cls ≠ 2) || decide ((s.ctx e.2.context.toNat).st = .empty)
      || !(s.dom (s.ctxDom e.2.context.toNat)).class2Ok) then 3
  else if vs.any (fun e => (s.ctx e.2.context.toNat).sched.tileMask &&& ~~~ e.2.tileMask != 0) then 4
  else if vs.any (fun a => vs.any (fun b => slotsClash p l a b)) then 5
  else 0

/-- The cyclic table changes. -/
def State.modCyc (s : State) (f : Cyclic → Cyclic) : State := { s with sched := { s.sched with cyc := f s.sched.cyc } }

/-- COMMIT: checked at once (R376, R377). -/
def execCyclicCommit (s : State) : Host.Outcome State Fault Refusal :=
  .next (if !s.variant.cyclic then s
    else
      let e := s.cycError
      if e = 0 then s.modCyc (fun c => { c with checked := some (c.shadow, c.periodUs, c.leadUs), commitPend := true })
      else s.modCyc (fun c => { c with err := true, errCode := BitVec.ofNat 4 e }))

/-- TRIM: signed CLK_FAB cycles for the next period only (R376). -/
def execCyclicTrim (trim : Half) (s : State) : Host.Outcome State Fault Refusal :=
  .next (if s.variant.cyclic then s.modCyc (fun c => { c with trim := trim }) else s)

/-- CYCLIC is set on each context that the live table names (R61, R378). -/
def State.setCyclic (s : State) : State :=
  { s with ctxs := s.ctxs.map (fun e => (e.1, { e.2 with cyclic := s.liveNames e.1 })) }

/-- A period starts: a checked shadow becomes live, the period's length takes its TRIM (R376, R378). -/
def execCyclicPeriodStart (s : State) : Host.Outcome State Fault Refusal :=
  .next (if !s.variant.cyclic || !s.sched.cyc.en then s
    else State.track s (
      let named := (validSlots ((s.sched.cyc.checked.map (·.1)).getD [])).map (fun e => e.2.context.toNat)
      let s := named.foldl (fun s c => s.modCtx c id) s
      State.setCyclic (s.modCyc (fun c =>
        let c := match c.checked with
          | some (t, p, l) => { c with live := t, livePeriod := p, liveLead := l, checked := none, commitPend := false }
          | none => c
        { c with periodCycles := ((c.livePeriod.toNat * 1800 : Nat) + sgn 16 c.trim.toNat).toNat, trim := 0,
                 periodCnt := c.periodCnt + 1 }))))

/-- EN of MOD_CYC_CFG is written (R376, R378): a table that no longer runs names no context and grants no tile, and one that runs names its
contexts. -/
def State.runTable (s : State) (on : Bool) : State :=
  State.track s (State.setCyclic (s.modCyc (fun c =>
    { c with en := on, open_ := if on then c.open_ else [], started := if on then c.started else [] })))

/-- A descriptor of the context has met a status that tears it down, and its record is not written. -/
def Ctx.faulted (x : Ctx) : Option Desc := x.descs.find? (fun d => decide (d.st = .done) && x.tearsDown d.status)

/-- A context leaves the tiles of a slot: by the teardown that a fault at that instant brings, first and without a save (R389), else by a
pre-emption when one may start. -/
def State.clearFor (s : State) (c : Nat) : State :=
  match (if (s.ctx c).sched.placed then (s.ctx c).faulted else none) with
  | some d => s.endDesc c d
  | none => if s.mayPreempt c then s.beginPreempt c else s

/-- START_US − LEAD_US: every other context on the slot's tiles is pre-empted, whatever its quantum, as image slots allow; the
slot's context is placed when its cores are free (R378). -/
def execCyclicSlotLead (n : Nat) (s : State) : Host.Outcome State Fault Refusal :=
  .next (match s.liveSlot n with
    | none => s
    | some k =>
      let s1 := if s.sched.cyc.open_.contains n then s else s.modCyc (fun c => { c with open_ := c.open_ ++ [n] })
      let s2 := (tkeys s1.ctxs).foldl (fun s c => if s.cleared c then s.clearFor c else s) s1
      let c := k.context.toNat
      if s2.slotPlaces c then s2.placeCtx c
      else s2.modCtx c (fun x => x.modSched (fun q => { q with slotOver := false })))

/-- START_US: the slot's context runs; LATE when its placement has not finished (R378). A SUSPENDED or DEAD context's slot runs gated. -/
def execCyclicSlotStart (n : Nat) (s : State) : Host.Outcome State Fault Refusal :=
  .next (match s.liveSlot n with
    | none => s
    | some k =>
      let x := s.ctx k.context.toNat
      let s1 := s.modCyc (fun c => { c with started := if c.started.contains n then c.started else c.started ++ [n] })
      if x.slotMay && !(x.sched.placed && !x.sched.restoring && !x.sched.saving) then
        s1.modCyc (fun c => { c with late := true, lateCnt := satInc c.lateCnt })
      else s1)

/-- A slot of the same context on the same tiles begins at the instant this one ends (R378). -/
def State.slotFollows (s : State) (k : CycSlot) : Bool :=
  (validSlots s.sched.cyc.live).any (fun e => e.2.context == k.context && e.2.tileMask == k.tileMask
    && decide (e.2.startUs.toNat = k.startUs.toNat + k.lenUs.toNat))

/-- START_US + LEN_US: the context is pre-empted, at once or when its image slots are free and its restore is over; OVERRUN when it holds an
admitted descriptor that has not completed and is neither SUSPENDED nor DEAD (R378, R379, log entry 72). -/
def execCyclicSlotEnd (n : Nat) (s : State) : Host.Outcome State Fault Refusal :=
  .next (match s.liveSlot n with
    | none => s
    | some k =>
      let c := k.context.toNat
      let s1 := s.modCyc (fun q => { q with open_ := q.open_.filter (· != n), started := q.started.filter (· != n) })
      if s.slotFollows k then s1
      else
        let pend := (s.ctx c).slotMay && !(s.ctx c).descs.isEmpty
        let s2 := if pend then
          (s1.modCyc (fun q => { q with overrun := true, overrunCnt := satInc q.overrunCnt })).modCtx c
            (fun x => x.modSched (fun q => { q with overrun := true, overrunCnt := satInc q.overrunCnt }))
          else s1
        let x := s2.ctx c
        if x.sched.placed = false ∨ (x.st ≠ .run ∧ x.sched.restoring = false) ∨ x.sched.saving = true then s2
        else if x.sched.restoring = false ∧ s2.slotsFree c = true then s2.beginPreempt c
        else s2.modCtx c (fun x => x.modSched (fun q => { q with slotOver := true })))

end Sys2Proof.Machine
end

