-- ==== Sys2Proof/Machine/Matrix.lean ====
section
/-! DEFINITION. Matrix.lean: the matrix array: MATMUL, the commit queue, array faults, checkpoints and Clear-sky (R88 to R120). -/
namespace Sys2Proof.Machine

/-! ### The MATMUL descriptor (R96) -/

structure Matmul where
  a : Nat
  b : Nat
  dst : Nat
  bias : Nat
  bsrc : Nat
  aFmt : Nat
  bFmt : Nat
  dstFmt : Nat
  biasFmt : Nat
  shape : Nat
  round : Nat
  layout : Nat
  biasEn : Bool
  chainEn : Bool
  stride : Nat
  slot : Nat
  mask : Nat
  aScale : Nat
  bScale : Nat
  tscale : Word
  rnd : RndBlock
  seg : Nat
  width : Nat
  row0 : Nat
  col0 : Nat
  deriving DecidableEq, Repr

def Desc.matmul (d : Desc) : Matmul :=
  let w4 := d.word 4
  { a := fld (d.word 1) 0 26, b := fld (d.word 1) 32 26, dst := fld (d.word 2) 0 26, bias := fld (d.word 2) 32 26
    bsrc := fld (d.word 3) 52 2
    aFmt := fld w4 0 4, bFmt := fld w4 4 4, dstFmt := fld w4 8 4, biasFmt := fld w4 12 4, shape := fld w4 16 3
    round := fld w4 19 3, layout := fld w4 22 2, biasEn := bit w4 24, chainEn := bit w4 25
    stride := fld w4 32 16 * 64, slot := fld w4 48 8
    mask := (d.word 5).toNat + (d.word 6).toNat * 2 ^ 64 + (d.word 7).toNat * 2 ^ 128 + (d.word 8).toNat * 2 ^ 192
    aScale := fld (d.word 9) 0 26, bScale := fld (d.word 9) 32 26, tscale := BitVec.ofNat 32 (fld (d.word 10) 0 32)
    rnd := rndBlock (d.word 11) (d.word 12)
    seg := fld (d.word 13) 0 5, width := fld (d.word 13) 8 24, row0 := fld (d.word 14) 0 24, col0 := fld (d.word 14) 24 24 }

def Desc.muse (d : Desc) : PlanUse :=
  ⟨fld (d.word 3) 40 12, fld (d.word 3) 52 2 == 1, 1, [fld (d.word 3) 0 9, fld (d.word 3) 9 9, fld (d.word 3) 18 22]⟩

/-- The bias tensor is in use (R97): BIAS_EN, or a chain that may select Z. -/
def Matmul.usesBias (m : Matmul) : Bool := m.biasEn || m.chainEn

/-- Bytes of an A feed line and of a B feed line (R92). -/
def Matmul.aLine (m : Matmul) (la : Nat) : Nat := if m.shape = 1 then 128 * la else roundUp ((shapeOf m.shape).h * la) 64
def Matmul.bLine (m : Matmul) (lb : Nat) : Nat := if m.shape = 1 then 128 * lb else roundUp ((shapeOf m.shape).w * lb) 64

/-- Where lane group k of A row r begins (R92). -/
def Matmul.aAddr (m : Matmul) (la r k : Nat) : Nat :=
  if m.shape = 1 then m.a + (2 * k + r / 128 + r % 128) * m.aLine la + r % 128 * la
  else m.a + (k + r) * m.aLine la + r * la

/-- Where lane group k of B column c begins (R92). -/
def Matmul.bAddr (m : Matmul) (lb kp c k : Nat) : Nat :=
  if m.shape = 1 then m.b + (c / 128 * (kp + 64) + k + c % 128 / 2) * m.bLine lb + c % 128 * lb
  else m.b + (k + c) * m.bLine lb + c * lb

/-- Elements per lane of the class of DST_FMT, in a skew destination (R110). -/
def Matmul.dstG (m : Matmul) : Nat := if m.dstFmt = 3 ∨ m.dstFmt = 4 then 2 else 1

/-- Where output element (r, c) goes (R106, R110). -/
def Matmul.dstAddr (m : Matmul) (r c : Nat) : Nat :=
  let eb := codeBytes m.dstFmt 1
  let g := m.dstG
  match m.layout with
  | 0 => m.dst + r * m.stride + c * eb
  | 1 => m.dst + (c / g + r) * 256 + r * 2 + c % g * eb
  | _ => m.dst + (r / g + c) * 256 + c * 2 + r % g * eb

def Matmul.biasAddr (m : Matmul) (r c : Nat) : Nat := m.bias + r * m.stride + c * codeBytes m.biasFmt 1

/-- Bytes of a scale line of A and of B (R95). A line of B holds a byte for each of the shape's columns, be N fewer (log entry 70). -/
def Matmul.aScaleLine (m : Matmul) : Nat := roundUp (if m.shape = 1 then 256 else (shapeOf m.shape).h) 64
def Matmul.bScaleLine (m : Matmul) : Nat := roundUp (shapeOf m.shape).maxN 64

/-- The items of R97, in order, then the reserved fields (R11). A footprint is the lines that the pass feeds or writes: B's second half of an F2
shape counts for N above 128 alone, and a skew destination has the lines that hold an element (DESIGN CHOICE, log entry 87). -/
def Matmul.checks (m : Matmul) (d : Desc) (dims : Option (List Nat)) : List (Bool × Stop) :=
  let (g, la, lb) := (feedClass m.aFmt m.bFmt).getD (1, 2, 2)
  let sh := shapeOf m.shape
  let mm := (dims.getD []).getD 0 0
  let nn := (dims.getD []).getD 1 0
  let kk := (dims.getD []).getD 2 0
  let out := decide (mm ≠ 0) && decide (nn ≠ 0)
  let kp := cdiv kk g
  let nl := leafCount m.aFmt kk
  let dim (lo : Nat) : Stop := badDesc 3 (if m.bsrc = 1 then 40 else lo) 9
  let mxA := codeMx m.aFmt
  let mxB := codeMx m.bFmt
  let excess (use : Bool) (base n word lo : Nat) : Bool × Stop := (dims.isSome && use && beyondSp base n, badDesc word lo 9)
  let aBytes := if m.shape = 1 then (2 * kp + 127) * m.aLine la else (kp + sh.h - 1) * m.aLine la
  let bBytes := if m.shape = 1 then (if 128 < nn then 2 else 1) * (kp + 64) * m.bLine lb else (kp + sh.w - 1) * m.bLine lb
  let dBytes := match m.layout with
    | 0 => (mm - 1) * m.stride + nn * codeBytes m.dstFmt 1
    | 1 => (cdiv nn m.dstG + mm - 1) * 256
    | _ => (cdiv mm m.dstG + nn - 1) * 256
  [ ((feedClass m.aFmt m.bFmt).isNone, badDesc 4 0 9),
    (decide (4 < m.dstFmt), badDesc 4 8 9),
    (m.usesBias && decide (2 < m.biasFmt), badDesc 4 12 9),
    (decide (m.a % 128 ≠ 0), badDesc 1 0 9),
    (decide (m.b % 128 ≠ 0), badDesc 1 32 9),
    (decide (m.dst % 64 ≠ 0), badDesc 2 0 9),
    (m.usesBias && decide (m.bias % 64 ≠ 0), badDesc 2 32 9),
    (mxA && decide (m.aScale % 64 ≠ 0), badDesc 9 0 9),
    (mxB && decide (m.bScale % 64 ≠ 0), badDesc 9 32 9),
    (decide (5 ≤ m.shape), badDesc 4 16 9),
    (decide (m.layout = 3), badDesc 4 22 9),
    (roundBad m.round, badDesc 4 19 9),
    (decide (2 ≤ m.bsrc), badDesc 3 52 9),
    (d.muse.unnamed, badDesc 3 40 9),
    (decide (sh.maxM < mm), dim 0), (decide (sh.maxN < nn), dim 9),
    (decide (2097152 < kk) || decide (65536 < nl), dim 18),
    excess true m.a aBytes 1 0, excess true m.b bBytes 1 32, excess out m.dst dBytes 2 0,
    excess (out && m.usesBias) m.bias ((mm - 1) * m.stride + nn * codeBytes m.biasFmt 1) 2 32,
    excess mxA m.aScale (cdiv kk 32 * m.aScaleLine) 9 0, excess mxB m.bScale (cdiv kk 32 * m.bScaleLine) 9 32,
    (decide (2 ^ sh.maxM ≤ m.mask), badDesc 4 16 9),
    (tscaleBad m.tscale, badDesc 10 0 9),
    (decide (16 < m.seg), badDesc 13 0 9),
    (decide (m.seg ≠ 0) && decide (2 ^ m.seg < nl), dim 18),
    (decide (m.seg ≠ 0) && decide (m.dstFmt ≠ 0), badDesc 4 8 9),
    (decide (m.seg ≠ 0) && m.biasEn, badDesc 4 24 9),
    (decide (m.seg ≠ 0) && m.chainEn, badDesc 4 25 9),
    (decide (m.seg ≠ 0) && m.tscale != f32one, badDesc 10 0 9),
    (decide (m.seg ≠ 0) && decide (m.layout ≠ 0), badDesc 4 22 9),
    (dims.isSome && decide (m.round % 4 = 1) && decide (m.width < m.col0 + nn), dim 9),
    (decide (m.layout ≠ 0) && decide (m.shape ≠ 0), badDesc 4 16 9),
    (decide (m.layout ≠ 0) && decide (m.dstFmt = 0), badDesc 4 8 9),
    rsv d 1 26 6, rsv d 1 58 6, rsv d 2 26 6, rsv d 2 58 6, rsv d 3 54 10, rsv d 4 26 6, rsv d 4 56 8, rsv d 9 26 6,
    rsv d 9 58 6, rsv d 10 32 32, rsv d 13 5 3, rsv d 13 32 32, rsv d 14 48 16 ]

/-! ### Rows, groups and operands (R92, R93, R95, R105, R106) -/

/-- A row is live (R105). -/
def Matmul.live (m : Matmul) (mm r : Nat) : Bool := m.mask.testBit r && decide (r < mm)

/-- The 8-row group of a row holds a live row (R105). -/
def Matmul.computed (m : Matmul) (mm r : Nat) : Bool := (List.range 8).any (fun i => m.live mm (r / 8 * 8 + i))

/-- A column shares a 32-column quarter with a live column (R106). -/
def fedColumn (nn c : Nat) : Bool := decide (c / 32 * 32 < nn)

/-- The K element values of a row of A or a column of B, from its lanes. -/
def feedVals (w : Who) (t q code lane g kk : Nat) (addr : Nat → Nat) (scale : Nat → Nat) : Act (List Val) := do
  let groups ← (List.range (cdiv kk g)).mapM (fun k => do
    let bs ← rdSeat w t q (addr k) lane
    pure ((List.range g).map (fun i => elemBits bs (codeBits code) i)))
  let pats := groups.flatten.take kk
  if codeMx code then do
    let sc ← (List.range (cdiv kk 32)).mapM (fun b => do
      let bs ← rdSeat w t q (scale b) 1
      pure (bs.getD 0 0).toNat)
    pure ((List.range kk).map (fun i => mxVal code (pats.getD i 0) (sc.getD (i / 32) 0)))
  else pure (pats.map (fun x => decodeVal (codeFmt code) x))

/-- One element of a tensor in the scratchpad, as a chain reads it. -/
def elemAt (w : Who) (t q addr code : Nat) : Act SV := do
  let bs ← rdEng w t q addr (codeBytes code 1)
  pure (SV.of (elemF32 code (leNat bs)))

/-- The bytes of output elements of a row: one run, or one write per element in a skew destination (R106, R110). -/
def Matmul.rowWrites (m : Matmul) (r c0 : Nat) (pats : List Nat) : List (Nat × List Byte) :=
  let eb := codeBytes m.dstFmt 1
  if m.layout = 0 then (if pats.isEmpty then [] else [(m.dstAddr r c0, (pats.map (leBytes eb)).flatten)])
  else (List.range pats.length).map (fun i => (m.dstAddr r (c0 + i), leBytes eb (pats.getD i 0)))

/-! ### A MATMUL's passes -/

/-- What a live row contributes: writes by column range of each pass, writes that wait for the whole row, flags. -/
structure RowOut where
  parts : List (List (Nat × List Byte))
  whole : List (Nat × List Byte)
  flags : NumFlags
  deriving DecidableEq, Repr

/-- Columns of the row that the ranges of the passes give, cut at N. -/
def cutRanges (nn : Nat) (ps : List (Nat × Nat)) : List (Nat × Nat) := ps.map (fun p => (p.1, min p.2 nn))

/-- The patterns and flags of a row's values in the destination format; a segment pass writes its roots unaltered (R100, R131). -/
def Matmul.patterns (m : Matmul) (r : Nat) (vs : List SV) : List Nat × NumFlags :=
  let out := (List.range vs.length).map (fun c =>
    svConvert m.dstFmt (roundOf m.round m.rnd ((m.row0 + r) * m.width + m.col0 + c))
      (decide (m.seg = 0) && roundSat m.round) (vs.getD c svZero))
  (out.map (·.1), out.foldl (fun f x => f ||| x.2) 0)

/-- A live row drains: the values of R100, or a chain's results (R109, R131). -/
def Matmul.drainRow (m : Matmul) (w : Who) (t q : Nat) (ch : Option Chain) (nn : Nat) (ps : List (Nat × Nat)) (r : Nat)
    (roots : List SV) : Act RowOut := do
  let bias ← if m.biasEn then (List.range nn).mapM (fun c => do
      let b ← elemAt w t q (m.biasAddr r c) m.biasFmt
      pure (some b)) else pure []
  let vals := (List.range nn).map (fun c =>
    if m.seg ≠ 0 then roots.getD c svZero else scaleBias (roots.getD c svZero) m.tscale (bias.getD c none))
  let rs := cutRanges nn ps
  let split (pats : List Nat) : List (List (Nat × List Byte)) :=
    rs.map (fun p => m.rowWrites r p.1 ((pats.drop p.1).take (p.2 - p.1)))
  match ch with
  | none =>
    let (pats, fl) := m.patterns r vals
    pure ⟨split pats, [], fl⟩
  | some ch => do
    let ys ← if ch.stages.any (fun x => x.selects 2) then (List.range nn).mapM (fun c => elemAt w t q (m.dstAddr r c) m.dstFmt)
      else pure []
    let zs ← if ch.stages.any (fun x => x.selects 3) then (List.range nn).mapM (fun c => elemAt w t q (m.biasAddr r c) m.biasFmt)
      else pure []
    let rst ← readRowState w t q ch.rsBase r (ch.stages.any (fun x => x.writesRow || x.selects 5))
    let run := RowRun.run (RowRun.mk vals vals ys zs ch.consts (m.row0 + r) ((List.range nn).map (m.col0 + ·)) rst [] 0)
      ch.stages
    let (pats, fl) := m.patterns r run.v
    if rowHeld ch.stages then
      pure ⟨rs.map (fun _ => []), run.rowWrites ch.rsBase r ++ (split pats).flatten, run.flags ||| fl⟩
    else pure ⟨split pats, run.rowWrites ch.rsBase r, run.flags ||| fl⟩

/-- The physical core of a placed seat. -/
def Ctx.coreOf (x : Ctx) (t q : Nat) : Option Nat :=
  (x.sched.place.find? (fun p => p.1 == t && p.2.1 == q)).map (fun p => p.2.2)

/-- The seat's core is narrowed (R104, R112). -/
def State.narrowedSeat (s : State) (c t q : Nat) : Bool :=
  match (s.ctx c).coreOf t q with
  | some n => (s.tile t).narrowed.getLsbD n
  | none => false

/-- Feed steps between two checkpoints: 128 A feed lines (R92, R114). -/
def checkStep (shape : Nat) : Nat := if shape = 1 then 64 else 128

/-- A feed lines of a pass of kp feed steps (R92). -/
def feedLines (shape kp : Nat) : Nat := if shape = 1 then 2 * kp + 127 else kp + (shapeOf shape).h - 1
def Matmul.aLines (m : Matmul) (kp : Nat) : Nat := feedLines m.shape kp

/-- Leaves that each PE has pushed at checkpoint j of a pass of kp feed steps and `total` leaves (R89, R90, R114). -/
def pushedAt (shape aFmt bFmt kp total j : Nat) : Nat :=
  if kp ≤ checkStep shape * j then total
  else if codeGrouped aFmt then checkStep shape * j * ((feedClass aFmt bFmt).getD (1, 2, 2)).1 / 32 else checkStep shape * j
def Matmul.pushed (m : Matmul) (kp total j : Nat) : Nat := pushedAt m.shape m.aFmt m.bFmt kp total j

/-- Checkpoints of a pass that Clear-sky snapshots, one at every 128 of its A feed lines, then the last snapshot (R114, R119): number, last,
leaves pushed. -/
def Matmul.snapList (m : Matmul) (kp kk every most : Nat) : List (Nat × Bool × Nat) :=
  let total := leafCount m.aFmt kk
  let cps := ((List.range (m.aLines kp / 128)).map (· + 1)).filter (fun j => j % 2 ^ every == 0)
  let taken := cps.take most
  (List.range taken.length).map (fun i => (i, false, m.pushed kp total (taken.getD i 0))) ++ [(taken.length, true, total)]

/-! ### The PEs (R88, R90) -/

/-- Level j of the tree stack after n leaves: the node that holds them, +0 when the entry is not valid (R90, R119). -/
def stackLevel (ls : List Word) (n j : Nat) : Word :=
  if n.testBit j then (svTree (((ls.drop (n / 2 ^ (j + 1) * 2 ^ (j + 1))).take (2 ^ j)).map SV.of)).w else 0

/-- An accumulator set that has taken the first n leaves. -/
def AccSet.after (ls : List Word) (n : Nat) : AccSet := ⟨(List.range 17).map (stackLevel ls n), n⟩

def Seat.pe (k : Seat) (i : Nat) : Pe := tget Pe.reset k.pes i

/-- The accumulator sets as the array stands after n leaves of a pass: rows from 128 on lie in set 1 (R88, R91, R114). -/
def Seat.standAt (k : Seat) (p : Pass) (n : Nat) : Seat :=
  { k with pes := p.acc.foldl (fun l e =>
      let i := e.1 % 128 * 128 + e.2.1
      let pe := tget Pe.reset l i
      tput l i (if e.1 < 128 then { pe with set0 := AccSet.after e.2.2 n } else { pe with set1 := AccSet.after e.2.2 n })) k.pes }

/-- A pass has been finalised: its roots have gone through the shadow registers, its sets are clear (R90); where the array stands at a
checkpoint of a later pass, the sets hold what that pass has pushed (R114). -/
def Seat.finalise (k : Seat) (p : Pass) (seg : Option Nat) : Seat :=
  { k with pes := p.acc.foldl (fun l e =>
      let i := e.1 % 128 * 128 + e.2.1
      tput l i { (if k.held.isSome then tget Pe.reset l i else Pe.reset) with shadow := (rootSV seg (e.2.2.map SV.of)).w }) k.pes }

/-- RESULT of MATMUL (R101). -/
def Matmul.result (m : Matmul) (mm passes : Nat) (fl : NumFlags) : DWord :=
  let rows := List.range (shapeOf m.shape).maxM
  let live := (rows.filter (m.live mm)).length
  let comp := (rows.filter (m.computed mm)).length
  at_ live 0 ||| at_ (comp - live) 16 ||| at_ ((rows.length - comp) / 8) 32 ||| at_ passes 48 ||| nfResult fl

/-! ### A fault of the array (R115, R453, R454) -/

/-- A core is held for a self-test; the tile's flags, counts and the log say so (R454, R458, R459). A fault of a core that is held already
makes its self-test fail (R461). -/
def State.holdCore (s : State) (t n : Nat) : State :=
  if ((s.tile t).core n).held then s.modTile t (fun k => k.modCore n (fun x => { x with faultInTest := true }))
  else (s.modTile t (fun k => { k.modCore n (fun x => { x with held := true }) with held := true })).errLog 8 7 t n 0 LogWho.none

/-- The array of a seat's core met a fault: FAULT_CNT, and the core leaves service (R115, R454). -/
def State.countFault (s : State) (c t q : Nat) : State :=
  match (s.ctx c).coreOf t q with
  | some n => (s.modTile t (fun k => k.modCore n (fun x => { x with faultCnt := satInc x.faultCnt }))).holdCore t n
  | none => s

/-- An uncorrectable operand line, of A or B or of their scales, is an array's fault as well (R115). -/
def operandFault (c t q : Nat) {α : Type} (a : Act α) : Act α := fun s =>
  match a s with
  | .ok x s' => .ok x s'
  | .error e s' => .error e (if e.status = 0x31 then s'.countFault c t q else s')

/-- The passes of a MATMUL (R100 to R109): what the accumulators take and what the commit queue will hold. -/
def Matmul.compute (m : Matmul) (w : Who) (t q : Nat) (ch : Option Chain) (narrowed : Bool) (mm nn kk : Nat)
    (csky : Option (DWord × Nat × Nat × Nat)) : Act (List Pass × NumFlags) := do
  let (g, la, lb) := (feedClass m.aFmt m.bFmt).getD (1, 2, 2)
  let sh := shapeOf m.shape
  let kp := cdiv kk g
  let ps := passRanges m.shape nn narrowed
  let grouped := codeGrouped m.aFmt
  let rows := (List.range sh.maxM).filter (m.computed mm)
  let cols := (List.range sh.maxN).filter (fedColumn nn)
  let avs ← operandFault w.ctx t q (rows.mapM (fun r => do
    let v ← feedVals w t q m.aFmt la g kk (m.aAddr la r) (fun b => m.aScale + b * m.aScaleLine + r)
    pure (r, v)))
  let bvs ← operandFault w.ctx t q (cols.mapM (fun c => do
    let v ← feedVals w t q m.bFmt lb g kk (m.bAddr lb kp c) (fun b => m.bScale + b * m.bScaleLine + c)
    pure (c, v)))
  let pes := avs.map (fun a => (a.1, bvs.map (fun b => (b.1, leavesSV grouped a.2 b.2))))
  let outs ← (pes.filter (fun p => m.live mm p.1)).mapM (fun p =>
    m.drainRow w t q ch nn ps p.1
      ((p.2.take nn).map (fun e => rootSV (if m.seg = 0 then none else some m.seg) e.2)))
  let passes := (List.range ps.length).map (fun i => (fun (p : Nat × Nat) =>
    { num := i, steps := kp,
      writes := (outs.map (fun o => o.parts.getD i [] ++ (if i + 1 = ps.length then o.whole else []))).flatten,
      acc := (pes.map (fun r => (r.2.filter (fun e => decide (p.1 ≤ e.1) && decide (e.1 < p.2))).map
        (fun e => (r.1, e.1 - p.1, e.2.map (·.w))))).flatten,
      snaps := match csky with
        | some (_, _, every, most) => m.snapList kp kk every most
        | none => [] : Pass }) (ps.getD i (0, 0)))
  pure (passes, outs.foldl (fun f o => f ||| o.flags) 0)

def unitMatmul (c : Nat) (d : Desc) : Act (Option Stop) := do
  let s ← get
  let x := s.ctx c
  let m := d.matmul
  let csky := (x.ring d.ring).csky
  set (s.modRing c d.ring (fun r => { r with csky := none }))
  checks (m.checks d (x.judged d.muse))
  let ch := if m.chainEn then x.chain m.slot else none
  checks (phaseCheck x d.opcode :: x.planCheck d.muse ++ [(m.chainEn && ch.isNone, badState x 0x0101)])
  match ← runDims (d.who c) d.muse with
  | none => noopResult 0
  | some dims => do
    let (mm, nn, kk) := (dims.getD 0 0, dims.getD 1 0, dims.getD 2 0)
    let (t, q) := s.ringSeat c d.ring
    let narrowed := s.narrowedSeat c t q
    let ps := passRanges m.shape nn narrowed
    let srcN := match x.plan d.muse.plan with
      | some p => if d.muse.bound ∧ p.bsel 1 then p.bsrc + 1 else 0
      | none => 0
    require (!(rowHeld ((ch.map (·.stages)).getD []) && decide (1 < ps.length)
      && decide (65536 < (shapeOf m.shape).maxM * (ps.getLastD (0, 0)).1 * 4))) (shapeOver 1 srcN d.muse.plan nn)
    let (passes, fl) ← m.compute (d.who c) t q ch narrowed mm nn kk csky
    let s ← get
    set (s.setProg c d.ring d.index
      (.matmul t q s.free passes (csky.map (fun k => (k.1.toNat, k.2.1))) (m.result mm ps.length fl) none))
    pure none

def execMatmul (d : DescRef) (s : State) : Host.Outcome State Fault Refusal := .next (issue 0x100 d (unitMatmul d.ctx) s)

/-! ### The commit queue releases a pass (R108) -/

/-- No earlier descriptor of the core has rows in the commit queue. -/
def Ctx.oldestPass (x : Ctx) (t q stamp : Nat) : Bool :=
  x.descs.all (fun d => match d.prog with
    | .matmul t' q' st _ _ _ _ => decide (¬ (t' = t ∧ q' = q ∧ st < stamp))
    | _ => true)

/-- The array stands at a checkpoint of the oldest pass: that pass is not clean before the context is restored (R114). -/
def Seat.stands (k : Seat) : Bool :=
  match k.held with
  | some (_, before) => decide (before = 0)
  | none => false

/-- One more pass before the standing one has been released. -/
def Seat.oneReleased (k : Seat) : Seat := { k with held := k.held.map (fun h => (h.1, h.2 - 1)) }

/-- A pass is clean: its rows become visible in drain order; after the last pass the descriptor is finished (R108), with the fault of a later
pass where there was one (R117). -/
def unitPassClean (c : Nat) (d : Desc) : Act (Option Stop) := do
  let x ← getCtx c
  match d.prog with
  | .matmul t q st (p :: rest) cs res f =>
    if x.oldestPass t q st && p.snaps.isEmpty && !(x.seat t q).stands then do
      p.writes.forM (fun e => wrSeat (d.who c) t q e.1 e.2)
      let seg := d.matmul.seg
      modify (fun s => s.modSeat c t q (fun k => (k.finalise p (if seg = 0 then none else some seg)).oneReleased))
      if rest.isEmpty then
        match f with
        | some r => throw ⟨0x30, r⟩
        | none => okResult res
      else do
        modify (fun s => s.setProg c d.ring d.index (.matmul t q st rest cs res f))
        pure none
    else pure none
  | _ => pure none

/-- An array goes on until the save ends: what has been finished is released, a snapshot is completed (R114, R117). -/
def continueArray (ref : DescRef) (unit : Desc → Act (Option Stop)) (s : State) : State :=
  match s.desc ref with
  | none => s
  | some d =>
    let x := s.ctx ref.ctx
    if d.opcode = 0x100 ∧ d.st = .executing ∧ (x.st = .run ∨ x.st = .drain) ∧ x.sched.placed = true ∧ x.sched.restoring = false then
      State.settle ref.ctx ref.ring ref.index (unit d s.tick)
    else s

def execPassClean (d : DescRef) (s : State) : Host.Outcome State Fault Refusal :=
  .next (continueArray d (unitPassClean d.ctx) s)

/-! ### Array faults and checkpoints -/

/-- The passes of the descriptor that are outstanding on the array of this seat. -/
def State.arrayPasses (s : State) (c : Nat) (d : Desc) (t q : Nat) : List Nat := (s.ctx c).arrayPasses d t q

/-- An array fault of pass k of those outstanding: that pass and the later ones are abandoned; the earlier ones are judged by their own
products (R115, R117). -/
def Prog.faulted (p : Prog) (k : Nat) (res : DWord) : Option Prog :=
  match p, k with
  | .matmul t q st ps cs r _, k + 1 => some (.matmul t q st (ps.take (k + 1)) cs r (some res))
  | _, _ => Option.none

/-- A check fails in the commit queue once release has begun (R453): the first `rows` writes of the oldest pass, or none of a work tile, whose rows go
to the work area, have been released and stay; the descriptor ends with 0x31, SOURCE 6. -/
def unitQueueFault (c : Nat) (d : Desc) (t q rows : Nat) : Act (Option Stop) := do
  let x ← getCtx c
  match d.prog with
  | .matmul t' q' st (p :: _) _ _ _ =>
    if t' = t ∧ q' = q ∧ x.oldestPass t q st = true ∧ p.snaps.isEmpty = true ∧ (x.seat t q).stands = false ∧ rows < p.writes.length then do
      (p.writes.take rows).forM (fun e => wrSeat (d.who c) t q e.1 e.2)
      failSram (d.who c) 6 t q ((p.writes.getD rows (0, [])).1 / 64)
      pure none
    else pure none
  | .job _ => if x.arrayPasses d t q = [] then pure none else do
    failSram (d.who c) 6 t q (workBase / 64)
    pure none
  | _ => pure none

/-- It does so while the array works: its context is placed, in RUN or DRAIN, and not being restored. -/
def queueFault (ref : DescRef) (t q rows : Nat) (s : State) : State :=
  match s.desc ref with
  | none => s
  | some d =>
    let x := s.ctx ref.ctx
    if d.st = .executing ∧ (x.st = .run ∨ x.st = .drain) ∧ x.sched.placed = true ∧ x.sched.restoring = false then
      State.settle ref.ctx ref.ring ref.index (unitQueueFault ref.ctx d t q rows s.tick)
    else s

/-- A residue, exponent or parity check fails (R115, R453): the pass is abandoned without writes, the descriptor is finished with
0x30, once any earlier pass of it is released (R117), FAULT_CNT counts, and the core is held (R454). `kind` is KIND of R453, or 5 for the commit
queue, with the rows released in `row`; which of the outstanding passes it was is a free value (log entry 71). -/
def execArrayFault (d : DescRef) (t q kind row col : Nat) (s : State) : Host.Outcome State Fault Refusal :=
  .next (if kind = 5 then queueFault d t q row s else match s.desc d with
    | none => s
    | some e =>
      let ps := s.arrayPasses d.ctx e t q
      if ps.isEmpty ∨ e.st ≠ .executing then s
      else
        let k := Config.faultyPass s.free % ps.length
        let loc := at_ (ps.getD k 0 % 256) 12 ||| at_ (row % 256) 20 ||| at_ (col % 128) 28
        let i := s.logIndex
        let core := ((s.ctx d.ctx).coreOf t q).getD 0x1F
        let s1 := s.tick.modTile t (fun k => { k with array := true, arrayCnt := satInc k.arrayCnt })
        let s2 := (s1.errLog 4 7 t core loc (s1.logWho (e.who d.ctx) 0x30)).modSeat d.ctx t q (fun x => { x with pes := [], held := none })
        let res := at_ (kind % 16) 0 ||| at_ t 4 ||| at_ q 8 ||| loc ||| at_ i 54
        match e.prog.faulted k res with
        | some p => (s2.countFault d.ctx t q).setProg d.ctx d.ring d.index p
        | none => (s2.countFault d.ctx t q).finish d.ctx d.ring d.index ⟨0x30, res⟩)

/-- The passes outstanding on the array of a seat in the order of issue: descriptor and pass. -/
def Ctx.arrayQueue (x : Ctx) (t q : Nat) : List (Desc × Pass) :=
  ((x.descs.filterMap (fun d => match d.prog with
    | .matmul t' q' st ps _ _ _ => if t' = t ∧ q' = q then some (st, ps.map (fun p => (d, p))) else none
    | _ => none)).foldr insertStamp []).map (·.2) |>.flatten

/-- A pass runs, or a work tile is being computed, on the array of the seat. -/
def State.arrayRuns (s : State) (c t q : Nat) : Bool := (s.ctx c).arrayUsed t q

/-! ### Clear-sky (R118 to R120) -/

def unitCskyArm (c : Nat) (d : Desc) : Act (Option Stop) := do
  let x ← getCtx c
  checks ([ (decide ((d.word 1).toNat % 64 ≠ 0), badDesc 1 0 9), (decide (fld (d.word 2) 8 8 = 0), badDesc 2 8 9),
            rsv d 2 16 48 ] ++ rsvWords d [3, 4, 5, 6, 7] ++ [(!x.cfg.debug, permCheck), phaseCheck x d.opcode])
  modify (fun s => s.modRing c d.ring (fun r =>
    { r with csky := some (d.word 1, fld (d.word 2) 0 5, fld (d.word 2) 5 3, fld (d.word 2) 8 8) }))
  okResult 0

def execCskyArm (d : DescRef) (s : State) : Host.Outcome State Fault Refusal := .next (issue 0xF00 d (unitCskyArm d.ctx) s)

/-- A snapshot: its header, then one 68 B record per PE of the row group (R119). A PE whose quarter is clock-gated (R106) takes no leaf: its
record holds 0 (log entry 70). -/
def snapBytes (seq ring tile group cols : Nat) (p : Pass) (snap : Nat × Bool × Nat) : List Byte :=
  let n := snap.2.2
  let unfed := !p.acc.any (fun e => e.1 / 8 == group)
  let head := [ at_ seq 0 ||| at_ ring 16 ||| at_ tile 22 ||| at_ (b2n unfed) 26 ||| at_ (b2n snap.2.1) 27 ||| at_ n 32,
                at_ snap.1 0 ||| at_ p.num 8, 0, 0, 0, 0, 0, 0 ]
  let rec_ (r c : Nat) : List Byte :=
    let ls := ((p.acc.find? (fun e => e.1 == r && e.2.1 == c)).map (fun e => e.2.2)).getD []
    ((List.range 17).map (fun j => leBytes 4 (if ls.isEmpty then 0 else (stackLevel ls n j).toNat))).flatten
  wordsBytes head ++ (if unfed then []
    else ((List.range 8).map (fun i => ((List.range cols).map (fun c => rec_ (8 * group + i) c)).flatten)).flatten)

/-- The next snapshot of the armed MATMUL is written to context memory (R119, R120). -/
def unitCskySnapshot (c : Nat) (d : Desc) : Act (Option Stop) := do
  match d.prog with
  | .matmul t q st (p :: rest) (some (va, group)) res f =>
    match p.snaps with
    | [] => pure none
    | sn :: more => do
      let s ← get
      let m := d.matmul
      let r := (passRanges m.shape 256 (s.narrowedSeat c t q)).getD p.num (0, 128)
      let bs := snapBytes d.seq d.ring t group (r.2 - r.1) p sn
      wrVa (d.who c) va bs
      modify (fun s => s.setProg c d.ring d.index
        (.matmul t q st ({ p with snaps := more } :: rest) (some (va + bs.length, group)) res f))
      pure none
  | _ => pure none

def execCskySnapshot (d : DescRef) (s : State) : Host.Outcome State Fault Refusal :=
  .next (continueArray d (unitCskySnapshot d.ctx) s)

end Sys2Proof.Machine
end

