-- ==== Sys2Proof/Machine/Tiling.lean ====
section
/-! DEFINITION. Tiling.lean: plan records, bound slots, work counters, and TILED_GEMM (R140 to R165). -/
namespace Sys2Proof.Machine

/-! ### Plan records and bound slots (R140 to R145) -/

/-- Why a plan record is refused: word and lowest bit (R143). A record with KIND = 0 empties the slot and is judged for its
reserved fields alone (R11). Of several conditions the first in word order is the one reported (DESIGN CHOICE, log entry 88). -/
def planBad (ws : List DWord) : Option (Nat × Nat) :=
  let w := wrd ws
  let kind := fld (w 0) 0 4
  let bsrc := fld (w 0) 8 2
  let set := decide (kind ≠ 0)
  let f (word lo n : Nat) : Bool × (Nat × Nat) := (decide (fld (w word) lo n ≠ 0), (word, lo))
  let fields : List (Bool × (Nat × Nat)) :=
    [ (decide (4 ≤ kind), (0, 0)), f 0 7 1, (set && decide (bsrc = 3), (0, 8)), f 0 10 6, f 0 22 42,
      (set && decide (fld (w 1) 0 24 = 0), (1, 0)), f 1 24 8,
      (set && decide (fld (w 1) 32 24 = 0), (1, 32)), f 1 56 8,
      (set && decide (fld (w 2) 0 24 = 0), (2, 0)), f 2 24 40,
      (decide (bsrc = 0) && w 3 != 0, (0, 8)),
      (set && decide ((w 3).toNat % 16 ≠ 0), (3, 0)),
      (set && decide (bsrc = 2) && (decide (2 ^ 26 ≤ (w 3).toNat) || decide (spBytes < (w 3).toNat + 16)), (0, 8)),
      f 4 0 64, f 5 0 64, f 6 0 64, f 7 0 64 ]
  (fields.find? (·.1)).map (·.2)

def unitPlanLoad (c : Nat) (d : Desc) : Act (Option Stop) := do
  let plan := fld (d.word 2) 0 12
  checks ([(decide ((d.word 1).toNat % 64 ≠ 0), badDesc 1 0 9), (decide (plan = 0xFFF), badDesc 2 0 9), rsv d 2 12 52]
    ++ rsvWords d [3, 4, 5, 6, 7])
  let bs ← rdVa (d.who c) (d.word 1).toNat 64
  let ws := bytesWords 8 bs
  match planBad ws with
  | some (w, b) => throw (badRecord w b)
  | none => do
    let x ← getCtx c
    checks [phaseCheck x d.opcode]
    modCtxA c (fun x => { x with plans := if fld (wrd ws 0) 0 4 = 0 then tdel x.plans plan else tput x.plans plan ws })
    okResult (at_ plan 0)

def execPlanLoad (d : DescRef) (s : State) : Host.Outcome State Fault Refusal := .next (issue 0x300 d (unitPlanLoad d.ctx) s)

def unitBoundSet (c : Nat) (d : Desc) : Act (Option Stop) := do
  let x ← getCtx c
  checks (rsv d 2 38 26 :: rsvWords d [3, 4, 5, 6, 7] ++ [phaseCheck x d.opcode])
  let v : Word × Word × Word :=
    (BitVec.ofNat 32 (fld (d.word 1) 0 32), BitVec.ofNat 32 (fld (d.word 1) 32 32), BitVec.ofNat 32 (fld (d.word 2) 0 32))
  modCtxA c (fun x => { x with bounds := tput x.bounds (fld (d.word 2) 32 6) v })
  okResult 0

def execBoundSet (d : DescRef) (s : State) : Host.Outcome State Fault Refusal := .next (issue 0x301 d (unitBoundSet d.ctx) s)

/-! ### Work counters (R149 to R152) -/

/-- Work counters that a context holds on a tile (R150). -/
def Ctx.wcAllot (x : Ctx) (t : Nat) : Nat := if x.sched.tileMask.getLsbD t then 16 * x.sched.wc.toNat else 0

/-- A counter is set: its redo list empties (R151, R156). -/
def WorkCounter.set (_ : WorkCounter) (next limit step : Nat) (holder : Option (Nat × Nat × Word)) : WorkCounter :=
  ⟨BitVec.ofNat 32 next, BitVec.ofNat 32 limit, BitVec.ofNat 8 step, [], holder⟩

/-- A fetch (R149): the number, if any, and the counter after it. -/
def WorkCounter.fetch (k : WorkCounter) : Option Nat × WorkCounter :=
  match k.redo with
  | n :: r => (some n, { k with redo := r })
  | [] =>
    if k.next.toNat < k.limit.toNat then
      (some k.next.toNat, { k with next := BitVec.ofNat 32 (min (k.next.toNat + k.step.toNat) 0xFFFFFFFF) })
    else (none, k)

def unitWcSet (c : Nat) (d : Desc) : Act (Option Stop) := do
  let s ← get
  let x := s.ctx c
  let t := fld (d.word 1) 0 4
  let n := fld (d.word 1) 4 12
  let step := fld (d.word 3) 0 8
  checks ([(decide (x.wcAllot t ≤ n), badDesc 1 4 9), rsv d 1 16 48, (decide (step = 0), badDesc 3 0 9), rsv d 3 8 56]
    ++ rsvWords d [4, 5, 6, 7]
    ++ [phaseCheck x d.opcode, (((s.tile t).counter (x.wcAt t n)).holder.isSome, badState x 0x0303)])
  set (s.modTile t (fun k => k.modCounter (x.wcAt t n)
    (fun w => w.set (fld (d.word 2) 0 32) (fld (d.word 2) 32 32) step none)))
  okResult 0

def execWcSet (d : DescRef) (s : State) : Host.Outcome State Fault Refusal := .next (issue 0x302 d (unitWcSet d.ctx) s)

/-! ### Counter-driven descriptors: what TILED_GEMM, ATTN, THIN and ATTN_MERGE share (R150 to R164, R205) -/

/-- TILED_GEMM and ATTN take a slice of the managed area on every tile of the mask (R205). -/
def Desc.takesSlices (d : Desc) : Bool := decide (d.opcode = 0x303) || decide (d.opcode = 0x407)

/-- CORES, TILE_MASK and WC_NUM (R150, R157 items 4 and 5, R168 item 4), in word `w`. -/
def jobChecks (x : Ctx) (d : Desc) (w : Nat) : List (Bool × Stop) :=
  [ (decide (d.jobCores = 0) || decide (16 < d.jobCores), badDesc w 12 9),
    (decide (d.jobMask = 0), badDesc w 0 9),
    ((tilesOf d.jobMask).any (fun t => decide (x.wcAllot t ≤ d.jobWc)), badDesc w 18 9) ]

/-- A counter that the descriptor uses is busy (R152). -/
def State.jobBusy (s : State) (c : Nat) (d : Desc) : Bool :=
  d.jobTiles.any (fun t => ((s.tile t).counter ((s.ctx c).wcAt t d.jobWc)).holder.isSome)

/-- The counters of the descriptor change. -/
def State.modCounters (s : State) (c : Nat) (d : Desc) (f : Nat → WorkCounter → WorkCounter) : State :=
  (List.range d.jobTiles.length).foldl (fun s k =>
    let t := d.jobTiles.getD k 0
    s.modTile t (fun e => e.modCounter ((s.ctx c).wcAt t d.jobWc) (f k))) s

/-- The counters serve the numbers from lo up to hi (R156, R164). -/
def State.setCounters (s : State) (c : Nat) (d : Desc) (lo hi : Nat) : State :=
  let n := d.jobTiles.length
  s.modCounters c d (fun k w => w.set (lo + k * (hi - lo) / n) (lo + (k + 1) * (hi - lo) / n) 1 w.holder)

/-- Work tiles of a section (R164). -/
def sectionSize : Nat := 262144

/-- Node bits that a section holds (R160, R164): `bits` in all for a TILED_GEMM, one per work tile otherwise. -/
def unitsOf (bits : Nat) : Nat := cdiv bits 8192

/-- Bitmap units of a tile that nobody holds. -/
def Tile.freeUnits (t : Tile) : Nat := 64 - (t.bitmap.map (fun e => e.2.2.2)).sum

/-- Bitmap units of a tile that the descriptor holds already. -/
def Tile.unitsHeld (t : Tile) (c : Nat) (d : Desc) : Nat :=
  ((t.bitmap.filter (fun e => e.1 == c && e.2.1 == d.ring && e.2.2.1 == d.index)).map (fun e => e.2.2.2)).sum

/-- The descriptor's claims are free: its bitmap units on the home tile, its slices on every tile of the mask. -/
def State.unitsLack (s : State) (c : Nat) (d : Desc) (bits : Nat) : Bool :=
  decide ((s.tile d.jobHome).freeUnits + (s.tile d.jobHome).unitsHeld c d < unitsOf bits)
def State.sliceLack (s : State) (d : Desc) : List Nat :=
  if d.takesSlices then (tilesOf d.jobMask).filter (fun t => decide (3 ≤ (s.tile t).slices.length)) else []

/-- What the descriptor waits for now: 0 for bitmap units, 1 + t for a slice of tile t. -/
def State.waitsFor (s : State) (c : Nat) (d : Desc) (bits : Nat) : List Nat :=
  (if s.unitsLack c d bits then [0] else []) ++ (s.sliceLack d).map (· + 1)

/-- The waits of a list are counted, each where it is met (R160, R205). -/
def State.countWaits (s : State) (d : Desc) (ws : List Nat) : State :=
  ws.foldl (fun s n => match n with
    | 0 => s.modTile d.jobHome (fun t => { t with bmapFull := true, bmapWaitCnt := satInc t.bmapWaitCnt })
    | t + 1 => s.modTile t (fun k => { k with sliceFull := true, sliceWaitCnt := satInc k.sliceWaitCnt })) s

/-- Units and slices are taken. -/
def State.takeUnits (s : State) (c : Nat) (d : Desc) (bits : Nat) : State :=
  let s1 := s.modTile d.jobHome (fun t => { t with
    bitmap := t.bitmap.filter (fun e => !(e.1 == c && e.2.1 == d.ring && e.2.2.1 == d.index)) ++ [(c, d.ring, d.index, unitsOf bits)] })
  if d.takesSlices then
    (tilesOf d.jobMask).foldl (fun s t => s.modTile t (fun k => { k with slices := k.slices ++ [(c, d.ring, d.index)] })) s1
  else s1

/-- Check 11 has passed: the descriptor holds its counters until it completes, whatever status it completes with (R152). -/
def holdCounters (c : Nat) (d : Desc) : Act Unit :=
  modify (fun s => s.modCounters c d (fun _ w => { w with holder := some (c, d.ring, d.index) }))

/-- The descriptor has its run-time dimensions: it starts, or it waits at issue for units or slices; of each, one wait is counted when it is
first met (R152, R160, R205). -/
def startJob (c : Nat) (d : Desc) (j : Job) (bits : Nat) : Act (Option Stop) := do
  let s ← get
  checks [phaseCheck (s.ctx c) d.opcode]
  let ws := s.waitsFor c d bits
  if ws ≠ [] then do
    let new := ws.filter (fun n => !j.waits.contains n)
    set (((s.countWaits d new).setProg c d.ring d.index (.job { j with waits := j.waits ++ new })).modDesc c d.ring d.index
      (fun e => { e with st := .waiting, issued := false }))
    pure none
  else do
    let s1 := s.takeUnits c d bits
    let s2 := s1.setCounters c d 0 (min j.total sectionSize)
    set (s2.setProg c d.ring d.index (.job { j with started := true }))
    pure none

/-! ### TILED_GEMM (R154) -/

structure Tiled where
  a : Nat
  b : Nat
  cc : Nat
  bias : Nat
  stage : Nat
  aLd : Nat
  bLd : Nat
  cLd : Nat
  bsrc : Nat
  aFmt : Nat
  bFmt : Nat
  cFmt : Nat
  biasFmt : Nat
  tshape : Nat
  round : Nat
  biasEn : Bool
  split : Nat
  group : Nat
  tscale : Word
  rnd : RndBlock
  aScale : Nat
  bScale : Nat
  deriving DecidableEq, Repr

def Desc.tiled (d : Desc) : Tiled :=
  let w9 := d.word 9
  { a := (d.word 1).toNat, b := (d.word 2).toNat, cc := (d.word 3).toNat, bias := (d.word 4).toNat, stage := (d.word 5).toNat
    aLd := fld (d.word 6) 0 32, bLd := fld (d.word 6) 32 32, cLd := fld (d.word 7) 0 32, bsrc := fld (d.word 8) 60 2
    aFmt := fld w9 24 4, bFmt := fld w9 28 4, cFmt := fld w9 32 4, biasFmt := fld w9 36 4, tshape := fld w9 40 3
    round := fld w9 43 3, biasEn := bit w9 46, split := fld w9 47 4, group := fld w9 51 3
    tscale := BitVec.ofNat 32 (fld (d.word 10) 32 32), rnd := rndBlock (d.word 11) (d.word 12)
    aScale := (d.word 13).toNat, bScale := (d.word 14).toNat }

def Desc.tuse (d : Desc) : PlanUse :=
  ⟨fld (d.word 8) 48 12, fld (d.word 8) 60 2 == 1, 3, [fld (d.word 8) 0 24, fld (d.word 8) 24 24, fld (d.word 9) 0 24]⟩

/-- The smallest n with 2^n not below k. -/
def log2Up (k : Nat) : Nat := if k ≤ 1 then 0 else Nat.log2 (k - 1) + 1

/-- The split of a reduction (R162): m, S, S_pad. -/
structure Split where
  m : Nat
  s : Nat
  pad : Nat
  deriving DecidableEq, Repr

def Tiled.splitOf (k : Tiled) (kk : Nat) : Split :=
  let nl := leafCount k.aFmt kk
  let lp := log2Up nl
  let m := min 16 (lp - k.split)
  ⟨m, cdiv nl (2 ^ m), 2 ^ (lp - m)⟩

def Tiled.mb (k : Tiled) (mm : Nat) : Nat := cdiv mm (shapeOf k.tshape).maxM
def Tiled.nb (k : Tiled) (nn : Nat) : Nat := cdiv nn (shapeOf k.tshape).maxN

/-- Row block and column block of output tile o (R156). -/
def Tiled.block (k : Tiled) (mb nb o : Nat) : Nat × Nat :=
  let g := 2 ^ k.group
  let b := o / (g * nb)
  let gb := min g (mb - b * g)
  let w := o - b * g * nb
  (b * g + w % gb, w / gb)

/-- Node bits of the descriptor (R160). -/
def Tiled.bits (k : Tiled) (mm nn kk : Nat) : Nat := k.mb mm * k.nb nn * (2 * (k.splitOf kk).pad - 1)

/-- The items of R157, in order, then the reserved fields. -/
def Tiled.checks (k : Tiled) (x : Ctx) (d : Desc) (dims : Option (List Nat)) : List (Bool × Stop) :=
  let mm := (dims.getD []).getD 0 0
  let nn := (dims.getD []).getD 1 0
  let kk := (dims.getD []).getD 2 0
  let al (use : Bool) (v n w lo : Nat) : Bool × Stop := (use && decide (v % n ≠ 0), badDesc w lo 9)
  [ ((feedClass k.aFmt k.bFmt).isNone, badDesc 9 24 9),
    (decide (4 < k.cFmt), badDesc 9 32 9),
    (k.biasEn && decide (2 < k.biasFmt), badDesc 9 36 9),
    al true k.a 64 1 0, al true k.b 64 2 0, al true k.cc 64 3 0, al k.biasEn k.bias 64 4 0,
    al (decide (k.split ≠ 0)) k.stage 4096 5 0, al true k.aLd 64 6 0, al true k.bLd 64 6 32, al true k.cLd 64 7 0,
    al (codeMx k.aFmt) k.aScale 64 13 0, al (codeMx k.bFmt) k.bScale 64 14 0,
    (decide (4 ≤ k.tshape), badDesc 9 40 9), (decide (5 ≤ k.group), badDesc 9 51 9),
    (roundBad k.round, badDesc 9 43 9), (decide (2 ≤ k.bsrc), badDesc 8 60 9),
    (decide (8 < k.split), badDesc 9 47 9) ]
  ++ jobChecks x d 10 ++
  [ (d.tuse.unnamed, badDesc 8 48 9),
    (tscaleBad k.tscale, badDesc 10 32 9),
    (decide (k.aLd < codeBytes k.aFmt kk), badDesc 6 0 9),
    (decide (k.bLd < codeBytes k.bFmt kk), badDesc 6 32 9),
    (decide (k.cLd < codeBytes k.cFmt nn) || (k.biasEn && decide (k.cLd < codeBytes k.biasFmt nn)), badDesc 7 0 9),
    (decide (sectionSize < k.bits mm nn kk), badDesc 8 0 9),
    rsv d 7 32 32, rsv d 8 62 2, rsv d 9 54 10, rsv d 10 30 2 ]

/-- Node k of an output tile covers only leaves beyond the last segment (R160). -/
def Split.padding (p : Split) (k : Nat) : Bool :=
  let depth := Nat.log2 p.pad - Nat.log2 k
  decide (p.s ≤ k * 2 ^ depth - p.pad)

/-- The bits of the padding nodes of every output tile. -/
def paddingBits (p : Split) (tiles : Nat) : List Nat :=
  let ks := ((List.range (2 * p.pad - 1)).map (· + 1)).filter p.padding
  ((List.range tiles).map (fun o => ks.map (fun k => o * (2 * p.pad - 1) + k - 1))).flatten

def unitTiledGemm (c : Nat) (d : Desc) : Act (Option Stop) := do
  let k := d.tiled
  match d.prog with
  | .job j => startJob c d j (k.bits (j.dims.getD 0 0) (j.dims.getD 1 0) (j.dims.getD 2 0))
  | _ => do
    let s ← get
    let x := s.ctx c
    checks (k.checks x d (x.judged d.tuse))
    checks (phaseCheck x d.opcode :: x.planCheck d.tuse ++ [(s.jobBusy c d, badState x 0x0303)])
    holdCounters c d
    match ← runDims (d.who c) d.tuse with
    | none => noopResult 0
    | some dims =>
      let (mm, nn, kk) := (dims.getD 0 0, dims.getD 1 0, dims.getD 2 0)
      let p := k.splitOf kk
      let tiles := k.mb mm * k.nb nn
      startJob c d { started := false, waits := [], dims := dims, latch := [], total := tiles * p.s, section_ := 0,
                          bits := paddingBits p tiles, joined := [], left := [], run := 0, dups := 0, flags := 0,
                          sums := [], chunks := [] } (k.bits mm nn kk)

def execTiledGemm (d : DescRef) (s : State) : Host.Outcome State Fault Refusal := .next (issue 0x303 d (unitTiledGemm d.ctx) s)

/-! ### The work of a tile (R158, R161) -/

/-- The elements e0 to e1 of row r of an operand, with its scales (R154). -/
def tiledRow (w : Who) (base ld code scale kk r e0 e1 : Nat) : Act (List Val) := do
  let bs ← rdVa w (base + r * ld + codeBytes code e0) (codeBytes code (e1 - e0))
  let sc ← if codeMx code then rdVa w (scale + r * scaleRow kk + e0 / 32) (cdiv (e1 - e0) 32) else pure []
  pure (scaledVals code (e1 - e0) bs sc)

/-- A row of roots goes to C: TSCALE, bias, ROUND (R100, R158). -/
def Tiled.writeC (k : Tiled) (w : Who) (nn r c0 : Nat) (roots : List SV) : Act NumFlags := do
  let bias ← if k.biasEn then do
      let bs ← rdVa w (k.bias + r * k.cLd + c0 * codeBytes k.biasFmt 1) (codeBytes k.biasFmt roots.length)
      pure ((List.range roots.length).map (fun i => some (SV.of (elemF32 k.biasFmt (elemBits bs (codeBits k.biasFmt) i)))))
    else pure []
  let out := (List.range roots.length).map (fun i =>
    svConvert k.cFmt (roundOf k.round k.rnd (r * nn + c0 + i)) (roundSat k.round)
      (scaleBias (roots.getD i svZero) k.tscale (bias.getD i none)))
  wrVa w (k.cc + r * k.cLd + c0 * codeBytes k.cFmt 1) ((out.map (fun x => leBytes (codeBytes k.cFmt 1) x.1)).flatten)
  pure (out.foldl (fun f x => f ||| x.2) 0)

/-- Where row r of node k of output tile o is staged (R161). -/
def Tiled.slotRow (t : Tiled) (p : Split) (o k r : Nat) : Nat :=
  let sh := shapeOf t.tshape
  t.stage + (o * (2 * p.pad - 2) + (k - 2)) * sh.maxM * sh.maxN * 4 + r * sh.maxN * 4

/-- Live rows and columns of an output tile: first row, rows, first column, columns. -/
def Tiled.extent (t : Tiled) (mm nn o : Nat) : Nat × Nat × Nat × Nat :=
  let sh := shapeOf t.tshape
  let (i, j) := t.block (t.mb mm) (t.nb nn) o
  (i * sh.maxM, min sh.maxM (mm - i * sh.maxM), j * sh.maxN, min sh.maxN (nn - j * sh.maxN))

/-- The elements of work tile n along the reduction: from the first up to the last (R156, R162). -/
def Tiled.elems (k : Tiled) (kk n : Nat) : Nat × Nat :=
  let p := k.splitOf kk
  let seg := 2 ^ p.m * (if codeGrouped k.aFmt then 32 else 1)
  (n % p.s * seg, min kk (n % p.s * seg + seg))

/-- The operands of work tile n: rows of A and rows of B. -/
def Tiled.operands (k : Tiled) (w : Who) (dims : List Nat) (n : Nat) : Act (List (List Val) × List (List Val)) := do
  let (mm, nn, kk) := (dims.getD 0 0, dims.getD 1 0, dims.getD 2 0)
  let (r0, nr, c0, nc) := k.extent mm nn (n / (k.splitOf kk).s)
  let (e0, e1) := k.elems kk n
  let as ← (List.range nr).mapM (fun i => tiledRow w k.a k.aLd k.aFmt k.aScale kk (r0 + i) e0 e1)
  let bs ← (List.range nc).mapM (fun i => tiledRow w k.b k.bLd k.bFmt k.bScale kk (c0 + i) e0 e1)
  pure (as, bs)

/-- The passes in which the array takes work tile n (R102, R104, R158). -/
def Tiled.passes (k : Tiled) (w : Who) (dims : List Nat) (n : Nat) (narrowed : Bool) : Act (List Pass) := do
  let (as, bs) ← k.operands w dims n
  let (e0, e1) := k.elems (dims.getD 2 0) n
  let leaves (a b : List Val) : List Word := (leavesSV (codeGrouped k.aFmt) a b).map (·.w)
  let steps := cdiv (e1 - e0) ((feedClass k.aFmt k.bFmt).getD (1, 2, 2)).1
  let ps := passRanges k.tshape bs.length narrowed
  pure ((List.range ps.length).map (fun i =>
    let p := ps.getD i (0, 0)
    { num := i, steps := steps, writes := [], snaps := [],
      acc := ((List.range as.length).map (fun r => ((List.range bs.length).filter (fun c => decide (p.1 ≤ c) && decide (c < p.2))).map
        (fun c => (r, c - p.1, leaves (as.getD r []) (bs.getD c []))))).flatten }))

/-- A core executes a work tile: it writes C, or the segment's root to its staging slot (R158). -/
def Tiled.leaf (k : Tiled) (w : Who) (dims : List Nat) (n : Nat) : Act NumFlags := do
  let (mm, nn, kk) := (dims.getD 0 0, dims.getD 1 0, dims.getD 2 0)
  let p := k.splitOf kk
  let o := n / p.s
  let sg := n % p.s
  let (r0, nr, c0, _) := k.extent mm nn o
  let (as, bs) ← k.operands w dims n
  let rows := as.map (fun a => bs.map (fun b => rootSV (if p.s = 1 then none else some p.m) (leavesSV (codeGrouped k.aFmt) a b)))
  (List.range nr).foldlM (fun (f : NumFlags) i => do
    let row := rows.getD i []
    if p.s = 1 then do
      let g ← k.writeC w nn (r0 + i) c0 row
      pure (f ||| g)
    else do
      wrVa w (k.slotRow p o (p.pad + sg) i) ((row.map (fun v => leBytes 4 v.w.toNat)).flatten)
      pure (row.foldl (fun f v => f ||| v.flags) f)) 0

/-- A staged row of a node; a padding node reads as +0 (R161). -/
def Tiled.nodeRow (k : Tiled) (w : Who) (p : Split) (o node r nc : Nat) : Act (List SV) := do
  if p.padding node then pure (List.replicate nc svZero)
  else do
    let bs ← rdVa w (k.slotRow p o node r) (4 * nc)
    pure ((List.range nc).map (fun i => SV.of (BitVec.ofNat 32 (leNat ((bs.drop (4 * i)).take 4)))))

/-- The node above two marked siblings is formed: C, or its staging slot (R161). -/
def Tiled.combine (k : Tiled) (w : Who) (dims : List Nat) (o j : Nat) : Act NumFlags := do
  let (mm, nn, kk) := (dims.getD 0 0, dims.getD 1 0, dims.getD 2 0)
  let p := k.splitOf kk
  let (r0, nr, c0, nc) := k.extent mm nn o
  (List.range nr).foldlM (fun (f : NumFlags) i => do
    let l ← k.nodeRow w p o (2 * j) i nc
    let r ← k.nodeRow w p o (2 * j + 1) i nc
    let row := List.zipWith svAdd l r
    if j = 1 then do
      let g ← k.writeC w nn (r0 + i) c0 row
      pure (f ||| g)
    else do
      wrVa w (k.slotRow p o j i) ((row.map (fun v => leBytes 4 v.w.toNat)).flatten)
      pure (row.foldl (fun f v => f ||| v.flags) f)) 0

/-- RESULT of TILED_GEMM (R165). -/
def Job.tiledResult (j : Job) : DWord :=
  at_ (min j.run (2 ^ 24 - 1)) 0 ||| at_ (min j.dups 65535) 24 ||| at_ (min j.joined.length 255) 40 ||| nfResult j.flags

end Sys2Proof.Machine
end

