-- ==== Sys2Proof/Machine/Kv.lean ====
section
/-! DEFINITION. Kv.lean: the key/value spaces: KV_SPACE_SET, KV_SEQ_SET, KV_APPEND, KV_SCATTER, KV_FORK, KV_FREE, KV_PREFETCH, and
the ends of page moves and recomputes (R175 to R200). -/
namespace Sys2Proof.Machine

/-- The first refused field of a record, as RESULT names it. -/
def firstField (l : List (Bool × (Nat × Nat))) : Option (Nat × Nat) := (l.find? (·.1)).map (·.2)

/-- The record is refused when a field is bad (R128, R176). -/
def recordOk (bad : Option (Nat × Nat)) : Act Unit :=
  match bad with
  | some (w, b) => throw (badRecord w b)
  | none => pure ()

/-! ### KV_SPACE_SET (R175, R176) -/

def tierOf (ws : List DWord) (t : Nat) : KvTier :=
  let n := wrd ws (5 + 2 * t)
  ⟨(wrd ws (4 + 2 * t)).toNat, fld n 0 32, fld n 32 16, fld n 48 16, 0, [], none⟩

/-- The space that a record describes. -/
def spaceOf (ws : List DWord) : KvSpace :=
  let w := wrd ws
  { KvSpace.reset with
    geom := fld (w 0) 0 2, tokLog2 := fld (w 0) 2 4, fmt := fld (w 0) 6 4, dsel := fld (w 0) 10 2, drop := fld (w 0) 12 2
    ownVa := (w 1).toNat, ownSize := (w 2).toNat, pagesMax := fld (w 3) 0 25, seqMax := fld (w 3) 32 17
    tiers := [tierOf ws 0, tierOf ws 1, tierOf ws 2], pageTail := fld (w 3) 0 25 - 1 }

def mib2 : Nat := 0x200000

/-- The regions of a space: first byte, bytes, the word of the record that places it; the owned region first. -/
def KvSpace.regions (p : KvSpace) : List (Nat × Nat × Nat) :=
  (p.ownVa, p.ownSize, 1) :: ((List.range 3).filter (fun t => decide ((p.tier t).frames ≠ 0))).map
    (fun t => ((p.tier t).va, (p.tier t).frames * p.fb, 4 + 2 * t))

/-- Why a space record is refused, in record order, then the conditions across fields (R176). -/
def spaceBad (ws : List DWord) (cls : Nat) : Option (Nat × Nat) :=
  let p := spaceOf ws
  let set := decide (p.geom ≠ 0)
  let rs := p.regions
  let nz (word lo n : Nat) : Bool × (Nat × Nat) := (decide (fld (wrd ws word) lo n ≠ 0), (word, lo))
  firstField ([
    (decide (p.geom = 3), (0, 0)),
    (set && (if p.geom = 1 then decide (p.tokLog2 < 4) || decide (12 < p.tokLog2) else decide (p.tokLog2 ≠ 0)), (0, 2)),
    (set && (decide (p.fmt < 1) || decide (4 < p.fmt)), (0, 6)),
    (set && decide (p.dsel = 3), (0, 10)),
    (set && decide (p.drop = 3), (0, 12)), nz 0 14 50,
    (set && decide (p.ownVa % mib2 ≠ 0), (1, 0)),
    (set && (decide (p.ownSize % mib2 ≠ 0) || decide (p.ownSize = 0)), (2, 0)),
    (set && (decide (p.pagesMax < 1) || decide (16777216 < p.pagesMax)), (3, 0)), nz 3 25 7,
    (set && (decide (p.seqMax < 1) || decide (65536 < p.seqMax)), (3, 32)), nz 3 49 15 ]
    ++ ((List.range 3).map (fun t =>
      [ (set && decide ((p.tier t).frames ≠ 0) && decide ((p.tier t).va % mib2 ≠ 0), (4 + 2 * t, 0)),
        (set && decide (t = 0) && decide ((p.tier t).frames = 0), (5, 0)),
        (set && decide ((p.tier t).hwm < (p.tier t).lwm), (5 + 2 * t, 48)) ])).flatten
    ++ [10, 11, 12, 13, 14, 15].map (fun i => nz i 0 64)
    ++ ((List.range rs.length).map (fun i => (List.range i).map (fun j =>
        let a := rs.getD i (0, 0, 0)
        let b := rs.getD j (0, 0, 0)
        (set && overlap a.1 a.2.1 b.1 b.2.1, (a.2.2, 0))))).flatten
    ++ [ (set && decide (p.ownSize < p.tables), (2, 0)),
         (set && decide (p.drop ≠ 0) && decide (cls ≠ 0), (0, 12)) ])

/-- A space holds a defined sequence. -/
def anySeq (w : Who) (k : Nat) : Act Bool := do
  let p ← getSpace w k
  if p.geom = 0 then pure false
  else (List.range p.seqMax).foldlM (fun (b : Bool) q => do
    if b then pure true
    else do
      let r ← rdSeq w k q
      pure r.valid) false

/-- The owned region at its start: the header, every page entry FREE and linked in ascending order, no sequence (R176, R182). -/
def initOwned (w : Who) (p : KvSpace) : Act Unit := do
  let hd := [0, 0, 0, 0, (p.tier 0).free, (p.tier 1).free, (p.tier 2).free, p.pagesMax] ++ List.replicate 56 0
  wrVa w p.ownVa ((hd.map (leBytes 4)).flatten)
  (List.range p.pagesMax).forM (fun n =>
    wrVa w (p.entryVa n) (wordsBytes (freeEntry (if n + 1 = p.pagesMax then noPage else n + 1)).words))
  (List.range p.seqMax).forM (fun q => wrVa w (p.seqVa q) (List.replicate 64 0))

def unitKvSpaceSet (c : Nat) (d : Desc) : Act (Option Stop) := do
  let k := fld (d.word 2) 0 3
  let w := d.who c
  checks ([(decide ((d.word 1).toNat % 64 ≠ 0), badDesc 1 0 9), rsv d 2 3 61] ++ rsvWords d [3, 4, 5, 6, 7])
  let bs ← rdVa w (d.word 1).toNat 128
  let ws := bytesWords 16 bs
  let s ← get
  recordOk (spaceBad ws (s.ctx c).cfg.cls.toNat)
  let p := spaceOf ws
  if p.geom = 0 then do
    let held ← anySeq w k
    checks [phaseCheck (s.ctx c) d.opcode, (held, badState (s.ctx c) 0x0402)]
    modSpace w k (fun _ => KvSpace.reset)
    okResult 0
  else do
    checks [(decide ((p.tier 2).frames ≠ 0) && !s.capBit 0, absent 0)]
    let _ ← xlRange w p.ownVa p.ownSize true
    (List.range 3).forM (fun t => do
      let ps ← xlRange w (p.tier t).va ((p.tier t).frames * p.fb) true
      if ps.all (fun q => s.ofTier t q.1) then pure () else throw (badRecord (4 + 2 * t) 0))
    let held ← anySeq w k
    checks [phaseCheck (s.ctx c) d.opcode, (held, badState (s.ctx c) 0x0402)]
    modSpace w k (fun _ => p)
    initOwned w p
    okResult 0

def execKvSpaceSet (d : DescRef) (s : State) : Host.Outcome State Fault Refusal :=
  .next (issue 0x400 d (unitKvSpaceSet d.ctx) s)

/-! ### KV_SEQ_SET (R183) -/

/-- Why a sequence record is refused; `p` is the space it is for. -/
def seqBad (r : SeqRec) (p : KvSpace) (cls : Nat) : Option (Nat × Nat) :=
  let set := r.valid
  let inSpace := set && decide (p.geom ≠ 0)
  let nz (word lo n : Nat) : Bool × (Nat × Nat) := (decide (fld (wrd r.words word) lo n ≠ 0), (word, lo))
  firstField [
    nz 0 1 7,
    (set && (decide (r.hkv < 1) || decide (64 < r.hkv)), (0, 8)),
    (set && decide (r.layers = 0), (0, 16)),
    (set && (decide (r.maxLen = 0) || decide (2 ^ 31 < r.maxLen)), (0, 32)),
    (set && decide (r.mapOff % 64 ≠ 0), (1, 0)),
    (inSpace && (decide (r.mapOff < p.tables) || decide (p.ownSize < r.mapEnd p.tok)), (1, 0)),
    (inSpace && p.narrow && (decide (r.scaleVa % 16 ≠ 0) || decide (r.scaleVa = 0)), (2, 0)),
    ((set && decide (r.recipeVa % 64 ≠ 0)) || (decide (r.recipeVa ≠ 0) && decide (cls ≠ 0)), (3, 0)),
    nz 4 0 64, nz 5 0 64, nz 6 0 64, nz 7 0 64 ]

/-- Every page number of a sequence's map, with where it stands. -/
def mapSlots (p : KvSpace) (r : SeqRec) : List Nat :=
  ((List.range r.layers).map (fun l => ((List.range r.hkv).map (fun h =>
    (List.range (r.mapW p.tok)).map (fun n => mapVa p r l h n))).flatten)).flatten

/-- The sequence holds pages. -/
def holdsPages (w : Who) (p : KvSpace) (r : SeqRec) : Act Bool :=
  if r.valid then (mapSlots p r).foldlM (fun (b : Bool) a => do
    if b then pure true
    else do
      let m ← rd32 w a
      pure (decide (m ≠ noPage))) false
  else pure false

/-- KV_SEQ_SET; SRC_VA that is not 64 B aligned has 0x10, as that of a space record (R175; log entry 89). -/
def unitKvSeqSet (c : Nat) (d : Desc) : Act (Option Stop) := do
  let k := d.kvSpace
  let q := d.kvSeq
  let w := d.who c
  checks ([(decide ((d.word 1).toNat % 64 ≠ 0), badDesc 1 0 9), rsv d 2 19 45] ++ rsvWords d [3, 4, 5, 6, 7])
  let bs ← rdVa w (d.word 1).toNat 64
  let r : SeqRec := ⟨bytesWords 8 bs⟩
  let s ← get
  let p ← getSpace w k
  recordOk (seqBad r p (s.ctx c).cfg.cls.toNat)
  let x := s.ctx c
  checks [phaseCheck x d.opcode, (decide (p.geom = 0), badState x 0x0401), (decide (p.seqMax ≤ q), badState x 0x0403)]
  let old ← rdSeq w k q
  let pages ← holdsPages w p old
  checks [(pages, badState x 0x0404)]
  wrVa w (p.seqVa q) bs
  if r.valid then do
    (List.range r.layers).forM (fun l => wr32 w (lenVa p r l) 0)
    (mapSlots p r).forM (fun a => wr32 w a noPage)
    okResult 0
  else okResult 0

def execKvSeqSet (d : DescRef) (s : State) : Host.Outcome State Fault Refusal :=
  .next (issue 0x401 d (unitKvSeqSet d.ctx) s)

/-! ### Reading pages: what a reader needs first (R191, R194, R195) -/

/-- A byte of n bytes at va lies in memory that cannot be read. -/
def State.vaBad (s : State) (w : Who) (va n : Nat) : Bool :=
  (piecesOf va n).any (fun q =>
    match s.xlate w.ctx (s.unitOf w) q.1 q.2 false with
    | .ok (pa, _) => (linesOf pa q.2).any (fun l => s.lineBad (s.home (l * 64) / 64))
    | .error _ => false)

/-- What stands between a reader and a page. -/
inductive PageNeed where
  | ready
  | wait
  | noFrame
  deriving DecidableEq, Repr

/-- An uncorrectable error lies on the page: in its frame, or met by a read of it from Permafrost (R195). -/
def KvSpace.pageBad (p : KvSpace) (s : State) (w : Who) (n : Nat) (e : PageEntry) : Bool :=
  s.vaBad w (p.frameVa e.tier e.frame) p.fb || p.reads.any (fun r => r.page == n && r.bad.isSome)

/-- A reader needs a page: a dropped page, or one with an uncorrectable error and a recipe, is recomputed; with `up` a page of a
lower tier is promoted. A page on its way down is still read where it lies (R190). Room for the page is not made with pages of `mine`. The count
says what was started: moves, recomputes. -/
def needPage (w : Who) (k : Nat) (mine : List Nat) (n : Nat) (up : Bool) : Act (PageNeed × Nat × Nat) := do
  let p ← getSpace w k
  let e ← rdEntry w k n
  let s ← get
  let again (e : PageEntry) : Act (PageNeed × Nat × Nat) := do
    let ok ← startRecompute w k n mine e
    if ok then pure (.wait, 0, 1)
    else do
      let dry ← noFrameComing w k
      pure (if dry then .noFrame else .wait, 0, 0)
  if e.state = pgDropped then again e
  else if e.state = pgRecomputing then pure (.wait, 0, 0)
  else if p.pageBad s w n e then do
    let can ← recomputable w k e
    if !can then pure (.ready, 0, 0)
    else if e.inTransit then pure (.wait, 0, 0)
    else do
      giveFrame w k e.tier e.frame
      dropReads w k (fun r => r.page == n)
      let e' := { e with state := pgDropped, tier := 3 }
      wrEntry w k n e'
      hdrInc w k hErrRecomputes
      again e'
  else if !up then pure (.ready, 0, 0)
  else if e.settled && decide (e.tier ≠ 0) then do
    let ok ← promote w k n mine e
    if ok then pure (.wait, 1, 0)
    else do
      let dry ← noFrameComing w k
      pure (if dry then .noFrame else .wait, 0, 0)
  else if e.state = pgFetching then pure (.wait, 0, 0)
  else pure (.ready, 0, 0)

/-! ### KV_APPEND and KV_SCATTER (R185 to R188) -/

structure KvAppend where
  scatter : Bool
  kSrc : Nat
  vSrc : Nat
  layer : Nat
  layers : Nat
  pos : Nat
  n : Nat
  srcFmt : Nat
  srcLd : Nat
  round : Nat
  lstride : Nat
  rnd : RndBlock
  deriving DecidableEq, Repr

def Desc.kvAppend (d : Desc) : KvAppend :=
  let (layer, layers, pos, n) := d.kvSpan
  let sc := decide (d.opcode = 0x403)
  { scatter := sc, kSrc := (d.word 1).toNat, vSrc := (d.word 2).toNat, layer := layer, layers := layers, pos := pos, n := n
    srcFmt := fld (d.word 4) 56 4, srcLd := fld (d.word 5) 0 32, round := fld (d.word 5) 32 3
    lstride := if sc then (d.word 6).toNat else 0, rnd := rndBlock (d.word 11) (d.word 12) }

/-- Check 9 of an append; what needs the space or the sequence is judged when they are there (R186, R187). -/
def KvAppend.checks (a : KvAppend) (d : Desc) (p : KvSpace) (r : SeqRec) : List (Bool × Stop) :=
  [ (decide (a.kSrc % 64 ≠ 0), badDesc 1 0 9), (decide (a.vSrc % 64 ≠ 0), badDesc 2 0 9),
    (decide (10 ≤ a.srcFmt) || (if a.scatter then decide (p.geom ≠ 0) && decide (a.srcFmt ≠ p.fmt) else decide (2 < a.srcFmt)), badDesc 4 56 9),
    (decide (a.srcLd % 64 ≠ 0) || (r.valid && decide (a.srcLd < r.hkv * p.d * codeBytes a.srcFmt 1)), badDesc 5 0 9),
    (if a.scatter then decide (a.round ≠ 0) else roundBad a.round, badDesc 5 32 9),
    (a.scatter && decide (a.lstride % 64 ≠ 0), badDesc 6 0 9),
    rsv d 3 19 13, (!a.scatter && decide (fld (d.word 3) 48 16 ≠ 0), badDesc 3 48 9), rsv d 4 60 4, rsv d 5 35 29 ]
  ++ rsvWords d (if a.scatter then [7, 8, 9, 10, 11, 12, 13, 14] else [6, 7, 8, 9, 10, 13, 14])

/-- Check 11 of an append. -/
def appendState (w : Who) (x : Ctx) (op : Nat) (a : KvAppend) (p : KvSpace) (r : SeqRec) : Act Unit := do
  checks [ phaseCheck x op,
    (decide (p.geom = 0), badState x 0x0401),
    (a.scatter != decide (x.cfg.cls = 0), badState x 0x0405),
    (!r.valid, badState x 0x0403),
    (decide (r.layers ≤ a.layer) || decide (r.layers < a.layer + a.layers), badState x 0x0404) ]
  (List.range a.layers).forM (fun i => do
    let len ← rd32 w (lenVa p r (a.layer + i))
    require (decide (len = a.pos)) (badState x 0x0406))

/-- What an append does with a page of its span: the map entry's address, layer, head, the part of the page, and the old page. -/
structure PagePart where
  slot : Nat
  layer : Nat
  head : Nat
  page : Nat
  from_ : Nat
  upto : Nat
  old : Nat
  entry : PageEntry
  deriving DecidableEq, Repr

/-- The append may write in place (R188). -/
def PagePart.inPlace (g : PagePart) : Bool :=
  decide (g.old ≠ noPage) && decide (g.entry.refcnt = 1) && decide (g.entry.tier = 0) && decide (g.entry.fill = g.from_)
/-- Tokens of an old page are to be copied. -/
def PagePart.copies (g : PagePart) : Bool := decide (g.old ≠ noPage) && !g.inPlace

/-- The parts of pages that an append touches, in the order of layers, heads and pages (log entry 10). -/
def appendParts (w : Who) (k : Nat) (a : KvAppend) (r : SeqRec) : Act (List PagePart) := do
  let p ← getSpace w k
  let all := ((List.range a.layers).map (fun i => ((List.range r.hkv).map (fun h =>
    (pagesOf p.tok a.pos a.n).map (fun g => (a.layer + i, h, g)))).flatten)).flatten
  all.mapM (fun t => do
    let slot := mapVa p r t.1 t.2.1 t.2.2.1
    let m ← rd32 w slot
    let e ← if m = noPage then pure (freeEntry noPage) else rdEntry w k m
    pure ⟨slot, t.1, t.2.1, t.2.2.1, t.2.2.2.1, t.2.2.2.2, m, e⟩)

/-- Page entries and frames are taken, one pair after another, until `need` pairs are held or none can be had now; the pages that are to be
copied are not dropped for it. -/
def takePairs (w : Who) (k : Nat) (mine : List Nat) (need : Nat) : Nat → List (Nat × Nat) → Act (List (Nat × Nat))
  | 0, taken => pure taken
  | fuel + 1, taken =>
    if need ≤ taken.length then pure taken
    else do
      match ← takeStackFrame w k mine with
      | none => pure taken
      | some f => do
        match ← takePage w k with
        | none => do
          giveFrame w k 0 f
          pure taken
        | some n => takePairs w k mine need fuel (taken ++ [(n, f)])

/-- A token's key (or value) of the page at a frame address (R177). -/
def KvSpace.tokenVa (p : KvSpace) (frame i : Nat) (value : Bool) : Nat :=
  frame + (if value then p.tok * p.d * p.esz else 0) + i * p.d * p.esz

/-- The new page of a part takes its place in the map; tokens of an old page are copied first (R188). -/
def placePage (w : Who) (k q : Nat) (g : PagePart) (pair : Nat × Nat) : Act Bool := do
  let p ← getSpace w k
  let use ← hdr w k hUse
  if g.copies then do
    [false, true].forM (fun v => do
      let bs ← readPage w g.entry.tier (p.tokenVa (p.frameVa g.entry.tier g.entry.frame) 0 v) (g.from_ * p.d * p.esz)
      wrVa w (p.tokenVa (p.frameVa 0 pair.2) 0 v) bs)
    hdrInc w k hCow
  else pure ()
  wrEntry w k pair.1 { freeEntry noPage with
    state := pgOpen, tier := 0, refcnt := 1, frame := pair.2, fill := if g.copies then g.from_ else 0
    layer := g.layer, head := g.head, creator := q, lastUse := use, pos0 := g.page * p.tok }
  wr32 w g.slot pair.1
  if g.copies then decRef w k g.old else pure false

/-- The elements of one token of one head, in the page's format (R185, R186). -/
def appendToken (w : Who) (a : KvAppend) (p : KvSpace) (r : SeqRec) (quant : Word) (src t h : Nat) :
    Act (List Byte × NumFlags) := do
  let es := codeBytes a.srcFmt 1
  let bs ← rdVa w (src + t * a.srcLd + h * p.d * es) (p.d * es)
  if a.scatter then pure (bs, 0)
  else
    let out := (List.range p.d).map (fun e =>
      let x := SV.of (elemF32 a.srcFmt (elemBits bs (codeBits a.srcFmt) e))
      svConvert p.fmt (roundOf a.round a.rnd ((a.pos + t) * r.hkv * p.d + h * p.d + e)) (roundSat a.round)
        (if p.narrow then svMul x (SV.of quant) else x))
    pure ((out.map (fun o => leBytes p.esz o.1)).flatten, out.foldl (fun f o => f ||| o.2) 0)

/-- The tokens of a part are written into its page. -/
def writePart (w : Who) (k : Nat) (a : KvAppend) (r : SeqRec) (g : PagePart) : Act NumFlags := do
  let p ← getSpace w k
  let m ← rd32 w g.slot
  let e ← rdEntry w k m
  let use ← hdr w k hUse
  wrEntry w k m { e with lastUse := use }
  let off := (g.layer - a.layer) * a.lstride
  [false, true].foldlM (fun (f : NumFlags) v => do
    let quant ← if p.narrow && !a.scatter then rd32 w (r.scaleVa + 16 * (g.layer * r.hkv + g.head) + (if v then 4 else 0))
      else pure 0
    (List.range (g.upto - g.from_)).foldlM (fun (f : NumFlags) i => do
      let t := g.page * p.tok + g.from_ + i - a.pos
      let (bs, fl) ← appendToken w a p r (BitVec.ofNat 32 quant) ((if v then a.vSrc else a.kSrc) + off) t g.head
      wrVa w (p.tokenVa (p.frameVa e.tier e.frame) (g.from_ + i) v) bs
      pure (f ||| fl)) f) 0

/-- The old pages of which an append copies tokens. -/
def sources (parts : List PagePart) : List PagePart := parts.filter (fun g => g.copies && decide (0 < g.from_))

/-- Old pages that hold no tokens now, or cannot be read and can be recomputed, are brought back first (R194, R195), and the tokens of one in
Permafrost are asked for (R188, R243): true when none is missing. -/
def sourcesReady (w : Who) (k : Nat) (parts : List PagePart) : Act Bool := do
  let mine := (sources parts).map (·.old)
  (sources parts).foldlM (fun (ok : Bool) g => do
    let (need, _, _) ← needPage w k mine g.old false
    let p ← getSpace w k
    let e ← rdEntry w k g.old
    let n := g.from_ * p.d * p.esz
    let here (v : Bool) : Act Bool :=
      let va := p.tokenVa (p.frameVa e.tier e.frame) 0 v
      pageHere w k n e.tier (w.pageRead 0 g.old va)
    if need ≠ .ready then pure false
    else do
      let a ← here false
      let b ← here true
      pure (ok && a && b)) true

def zipPairs (w : Who) (k q : Nat) : List PagePart → List (Nat × Nat) → Act (Bool × Nat)
  | [], _ => pure (false, 0)
  | g :: r, ps =>
    if g.inPlace then zipPairs w k q r ps
    else do
      let z ← placePage w k q g (ps.headD (noPage, 0))
      let (zs, n) ← zipPairs w k q r (ps.drop 1)
      pure (z || zs, n + b2n g.copies)

/-- The unit of an append: it takes its pages, waits while frames are on their way, then writes. -/
def appendRun (w : Who) (d : Desc) (a : KvAppend) (taken : List (Nat × Nat)) : Act (Option Stop) := do
  let k := d.kvSpace
  let r ← rdSeq w k d.kvSeq
  let parts ← appendParts w k a r
  let need := (parts.filter (fun g => !g.inPlace)).length
  let got ← takePairs w k ((sources parts).map (·.old)) need (need + 1) taken
  let ready ← sourcesReady w k parts
  let stay : Act (Option Stop) := do
    modify (fun s => s.setProg w.ctx w.ring w.index (.kvAlloc k got))
    pure none
  if got.length < need then do
    let dry ← noFrameComing w k
    let pages ← hdr w k hPagesFree
    if dry || decide (pages = 0) then do
      returnTaken w k got
      hdrInc w k hAllocFails
      let x ← getCtx w.ctx
      throw (badState x 0x0407)
    else stay
  else if !ready then do
    let dry ← noFrameComing w k
    if dry then do
      returnTaken w k got
      hdrInc w k hAllocFails
      let x ← getCtx w.ctx
      throw (badState x 0x0407)
    else stay
  else do
    let now ← appendParts w k a r
    let (zero, copies) ← zipPairs w k d.kvSeq now got
    if zero then advanceEpoch w k else pure ()
    let fl ← parts.foldlM (fun (f : NumFlags) g => do
      let x ← writePart w k a r g
      pure (f ||| x)) 0
    okResult (at_ (need % 2 ^ 24) 0 ||| at_ (copies % 2 ^ 16) 24 ||| nfResult fl)

def unitKvAppend (c : Nat) (d : Desc) : Act (Option Stop) := do
  let w := d.who c
  let k := d.kvSpace
  let a := d.kvAppend
  match d.prog with
  | .kvAlloc _ taken => appendRun w d a taken
  | _ => do
    let x ← getCtx c
    let p ← getSpace w k
    let r ← rdSeq w k d.kvSeq
    checks (a.checks d p r)
    appendState w x d.opcode a p r
    if a.n = 0 ∨ a.layers = 0 then noopResult 0
    else do
      checks [(decide (r.maxLen < a.pos + a.n), shapeOver 0 0 0xFFF (a.pos + a.n))]
      let parts ← appendParts w k a r
      if parts.any PagePart.copies then takeEpoch w k else pure ()
      appendRun w d a []

/-- A descriptor issues, or, where it is waiting inside its unit, its unit goes on. -/
def issueOrGo (op : Nat) (ref : DescRef) (unit : Desc → Act (Option Stop)) (s : State) : State :=
  match s.desc ref with
  | some d => if d.st = .executing then continueDesc op ref unit s else issue op ref unit s
  | none => s

def execKvAppend (d : DescRef) (s : State) : Host.Outcome State Fault Refusal :=
  .next (issueOrGo 0x402 d (unitKvAppend d.ctx) s)
def execKvScatter (d : DescRef) (s : State) : Host.Outcome State Fault Refusal :=
  .next (issueOrGo 0x403 d (unitKvAppend d.ctx) s)

/-! ### KV_FORK (R196) -/

def unitKvFork (c : Nat) (d : Desc) : Act (Option Stop) := do
  let w := d.who c
  let k := d.kvSpace
  let parent := fld (d.word 1) 0 16
  let child := fld (d.word 1) 16 16
  let l := fld (d.word 2) 0 32
  let x ← getCtx c
  checks ([rsv d 1 35 29, rsv d 2 32 32] ++ rsvWords d [3, 4, 5, 6, 7])
  let p ← getSpace w k
  checks [phaseCheck x d.opcode, (decide (p.geom = 0), badState x 0x0401)]
  let a ← rdSeq w k parent
  let b ← rdSeq w k child
  checks [ (!a.valid, badState x 0x0403),
           (!b.valid || decide (a.layers ≠ b.layers) || decide (a.hkv ≠ b.hkv), badState x 0x0408) ]
  (List.range a.layers).forM (fun i => do
    let la ← rd32 w (lenVa p a i)
    let lb ← rd32 w (lenVa p b i)
    require (decide (l ≤ la) && decide (lb = 0)) (badState x 0x0408))
  if l = 0 then noopResult 0
  else do
    checks [(decide (b.maxLen < l), shapeOver 0 0 0xFFF l)]
    let slots := ((List.range a.layers).map (fun i => ((List.range a.hkv).map (fun h =>
      (List.range (cdiv l p.tok)).map (fun n => (mapVa p a i h n, mapVa p b i h n)))).flatten)).flatten
    let pages ← slots.mapM (fun t => rd32 w t.1)
    pages.forM (fun m => do
      let e ← rdEntry w k m
      require (decide (e.refcnt + (pages.filter (· == m)).length ≤ 65535)) (badState x 0x0409))
    let zero ← slots.foldlM (fun (z : Bool) t => do
      let m ← rd32 w t.1
      let e ← rdEntry w k m
      wrEntry w k m { e with refcnt := e.refcnt + 1 }
      let old ← rd32 w t.2
      wr32 w t.2 m
      let y ← if old = noPage then pure false else decRef w k old
      pure (z || y)) false
    if zero then advanceEpoch w k else pure ()
    (List.range a.layers).forM (fun i => wr32 w (lenVa p b i) l)
    okResult (at_ (slots.length % 2 ^ 24) 0)

def execKvFork (d : DescRef) (s : State) : Host.Outcome State Fault Refusal := .next (issue 0x404 d (unitKvFork d.ctx) s)

/-! ### KV_FREE (R197) -/

def unitKvFree (c : Nat) (d : Desc) : Act (Option Stop) := do
  let w := d.who c
  let k := d.kvSpace
  let l0 := fld (d.word 1) 32 16
  let nl := fld (d.word 1) 48 16
  let keep := fld (d.word 2) 0 32
  let undef := bit (d.word 2) 32
  let x ← getCtx c
  checks ([rsv d 1 19 13, rsv d 2 33 31] ++ rsvWords d [3, 4, 5, 6, 7])
  let p ← getSpace w k
  checks [phaseCheck x d.opcode, (decide (p.geom = 0), badState x 0x0401)]
  let r ← rdSeq w k d.kvSeq
  checks [ (!r.valid, badState x 0x0403),
           (decide (r.layers < l0 + nl) || (undef && (decide (keep ≠ 0) || decide (l0 ≠ 0) || decide (nl ≠ r.layers))),
             badState x 0x0404) ]
  if nl = 0 then noopResult 0
  else do
    let first := cdiv keep p.tok
    let slots := ((List.range nl).map (fun i => ((List.range r.hkv).map (fun h =>
      (List.range (r.mapW p.tok - first)).map (fun n => mapVa p r (l0 + i) h (first + n)))).flatten)).flatten
    let (gone, zeros) ← slots.foldlM (fun (t : Nat × Nat) a => do
      let m ← rd32 w a
      if m = noPage then pure t
      else do
        wr32 w a noPage
        let z ← decRef w k m
        pure (t.1 + 1, t.2 + b2n z)) (0, 0)
    (List.range nl).forM (fun i => do
      let len ← rd32 w (lenVa p r (l0 + i))
      wr32 w (lenVa p r (l0 + i)) (min len keep))
    if zeros ≠ 0 then advanceEpoch w k else pure ()
    if undef then wrVa w (p.seqVa d.kvSeq) (List.replicate 64 0) else pure ()
    okResult (at_ (gone % 2 ^ 24) 0 ||| at_ (zeros % 2 ^ 24) 24)

def execKvFree (d : DescRef) (s : State) : Host.Outcome State Fault Refusal := .next (issue 0x405 d (unitKvFree d.ctx) s)

/-! ### KV_PREFETCH (R191) -/

/-- The pages that cover a range of tokens of layers, in map order, without those that no map entry names. -/
def coverPages (w : Who) (k : Nat) (r : SeqRec) (l0 nl pos n : Nat) : Act (List Nat) := do
  let p ← getSpace w k
  let slots := ((List.range nl).map (fun i => ((List.range r.hkv).map (fun h =>
    ((pagesOf p.tok pos n).filter (fun g => decide (g.1 < r.mapW p.tok))).map (fun g => mapVa p r (l0 + i) h g.1))).flatten)).flatten
  let ms ← slots.mapM (fun a => rd32 w a)
  pure (ms.filter (fun m => decide (m ≠ noPage)))

/-- The pages of a prefetch are brought up: done when every one is in the stack tier. -/
def fetchRun (w : Who) (d : Desc) (r : SeqRec) (moved recomputed : Nat) : Act (Option Stop) := do
  let k := d.kvSpace
  let ms ← coverPages w k r (fld (d.word 1) 32 16) (fld (d.word 1) 48 16) (fld (d.word 2) 0 32) (fld (d.word 2) 32 32)
  let (all, mv, rc) ← ms.foldlM (fun (t : Bool × Nat × Nat) m => do
    let (need, a, b) ← needPage w k ms m true
    let e ← rdEntry w k m
    pure (t.1 && decide (need = .ready) && e.settled && decide (e.tier = 0), t.2.1 + a, t.2.2 + b)) (true, moved, recomputed)
  if all then okResult (at_ (mv % 2 ^ 24) 0 ||| at_ (rc % 2 ^ 24) 24)
  else do
    modify (fun s => s.setProg w.ctx w.ring w.index (.kvFetch mv rc))
    let p ← getSpace w k
    let bad ← ms.filterM (fun m => do
      let e ← rdEntry w k m
      let s ← get
      pure (e.settled && decide (e.tier ≠ 0) && p.pageBad s w m e))
    match bad with
    | [] => pure none
    | m :: _ => do
      let e ← rdEntry w k m
      let _ ← rdVa w (p.frameVa e.tier e.frame) p.fb
      pure none

def unitKvPrefetch (c : Nat) (d : Desc) : Act (Option Stop) := do
  let w := d.who c
  let k := d.kvSpace
  let l0 := fld (d.word 1) 32 16
  let nl := fld (d.word 1) 48 16
  let n := fld (d.word 2) 32 32
  match d.prog with
  | .kvFetch mv rc => do
    let r ← rdSeq w k d.kvSeq
    fetchRun w d r mv rc
  | _ => do
    let x ← getCtx c
    checks ([(bit (d.word 3) 0 && bit (d.word 3) 1, badDesc 3 0 9), rsv d 1 19 13, rsv d 3 2 62] ++ rsvWords d [4, 5, 6, 7])
    let p ← getSpace w k
    checks [phaseCheck x d.opcode, (decide (p.geom = 0), badState x 0x0401)]
    let r ← rdSeq w k d.kvSeq
    checks [(!r.valid, badState x 0x0403), (decide (r.layers < l0 + nl), badState x 0x0404)]
    if nl = 0 ∨ n = 0 then noopResult 0
    else do
      let ms ← coverPages w k r l0 nl (fld (d.word 2) 0 32) n
      let es ← ms.eraseDups.mapM (fun m => rdEntry w k m)
      let toMove := (es.filter (fun e => decide (e.tier ≠ 0))).length
      let others ← ((List.range p.pagesMax).filter (fun m => !ms.contains m)).filterM (fun m => do
        let e ← rdEntry w k m
        pure (e.settled && decide (e.tier = 0) && !e.pin))
      if (p.tier 0).free + others.length < toMove then do
        hdrInc w k hAllocFails
        throw (badState x 0x0407)
      else do
        if bit (d.word 3) 0 || bit (d.word 3) 1 then
          ms.forM (fun m => do
            let e ← rdEntry w k m
            wrEntry w k m { e with pin := bit (d.word 3) 0 })
        else pure ()
        fetchRun w d r 0 0

def execKvPrefetch (d : DescRef) (s : State) : Host.Outcome State Fault Refusal :=
  .next (issueOrGo 0x406 d (unitKvPrefetch d.ctx) s)

/-! ### Moves and recomputes end (R190, R194) -/

/-- A move copies its frame, then FRAME and TIER switch in one update; an uncorrectable source abandons the move, is logged, and a spill takes
the next page (R190, R195). -/
def moveEnd (w : Who) (k : Nat) (m : KvMove) : Act Unit := do
  let p ← getSpace w k
  modSpace w k (fun q => { q with moves := q.moves.filter (fun x => x.page != m.page) })
  dropReads w k (fun r => r.ring == 64 && r.page == m.page)
  let e ← rdEntry w k m.page
  let s ← get
  if s.vaBad w (p.frameVa m.tier m.frame) p.fb || p.reads.any (fun r => r.ring == 64 && r.page == m.page && r.bad.isSome) then do
    giveFrame w k m.dstTier m.dstFrame
    settlePage w k m.page e
    reclaim w k
    quietly (rdVa w (p.frameVa m.tier m.frame) p.fb)
    if m.dstTier = 0 then pure () else setRelief w k m.tier (some (((p.tier m.tier).relief).getD [] ++ [m.page]))
    resumeRelief w k
  else do
    let bs ← readPage w m.tier (p.frameVa m.tier m.frame) p.fb
    wrVa w (p.frameVa m.dstTier m.dstFrame) bs
    giveFrame w k m.tier m.frame
    hdrInc w k (if m.dstTier = 0 then hPromotes else hSpills)
    settlePage w k m.page { e with tier := m.dstTier, frame := m.dstFrame }
    reclaim w k
    resumeRelief w k

/-- A move to Permafrost waits while a device beneath its frame takes no user write (R190, R252), and one out of it for its reads (R243). -/
def State.moveWaits (s : State) (c k : Nat) (m : KvMove) : Bool :=
  let p := (s.ctx c).space k
  (decide (m.dstTier = 2) && s.frostShutVa (agentWho c) (p.frameVa 2 m.dstFrame) p.fb)
    || (decide (m.tier = 2) && s.pageAsked c k m.page)

/-- A move ends; one whose copy cannot be made now stays under way. -/
def execPageMoveComplete (c k page : Nat) (s : State) : Host.Outcome State Fault Refusal :=
  let w := agentWho c
  .next (match ((s.ctx c).space k).moves.find? (fun m => m.page == page) with
    | some m =>
      if (s.ctx c).st = .dead ∨ s.moveWaits c k m = true then s
      else
        match moveEnd w k m s.tick with
        | .ok _ s' => s'
        | .error _ s' => s'.agent (modSpace w k (fun q => { q with moves := q.moves ++ [m] }))
    | none => s)

/-- A recipe (R193). -/
structure Recipe where
  words : List DWord
  deriving DecidableEq, Repr

def Recipe.wVa (r : Recipe) (value : Bool) : Nat := (wrd r.words (if value then 2 else 1)).toNat
def Recipe.dm (r : Recipe) : Nat := fld (wrd r.words 4) 0 24

/-- The FP32 values of a row of d elements as the recipe projects them: a TILED_GEMM of F1 tiles without a split (R194). -/
def recipeRow (w : Who) (rc : Recipe) (p : KvSpace) (head pos : Nat) (value : Bool) : Act (List SV) := do
  let xf := fld (wrd rc.words 4) 24 4
  let wf := fld (wrd rc.words 4) 28 4
  let xs ← rdVa w ((wrd rc.words 0).toNat + pos * fld (wrd rc.words 3) 0 32) (codeBytes xf rc.dm)
  let a := elemVals xf xs rc.dm
  (List.range p.d).mapM (fun e => do
    let bs ← rdVa w (rc.wVa value + (head * p.d + e) * fld (wrd rc.words 3) 32 32) (codeBytes wf rc.dm)
    pure (svMul (rootSV none (leavesSV (codeGrouped xf) a (elemVals wf bs rc.dm))) (SV.of f32one)))

/-- A key row goes through the chain of ROT_SLOT, with its FP32 operands (R193, R194). -/
def rotateRow (w : Who) (x : Ctx) (rc : Recipe) (p : KvSpace) (pos : Nat) (v : List SV) : Act (List SV) := do
  match x.chain (fld (wrd rc.words 4) 32 8) with
  | none => pure v
  | some ch => do
    let ld := fld (wrd rc.words 7) 0 32
    let opnd (sel word : Nat) : Act (List SV) := do
      if ch.stages.any (fun st => st.selects sel) then do
        let bs ← rdVa w ((wrd rc.words word).toNat + pos * ld) (4 * p.d)
        pure ((List.range p.d).map (fun i => SV.of (BitVec.ofNat 32 (leNat ((bs.drop (4 * i)).take 4)))))
      else pure []
    let ys ← opnd 2 5
    let zs ← opnd 3 6
    let run := RowRun.run (RowRun.mk v v ys zs ch.consts pos (List.range p.d) (List.replicate 4 svZero) [] 0) ch.stages
    pure run.v

/-- The contents of a recomputed page are written into its frame. -/
def recomputePage (w : Who) (k : Nat) (g : KvRecomp) (e : PageEntry) : Act Unit := do
  let p ← getSpace w k
  let r ← rdSeq w k e.creator
  let bs ← rdVa w (r.recipeVa + 64 * e.layer) 64
  let rc : Recipe := ⟨bytesWords 8 bs⟩
  let x ← getCtx w.ctx
  [false, true].forM (fun v => (List.range e.fill).forM (fun i => do
    let pos := e.pos0 + i
    let row ← recipeRow w rc p e.head pos v
    let row ← if !v && decide (fld (wrd rc.words 4) 32 8 ≠ 0xFF) then rotateRow w x rc p pos row else pure row
    let out := row.map (fun a => (svConvert p.fmt .rne true a).1)
    wrVa w (p.tokenVa (p.frameVa 0 g.frame) i v) ((out.map (leBytes p.esz)).flatten)))

/-- A recompute ends: the page is SEALED in the stack tier; an access that faults ends the descriptor that needed the page. -/
def recompEnd (w : Who) (k : Nat) (g : KvRecomp) : Act Unit := do
  modSpace w k (fun q => { q with recomps := q.recomps.filter (fun x => x.page != g.page) })
  let e ← rdEntry w k g.page
  recomputePage w k g e
  hdrInc w k hRecomputes
  let use ← hdr w k hUse
  settlePage w k g.page { e with tier := 0, frame := g.frame, lastUse := use }
  reclaim w k

def State.recompDone (s : State) (c k : Nat) (g : KvRecomp) : State :=
  match recompEnd { ctx := c, ring := g.ring, index := g.index } k g s with
  | .ok _ s' => s'
  | .error st s' =>
    let s2 := s'.agent (do
      let w := agentWho c
      let e ← rdEntry w k g.page
      giveFrame w k 0 g.frame
      if e.refcnt = 0 then do
        settlePage w k g.page e
        reclaim w k
      else wrEntry w k g.page { e with state := pgDropped, tier := 3 })
    match (s2.ctx c).findDesc g.ring g.index with
    | some d => if d.st = .executing then s2.finish c g.ring g.index st else s2
    | none => s2

/-- The cores of the context on a tile have run counter-driven work: their work areas are unspecified from now on (R203). -/
def State.stampTile (s : State) (c t : Nat) : State :=
  ((s.ctx c).sched.place.filter (fun p => p.1 == t)).foldl (fun s p => s.modSeat c t p.2.1 (fun e => { e with workStamp := s.free })) s

/-- The cores of the context on the tile that needs the page have run its recompute work tiles (R194). -/
def execPageRecomputeComplete (c k page : Nat) (s : State) : Host.Outcome State Fault Refusal :=
  .next (match ((s.ctx c).space k).recomps.find? (fun m => m.page == page) with
    | some g => if (s.ctx c).atUnits then (s.tick.recompDone c k g).stampTile c g.tile else s
    | none => s)

end Sys2Proof.Machine
end

