-- ==== Sys2Proof/Machine/Attn.lean ====
section
/-! DEFINITION. Attn.lean: ATTN, block-recomputed attention (R167 to R174): its issue, and what a core does with a work tile. -/
namespace Sys2Proof.Machine

structure Attn where
  q : Nat
  o : Nat
  stat : Nat
  seq : Nat
  space : Nat
  dir : Nat
  layer : Nat
  qpos : Nat
  nq : Nat
  g : Nat
  qFmt : Nat
  oFmt : Nat
  mask : Nat
  round : Nat
  ahead : Nat
  promote : Bool
  window : Nat
  qLd : Nat
  oLd : Nat
  scale : Word
  qDeq : Word
  dO : Nat
  d1 : Nat
  d2 : Nat
  gLd : Nat
  kvLd : Nat
  gFmt : Nat
  deriving DecidableEq, Repr

def Desc.attn (d : Desc) : Attn :=
  let w4 := d.word 4
  let w6 := d.word 6
  { q := (d.word 1).toNat, o := (d.word 2).toNat, stat := (d.word 3).toNat
    seq := fld w4 0 16, space := fld w4 16 3, dir := fld w4 19 2, layer := fld w4 32 16
    qpos := fld (d.word 5) 0 32, nq := fld (d.word 5) 32 24, g := fld (d.word 5) 56 7
    qFmt := fld w6 0 4, oFmt := fld w6 4 4, mask := fld w6 8 2, round := fld w6 10 3, ahead := fld w6 13 7, promote := bit w6 20
    window := fld w6 32 32, qLd := fld (d.word 7) 0 32, oLd := fld (d.word 7) 32 32
    scale := BitVec.ofNat 32 (fld (d.word 8) 0 32), qDeq := BitVec.ofNat 32 (fld (d.word 8) 32 32)
    dO := (d.word 10).toNat, d1 := (d.word 11).toNat, d2 := (d.word 12).toNat
    gLd := fld (d.word 13) 0 32, kvLd := fld (d.word 13) 32 32, gFmt := fld (d.word 14) 0 4 }

/-- Check 9: a reserved Q_FMT (R70), R168 in order, then the reserved fields. -/
def Attn.checks (a : Attn) (x : Ctx) (d : Desc) : List (Bool × Stop) :=
  let al (use : Bool) (v n w lo : Nat) : Bool × Stop := (use && decide (v % n ≠ 0), badDesc w lo 9)
  let back := decide (a.dir = 1 ∨ a.dir = 2)
  [ (decide (10 ≤ a.qFmt), badDesc 6 0 9), (decide (2 < a.oFmt), badDesc 6 4 9), (decide (2 < a.gFmt), badDesc 14 0 9),
    al true a.q 64 1 0, al (decide (a.dir ≠ 2)) a.o 64 2 0, al true a.stat 64 3 0,
    al true a.qLd 64 7 0, al (decide (a.dir ≠ 2)) a.oLd 64 7 32,
    al back a.dO 64 10 0, al back a.d1 64 11 0, al (decide (a.dir = 2)) a.d2 64 12 0,
    al back a.gLd 64 13 0, al (decide (a.dir = 2)) a.kvLd 64 13 32,
    (decide (a.dir = 3), badDesc 4 19 9), (decide (a.mask = 3), badDesc 6 8 9), (decide (a.round % 4 ≠ 0), badDesc 6 10 9),
    (decide (a.g = 0) || decide (64 < a.g), badDesc 5 56 9) ]
  ++ jobChecks x d 9 ++
  [ (tscaleBad a.scale, badDesc 8 0 9), (tscaleBad a.qDeq, badDesc 8 32 9),
    (decide (a.mask = 2) && decide (a.window = 0), badDesc 6 32 9),
    (back && decide (a.stat = 0), badDesc 3 0 9), (back && decide (a.dO = 0), badDesc 10 0 9),
    rsv d 4 21 11, rsv d 4 48 16, rsv d 5 63 1, rsv d 6 21 11, rsv d 9 30 34, rsv d 14 4 60 ]

/-- A stride is shorter than the row it carries (R169). -/
def Attn.shortStride (a : Attn) (p : KvSpace) (r : SeqRec) : Bool :=
  let row (heads fmt : Nat) : Nat := heads * p.d * codeBytes fmt 1
  decide (a.qLd < row (r.hkv * a.g) a.qFmt)
  || (decide (a.dir ≠ 2) && decide (a.oLd < row (r.hkv * a.g) a.oFmt))
  || (decide (a.dir ≠ 0) && decide (a.gLd < row (r.hkv * a.g) a.gFmt))
  || (decide (a.dir = 2) && decide (a.kvLd < row r.hkv a.gFmt))

/-- Work tiles, T (R170). -/
def Attn.total (a : Attn) (hkv klen : Nat) : Nat :=
  if a.dir = 2 then cdiv klen 128 * hkv else cdiv a.nq 128 * hkv * a.g

/-- Node bits of a section: one per work tile (R170). -/
def sectionBits (total : Nat) : Nat := min total sectionSize

def unitAttn (c : Nat) (d : Desc) : Act (Option Stop) := do
  let a := d.attn
  let w := d.who c
  match d.prog with
  | .job j => startJob c d j (sectionBits j.total)
  | _ => do
    let s ← get
    let x := s.ctx c
    checks (a.checks x d)
    let p ← getSpace w a.space
    checks [phaseCheck x d.opcode, (decide (p.geom = 0), badState x 0x0401)]
    let r ← rdSeq w a.space a.seq
    checks [ (!r.valid, badState x 0x0403),
             (decide (r.layers ≤ a.layer) || (feedClass a.qFmt p.fmt).isNone || decide (256 < r.hkv * a.g)
               || a.shortStride p r, badState x 0x0404),
             (s.jobBusy c d, badState x 0x0303) ]
    holdCounters c d
    let klen ← rd32 w (lenVa p r a.layer)
    if a.nq = 0 ∨ klen = 0 then noopResult 0
    else do
      checks [(decide (r.maxLen < a.qpos + a.nq), shapeOver 0 0 0xFFF (a.qpos + a.nq))]
      takeEpoch w a.space
      hdrInc w a.space hUse
      let t := a.total r.hkv klen
      startJob c d { started := false, waits := [], dims := [a.nq, klen, r.hkv], latch := [], total := t, section_ := 0, bits := [],
                          joined := [], left := [], run := 0, dups := 0, flags := 0, sums := [0, 0, 0], chunks := [] } (sectionBits t)

def execAttn (d : DescRef) (s : State) : Host.Outcome State Fault Refusal := .next (issue 0x407 d (unitAttn d.ctx) s)

/-! ### Admission (R171) -/

/-- Key position pc is admitted for the query at position pr; pc lies below KLEN. -/
def Attn.admits (a : Attn) (pr pc : Nat) : Bool :=
  decide (pr < a.nq + a.qpos) && (decide (a.mask = 0) || decide (pc ≤ pr))
    && (decide (a.mask ≠ 2) || decide (pr < pc + a.window))

/-- Query rows of block qb: tokens from QPOS0. -/
def Attn.rows (a : Attn) (qb : Nat) : List Nat := (List.range (min 128 (a.nq - 128 * qb))).map (128 * qb + ·)
/-- Key positions of block j. -/
def keysOf (klen j : Nat) : List Nat := (List.range (min 128 (klen - 128 * j))).map (128 * j + ·)

/-- Some query of the rows admits some key of the block. -/
def Attn.meets (a : Attn) (klen : Nat) (rows : List Nat) (j : Nat) : Bool :=
  rows.any (fun t => (keysOf klen j).any (fun pc => a.admits (a.qpos + t) pc))

/-- The admitted key blocks of a query block, ascending. -/
def Attn.blocks (a : Attn) (klen qb : Nat) : List Nat := (List.range (cdiv klen 128)).filter (a.meets klen (a.rows qb))

/-! ### Reading keys, values and queries -/

/-- What a work tile works with: the descriptor, the space, the sequence, KLEN. -/
structure AttnCtx where
  a : Attn
  p : KvSpace
  r : SeqRec
  klen : Nat
  deriving DecidableEq, Repr

/-- The format in which P and dS enter the array (R171). -/
def AttnCtx.pFmt (t : AttnCtx) : Nat := if t.p.narrow then 3 else t.p.fmt

/-- K_DEQ or V_DEQ of the layer and head; 1.0 in a 16-bit space. -/
def AttnCtx.deq (t : AttnCtx) (w : Who) (h : Nat) (value : Bool) : Act SV := do
  if t.p.narrow then do
    let v ← rd32 w (t.r.scaleVa + 16 * (t.a.layer * t.r.hkv + h) + (if value then 12 else 8))
    pure (SV.of (BitVec.ofNat 32 v))
  else pure (SV.of f32one)

/-- Page of a key position in the map. -/
def AttnCtx.slot (t : AttnCtx) (h pos : Nat) : Nat := mapVa t.p t.r t.a.layer h (pos / t.p.tok)

/-- The parts of block j in the pages of a head: the page's place in the map, first and end token in the page (R171, R177). -/
def AttnCtx.parts (t : AttnCtx) (j : Nat) : List (Nat × Nat × Nat) := pagesOf t.p.tok (128 * j) (min 128 (t.klen - 128 * j))

/-- The values of keys (or values) of head h at the positions of block j, from the parts that the tile's pool delivers (R26). -/
def AttnCtx.kv (t : AttnCtx) (value : Bool) (cs : List KvChunk) : List (List Val) :=
  let row := t.p.d * t.p.esz
  (cs.map (fun c =>
    let bs := if value then c.v else c.k
    (List.range (bs.length / row)).map (fun i => elemVals t.p.fmt ((bs.drop (i * row)).take row) t.p.d))).flatten

/-- A row of a query-shaped operand: token `tok`, query head `hq`. -/
def AttnCtx.qrow (t : AttnCtx) (w : Who) (base ld fmt tok hq : Nat) : Act (List Val) := do
  let es := codeBytes fmt 1
  let bs ← rdVa w (base + tok * ld + hq * t.p.d * es) (t.p.d * es)
  pure (elemVals fmt bs t.p.d)

/-- Row statistics m, l, D (slots 0 to 2) of a query. -/
def AttnCtx.statVa (t : AttnCtx) (hq tok : Nat) : Nat := t.a.stat + 16 * (hq * t.a.nq + tok)

/-- A root of the array: the tree over the leaves of a reduction (R82, R83). -/
def rootOf (fmtA : Nat) (a b : List Val) : SV := rootSV none (leavesSV (codeGrouped fmtA) a b)

/-- A value as it enters the array in a format, with the flags of its write. -/
def intoArray (fmt : Nat) (v : SV) : Val × NumFlags :=
  let r := svConvert fmt .rne true v
  (decodeVal (codeFmt fmt) r.1, r.2)

/-- CONST0: SCALE × log2(e) as one FP32 product (R171); log2(e) as FP32 is 0x3FB8AA3B. -/
def Attn.const0 (a : Attn) : SV := svMul (SV.of a.scale) (SV.of 0x3FB8AA3B)

/-- EXP2 of a value (R133). -/
def svExp2 (v : SV) : SV := svOp (transc 0x10 v.val) [v]
/-- RCP of a value (R133). -/
def svRcp (v : SV) : SV := svOp (transc 0x14 v.val) [v]

/-- SUBM: a − b, and −∞ where b is −∞. -/
def svSubm (a b : SV) : SV := if b.isInf && b.isNeg then svNinf else svSub a b

/-- The scaled score of a query row and a key: (root × Q_DEQ × K_DEQ) × CONST0 (R171). -/
def AttnCtx.score (t : AttnCtx) (kDeq : SV) (q k : List Val) : SV :=
  svMul (svMul (rootOf t.a.qFmt q k) (svMul (SV.of t.a.qDeq) kDeq)) t.a.const0

/-! ### DIR 0 -/

/-- One key block folds into a row that admits a key of it (R134, R171). What is written counts for NUMFLAGS: P, alpha, m and l of the row
state, and the output (R74, log entry 74). -/
def AttnCtx.foldRow (t : AttnCtx) (kDeq vDeq : SV) (ks vs : List (List Val)) (adm : List Bool) (q : List Val)
    (st : OnlineRow) : OnlineRow × NumFlags :=
  let n := ks.length
  let s := (List.range n).map (fun i => if adm.getD i false then t.score kDeq q (ks.getD i []) else svNinf)
  let m := s.foldl svMax st.m
  let alpha := if st.m.isInf && st.m.isNeg then svZero else svExp2 (svSub st.m m)
  let e := s.map (fun v => svExp2 (svSubm v m))
  let l := svFma alpha st.l (svTree e)
  let p := e.map (intoArray t.pFmt)
  let pv := p.map (·.1)
  let o := (List.range t.p.d).map (fun c =>
    let root := svMul (rootOf t.pFmt pv (vs.map (fun v => v.getD c .nan))) vDeq
    if alpha.isZero then root else svFma alpha (st.o.getD c svZero) root)
  let fl := p.foldl (fun f x => f ||| x.2) (m.flags ||| alpha.flags ||| l.flags)
  (⟨m, l, o⟩, o.foldl (fun f v => f ||| v.flags) fl)

/-- A query row before its first block. -/
def OnlineRow.start (d : Nat) : OnlineRow := ⟨svNinf, svZero, List.replicate d svZero⟩

/-- Block j, as the pool delivers it, folds into the rows of work tile (qb, hq) of DIR 0. -/
def AttnCtx.forwardBlock (t : AttnCtx) (w : Who) (qb hq j : Nat) (cs : List KvChunk) (run : AttnRun) : Act AttnRun := do
  let h := hq / t.a.g
  let kDeq ← t.deq w h false
  let vDeq ← t.deq w h true
  let rows := t.a.rows qb
  let qs ← rows.mapM (fun tok => t.qrow w t.a.q t.a.qLd t.a.qFmt tok hq)
  let ps := keysOf t.klen j
  let ks := t.kv false cs
  let vs := t.kv true cs
  let outs := (List.range rows.length).map (fun i =>
    let st := run.rows.getD i (OnlineRow.start 0)
    let adm := ps.map (t.a.admits (t.a.qpos + rows.getD i 0))
    if adm.any id then t.foldRow kDeq vDeq ks vs adm (qs.getD i []) st else (st, 0))
  pure { run with rows := outs.map (·.1), flags := outs.foldl (fun f x => f ||| x.2) run.flags }

/-- After its last block, work tile (qb, hq) of DIR 0 writes O and the row statistics. -/
def AttnCtx.forwardEnd (t : AttnCtx) (w : Who) (qb hq : Nat) (run : AttnRun) : Act NumFlags := do
  let rows := t.a.rows qb
  let es := codeBytes t.a.oFmt 1
  (List.range rows.length).foldlM (fun (f : NumFlags) i => do
    let st := run.rows.getD i (OnlineRow.start 0)
    let tok := rows.getD i 0
    let rl := svRcp st.l
    let out := st.o.map (fun v =>
      let x := if v.isZero || rl.isZero then svZero else svMul rl v
      svConvert t.a.oFmt .rne (roundSat t.a.round) x)
    wrVa w (t.a.o + tok * t.a.oLd + hq * t.p.d * es) ((out.map (fun x => leBytes es x.1)).flatten)
    if t.a.stat = 0 then pure ()
    else wrVa w (t.statVa hq tok) (leBytes 4 st.m.w.toNat ++ leBytes 4 st.l.w.toNat ++ List.replicate 8 0)
    pure (out.foldl (fun f x => f ||| x.2) f)) run.flags

/-! ### DIR 1 and DIR 2 (R172) -/

/-- What the backward directions read of a query row. -/
structure BackRow where
  tok : Nat
  q : List Val
  dO : List Val
  m : SV
  l : SV
  dd : SV
  deriving DecidableEq, Repr

/-- m, l and slot 2 of a row's statistics. -/
def AttnCtx.stats (t : AttnCtx) (w : Who) (hq tok : Nat) : Act (SV × SV × SV) := do
  let bs ← rdVa w (t.statVa hq tok) 12
  let f (i : Nat) : SV := SV.of (BitVec.ofNat 32 (leNat ((bs.drop (4 * i)).take 4)))
  pure (f 0, f 1, f 2)

/-- dO as it enters the array: in the format of P and dS (log entry 11). -/
def AttnCtx.gradIn (t : AttnCtx) (vs : List Val) : List Val :=
  vs.map (fun v => (intoArray t.pFmt (svOp v [])).1)

/-- P of a row over a block: EXP2(c × S − m) × RCP(l), +0 where not admitted. -/
def AttnCtx.probs (t : AttnCtx) (kDeq : SV) (ks : List (List Val)) (ps : List Nat) (b : BackRow) : List SV :=
  (List.range ks.length).map (fun i =>
    if t.a.admits (t.a.qpos + b.tok) (ps.getD i 0) then
      svMul (svExp2 (svSubm (t.score kDeq b.q (ks.getD i [])) b.m)) (svRcp b.l)
    else svZero)

/-- dS of a row over a block: P × (dP − D), dP = (dO · Vᵀ) × V_DEQ. -/
def AttnCtx.dscores (t : AttnCtx) (vDeq : SV) (vs : List (List Val)) (b : BackRow) (p : List SV) : List SV :=
  (List.range vs.length).map (fun i =>
    svMul (p.getD i svZero) (svSub (svMul (rootOf t.pFmt (t.gradIn b.dO) (vs.getD i [])) vDeq) b.dd))

/-- Values of one element format written as a row, by RNE. -/
def writeRowAs (w : Who) (va fmt : Nat) (sat : Bool) (vs : List SV) : Act NumFlags := do
  let out := vs.map (svConvert fmt .rne sat)
  wrVa w va ((out.map (fun x => leBytes (codeBytes fmt 1) x.1)).flatten)
  pure (out.foldl (fun f x => f ||| x.2) 0)

/-- A gradient row, with SAT of ROUND (R75, R172). -/
def AttnCtx.writeGrad (t : AttnCtx) (w : Who) (va : Nat) (vs : List SV) : Act NumFlags :=
  writeRowAs w va t.a.gFmt (roundSat t.a.round) vs

/-- Before its first block, work tile (qb, hq) of DIR 1 writes D of each row; the flags of these writes. -/
def AttnCtx.backStart (t : AttnCtx) (w : Who) (qb hq : Nat) : Act NumFlags :=
  (t.a.rows qb).foldlM (fun (f : NumFlags) tok => do
    let dO ← t.qrow w t.a.dO t.a.gLd t.a.gFmt tok hq
    let o ← t.qrow w t.a.o t.a.oLd t.a.oFmt tok hq
    let dd := svTree (List.zipWith (fun x y => svOp (vMul x y) []) dO o)
    wrVa w (t.statVa hq tok + 8) (leBytes 4 dd.w.toNat)
    pure (f ||| dd.flags)) 0

/-- Block j of work tile (qb, hq) of DIR 1, as the pool delivers it: dQ takes it in. -/
def AttnCtx.backBlock (t : AttnCtx) (w : Who) (qb hq j : Nat) (cs : List KvChunk) (run : AttnRun) : Act AttnRun := do
  let h := hq / t.a.g
  let kDeq ← t.deq w h false
  let vDeq ← t.deq w h true
  let bs ← (t.a.rows qb).mapM (fun tok => do
    let q ← t.qrow w t.a.q t.a.qLd t.a.qFmt tok hq
    let dO ← t.qrow w t.a.dO t.a.gLd t.a.gFmt tok hq
    let (m, l, dd) ← t.stats w hq tok
    pure (BackRow.mk tok q dO m l dd))
  let coef := svMul (SV.of t.a.scale) kDeq
  let ps := keysOf t.klen j
  let ks := t.kv false cs
  let vs := t.kv true cs
  let outs := (List.range bs.length).map (fun i =>
    let b := bs.getD i ⟨0, [], [], svZero, svZero, svZero⟩
    let st := run.rows.getD i (OnlineRow.start 0)
    if ps.any (t.a.admits (t.a.qpos + b.tok)) then
      let ds := (t.dscores vDeq vs b (t.probs kDeq ks ps b)).map (intoArray t.pFmt)
      let dv := ds.map (·.1)
      ({ st with o := (List.range t.p.d).map (fun e =>
          svAdd (st.o.getD e svZero) (svMul (rootOf t.pFmt dv (ks.map (fun k => k.getD e .nan))) coef)) },
       ds.foldl (fun f x => f ||| x.2) (0 : NumFlags))
    else (st, 0))
  pure { run with rows := outs.map (·.1), flags := outs.foldl (fun f x => f ||| x.2) run.flags }

/-- After its last block, work tile (qb, hq) of DIR 1 writes dQ. -/
def AttnCtx.backEnd (t : AttnCtx) (w : Who) (qb hq : Nat) (run : AttnRun) : Act NumFlags := do
  let rows := t.a.rows qb
  (List.range rows.length).foldlM (fun (f : NumFlags) i => do
    let g ← t.writeGrad w (t.a.d1 + rows.getD i 0 * t.a.gLd + hq * t.p.d * codeBytes t.a.gFmt 1) (run.rows.getD i (OnlineRow.start 0)).o
    pure (f ||| g)) run.flags

/-- Work tile (kb, h) of DIR 2; its key block as the pool delivers it. -/
def AttnCtx.backKV (t : AttnCtx) (w : Who) (kb h : Nat) (cs : List KvChunk) : Act (Nat × NumFlags) := do
  let kDeq ← t.deq w h false
  let vDeq ← t.deq w h true
  let ps := keysOf t.klen kb
  let ks := t.kv false cs
  let vs := t.kv true cs
  let coef := svMul (SV.of t.a.scale) (SV.of t.a.qDeq)
  let steps := ((List.range t.a.g).map (fun g =>
    ((List.range (cdiv t.a.nq 128)).filter (fun qb => t.a.meets t.klen (t.a.rows qb) kb)).map (fun qb => (h * t.a.g + g, qb)))).flatten
  let zero : List (List SV) := ps.map (fun _ => List.replicate t.p.d svZero)
  let (dks, dvs, fl) ← steps.foldlM (fun (acc : List (List SV) × List (List SV) × NumFlags) (st : Nat × Nat) => do
    let rows := t.a.rows st.2
    let bs ← rows.mapM (fun tok => do
      let q ← t.qrow w t.a.q t.a.qLd t.a.qFmt tok st.1
      let dO ← t.qrow w t.a.dO t.a.gLd t.a.gFmt tok st.1
      let (m, l, dd) ← t.stats w st.1 tok
      pure (BackRow.mk tok q dO m l dd))
    let pr := bs.map (fun b => t.probs kDeq ks ps b)
    let dsr := (List.range bs.length).map (fun i =>
      t.dscores vDeq vs (bs.getD i ⟨0, [], [], svZero, svZero, svZero⟩) (pr.getD i []))
    let pin := pr.map (fun r => r.map (intoArray t.pFmt))
    let din := dsr.map (fun r => r.map (intoArray t.pFmt))
    let col (m : List (List (Val × NumFlags))) (i : Nat) : List Val := m.map (fun r => (r.getD i (.nan, 0)).1)
    let gs := bs.map (fun b => t.gradIn b.dO)
    let dv := (List.range ps.length).map (fun i => (List.range t.p.d).map (fun e =>
      svAdd ((acc.2.1.getD i []).getD e svZero) (rootOf t.pFmt (col pin i) (gs.map (fun g => g.getD e .nan)))))
    let dk := (List.range ps.length).map (fun i => (List.range t.p.d).map (fun e =>
      svAdd ((acc.1.getD i []).getD e svZero)
        (svMul (rootOf t.pFmt (col din i) (bs.map (fun b => b.q.getD e .nan))) coef)))
    let f := (pin ++ din).foldl (fun f r => r.foldl (fun f x => f ||| x.2) f) acc.2.2
    pure (dk, dv, f)) (zero, zero, 0)
  let es := codeBytes t.a.gFmt 1
  let fl2 ← (List.range ps.length).foldlM (fun (f : NumFlags) i => do
    let off := ps.getD i 0 * t.a.kvLd + h * t.p.d * es
    let a ← t.writeGrad w (t.a.d1 + off) (dks.getD i [])
    let b ← t.writeGrad w (t.a.d2 + off) (dvs.getD i [])
    pure (f ||| a ||| b)) fl
  pure (steps.length, fl2)

/-! ### A work tile (R170, R171, R191) -/

/-- Head and, for a query block, its number: what work tile n covers. -/
def AttnCtx.tileOf (t : AttnCtx) (n : Nat) : Nat × Nat :=
  let b := if t.a.dir = 2 then cdiv t.klen 128 else cdiv t.a.nq 128
  (n % b, n / b)

/-- Key/value head and key blocks that work tile n reads. -/
def AttnCtx.reads (t : AttnCtx) (n : Nat) : Nat × List Nat :=
  let (b, hd) := t.tileOf n
  if t.a.dir = 2 then (hd, [b]) else (hd / t.a.g, t.a.blocks t.klen b)

def attnCtx (w : Who) (d : Desc) (j : Job) : Act AttnCtx := do
  let a := d.attn
  let p ← getSpace w a.space
  let r ← rdSeq w a.space a.seq
  pure ⟨a, p, r, j.dims.getD 1 0⟩

/-- Tile and seat of the core that makes an access. -/
def Who.seatOf (w : Who) : Nat × Nat := ((w.core.getD 0) / 16, (w.core.getD 0) % 16)

/-- Bytes that the slice of a tile's pool holds for a descriptor (R191, R204). -/
def sliceBytes : Nat := 0x4000000

/-- The oldest parts leave a tile's slice until what it holds fits. -/
def fitSlice (tile : Nat) : Nat → List KvChunk → List KvChunk
  | 0, cs => cs
  | fuel + 1, cs =>
    if ((cs.filter (·.tile == tile)).map (fun c => c.k.length + c.v.length)).sum ≤ sliceBytes then cs
    else fitSlice tile fuel (cs.eraseP (·.tile == tile))

/-- The parts of block j of head h that the tile's pool holds. -/
def Job.block (j : Job) (tile h b : Nat) : List KvChunk := j.chunks.filter (fun c => c.tile == tile && c.head == h && c.block == b)

/-- The page of a part is asked for, and the part is fetched into the tile's pool as soon as the page can be read, whose LAST_USE it sets:
once, whatever number of cores take it (R26, R189, R191). A promotion for which no frame is to be had reads in place (log entry 11); `must` says
that the core needs the block now. The job, and the pages read below the stack tier. -/
def AttnCtx.fetchPart (t : AttnCtx) (w : Who) (tile h : Nat) (must : Bool) (b : Nat) (acc : Job × List Nat) (g : Nat × Nat × Nat) :
    Act (Job × List Nat) := do
  let (j, low) := acc
  if (j.block tile h b).any (·.slot == g.1) then pure acc
  else do
    let m ← rd32 w (mapVa t.p t.r t.a.layer h g.1)
    let (need, _, rc) ← needPage w t.a.space [] m t.a.promote
    let j := { j with sums := [j.sums.getD 0 0, j.sums.getD 1 0, j.sums.getD 2 0 + rc] }
    let e ← rdEntry w t.a.space m
    if need = .noFrame ∧ e.state = pgDropped ∧ must = true then do
      hdrInc w t.a.space hAllocFails
      let x ← getCtx w.ctx
      throw (badState x 0x0407)
    else if need = .wait ∨ (need = .noFrame ∧ e.state = pgDropped) then pure (j, low)
    else do
      let n := (g.2.2 - g.2.1) * t.p.d * t.p.esz
      let va (value : Bool) : Nat := t.p.tokenVa (t.p.frameVa e.tier e.frame) g.2.1 value
      let a ← pageHere w t.a.space n e.tier (w.pageRead tile m (va false))
      let b' ← pageHere w t.a.space n e.tier (w.pageRead tile m (va true))
      if !(a && b') then pure (j, low)
      else do
        let k ← readPage w e.tier (va false) n
        let v ← readPage w e.tier (va true) n
        dropReads w t.a.space (fun r => r.same (w.pageRead tile m (va false)) || r.same (w.pageRead tile m (va true)))
        let use ← hdr w t.a.space hUse
        wrEntry w t.a.space m { e with lastUse := use }
        let cs := j.chunks ++ [⟨tile, h, b, g.1, k, v⟩]
        pure ({ j with chunks := fitSlice tile cs.length cs },
          if e.tier = 1 ∨ e.tier = 2 then (low ++ [m]).eraseDups else low)

/-- Block b of head h is fetched: true when the pool holds it whole; the pages that were read below the stack tier (R173). -/
def AttnCtx.fetch (t : AttnCtx) (w : Who) (tile h : Nat) (must : Bool) (b : Nat) (j : Job) (low : List Nat) : Act (Bool × Job × List Nat) := do
  let (j1, low1) ← (t.parts b).foldlM (t.fetchPart w tile h must b) (j, low)
  pure (decide ((j1.block tile h b).length = (t.parts b).length), j1, low1)

/-- Another core of the tile that executes a work tile of the head has still to take block b (R26, R159). -/
def AttnCtx.wanted (t : AttnCtx) (x : Ctx) (d : Desc) (tile seat h b : Nat) : Bool :=
  x.seats.any (fun e => decide (e.1 / 16 = tile) && decide (e.1 % 16 ≠ seat) && match e.2.work with
    | some (r, i, n, _) =>
      let (h', bs) := t.reads n
      d.is r i && decide (h' = h) && (bs.drop ((e.2.attn.map (·.next)).getD 0)).contains b
    | none => false)

/-- A core takes block b from the pool, which gives the block up once no other core of the tile needs it (R26, R159, R191). -/
def AttnCtx.take (t : AttnCtx) (x : Ctx) (d : Desc) (tile seat h b : Nat) (j : Job) : List KvChunk × Job :=
  ((t.parts b).filterMap (fun g => (j.block tile h b).find? (·.slot == g.1)),
    if t.wanted x d tile seat h b then j
    else { j with chunks := j.chunks.filter (fun c => !(c.tile == tile && c.head == h && c.block == b)) })

/-- A work tile begins. -/
def AttnCtx.begin (t : AttnCtx) (w : Who) (b hd : Nat) : Act AttnRun := do
  let fl ← if t.a.dir = 1 then t.backStart w b hd else pure 0
  pure ⟨0, (t.a.rows b).map (fun _ => OnlineRow.start t.p.d), fl, []⟩

/-- The core takes the key blocks one after another as the tile's pool has them, and the tile fetches up to PF_DIST blocks ahead of them
(R171, R191). True when it has taken the last: the blocks of a DIR 2 work tile, its one key block, are answered. -/
def AttnCtx.advance (t : AttnCtx) (w : Who) (d : Desc) (b hd h : Nat) : List Nat → AttnRun → Job → Act (Bool × AttnRun × Job × List KvChunk)
  | [], run, j => pure (true, run, j, [])
  | k :: rest, run, j => do
    let (tile, seat) := w.seatOf
    let (ok, j1, low) ← t.fetch w tile h true k j run.low
    let x ← getCtx w.ctx
    let (cs, j2) := if ok then t.take x d tile seat h k j1 else ([], j1)
    let (j3, low3) ← (rest.take t.a.ahead).foldlM (fun (acc : Job × List Nat) k' => do
      let (_, j', low') ← t.fetch w tile h false k' acc.1 acc.2
      pure (j', low')) (j2, low)
    let run1 := { run with low := low3 }
    if !ok then pure (false, run1, j3, [])
    else if t.a.dir = 2 then pure (true, run1, j3, cs)
    else do
      let run2 ← if t.a.dir = 0 then t.forwardBlock w b hd k cs run1 else t.backBlock w b hd k cs run1
      t.advance w d b hd h rest { run2 with next := run2.next + 1 } j3

/-- The core goes on with work tile n, `run` being what it holds of it: block steps, pages read below the stack tier and flags when it is
done, else what it holds now; and the job, with the blocks in the pools and the recomputes that this began. -/
def attnLeaf (w : Who) (d : Desc) (j : Job) (n : Nat) (run : Option AttnRun) : Act (((Nat × Nat × NumFlags) ⊕ AttnRun) × Job) := do
  let t ← attnCtx w d j
  let (b, hd) := t.tileOf n
  let (h, bs) := t.reads n
  let run0 ← match run with
    | some r => pure r
    | none => t.begin w b hd
  let (ok, run1, j1, cs) ← t.advance w d b hd h (bs.drop run0.next) run0 j
  if !ok then pure (.inr run1, j1)
  else if t.a.dir = 2 then do
    let (steps, fl) ← t.backKV w b hd cs
    pure (.inl (steps, run1.low.length, fl), j1)
  else do
    let fl ← if t.a.dir = 0 then t.forwardEnd w b hd run1 else t.backEnd w b hd run1
    pure (.inl (bs.length, run1.low.length, fl), j1)

/-- RESULT of ATTN (R173). -/
def Job.attnResult (j : Job) : DWord :=
  at_ (min (j.sums.getD 0 0) (2 ^ 24 - 1)) 0 ||| at_ (min j.joined.length 255) 24 ||| at_ (min (j.sums.getD 1 0) 4095) 32
    ||| at_ (min (j.sums.getD 2 0) 4095) 44 ||| nfResult j.flags

end Sys2Proof.Machine
end

