-- ==== Sys2Proof/Machine/Otp.lean ====
section
/-! DEFINITION. Otp.lean: the OTP array as blocks and generations, and the power limits that it fixes (R436, R442, R414). -/
namespace Sys2Proof.Machine

/-- A block of the OTP array with generations (R442). Within a generation: VALID in byte 0, INVALID in byte 1, CRC in bytes 4 to 7 and the
payload from byte 8 on, as R456 lays out the redundancy block; for the other two blocks DESIGN CHOICE, log entry 21. -/
structure OtpBlock where
  base : Nat
  gens : Nat
  size : Nat
  payload : Nat
  deriving DecidableEq, Repr

def otpOwner : OtpBlock := ⟨0x200, 4, 64, 32⟩
def otpPower : OtpBlock := ⟨0x300, 3, 32, 8⟩
def otpRedundancy : OtpBlock := ⟨0x1000, 2, 8192, 8184⟩

/-- A flag of 8 fuses reads set when at least 5 of them are. -/
def fuseFlag (b : Byte) : Bool := decide (5 ≤ (List.range 8).countP (fun i => b.getLsbD i))

/-- First byte of a generation. -/
def OtpBlock.gen (k : OtpBlock) (g : Nat) : Nat := k.base + g * k.size
def OtpBlock.valid (k : OtpBlock) (m : Memory) (g : Nat) : Bool := fuseFlag (mget m (k.gen g))
def OtpBlock.invalid (k : OtpBlock) (m : Memory) (g : Nat) : Bool := fuseFlag (mget m (k.gen g + 1))
def OtpBlock.content (k : OtpBlock) (m : Memory) (g : Nat) : List Byte := mread m (k.gen g + 8) k.payload
def OtpBlock.crcOk (k : OtpBlock) (m : Memory) (g : Nat) : Bool :=
  decide (leNat (mread m (k.gen g + 4) 4) = (crc32 (k.content m g)).toNat)
/-- No fuse of the generation is set. -/
def OtpBlock.blank (k : OtpBlock) (m : Memory) (g : Nat) : Bool := (mread m (k.gen g) k.size).all (· == 0)

/-- The active generation: the highest whose VALID is set, whose INVALID is clear and whose CRC is good (R442). -/
def OtpBlock.active (k : OtpBlock) (m : Memory) : Option Nat :=
  (List.range k.gens).reverse.find? (fun g => k.valid m g && !k.invalid m g && k.crcOk m g)
/-- A generation has VALID set and a bad CRC. -/
def OtpBlock.crcBad (k : OtpBlock) (m : Memory) : Nat := (List.range k.gens).countP (fun g => k.valid m g && !k.crcOk m g)
/-- The payload in force; zeros where no generation is active. -/
def OtpBlock.inForce (k : OtpBlock) (m : Memory) : List Byte :=
  match k.active m with
  | some g => k.content m g
  | none => List.replicate k.payload 0

/-- Every byte of the block, which a token's BLOCK_STATE binds (R443). -/
def OtpBlock.bytes (k : OtpBlock) (m : Memory) : List Byte := mread m k.base (k.gens * k.size)

/-- The SVN counter: the position of its highest set fuse plus 1, or 0 (R436). -/
def svnOf (m : Memory) : Nat :=
  match (List.range 128).reverse.find? (fun i => (mget m (0x100 + i / 8)).getLsbD (i % 8)) with
  | some i => i + 1
  | none => 0

/-- The debug-lock DISABLE flag (R442). -/
def debugLocked (m : Memory) : Bool := fuseFlag (mget m 0x110)

/-- A lane that the port record of the active redundancy generation excludes, in either direction (R456, R457). -/
def State.laneExcluded (s : State) (p n : Nat) : Bool :=
  match otpRedundancy.active s.blu.otp with
  | some g => let a := otpRedundancy.gen g + 0x1B40 + 0x10 * p
    (mget s.blu.otp a).getLsbD n || (mget s.blu.otp (a + 1)).getLsbD n
  | none => false

/-- PWR_LIMITS without OTP_GEN: the payload of the power-limit block, laid out as that register (R414, R442). -/
def State.limits (s : State) : DWord := BitVec.ofNat 64 (leNat (otpPower.inForce s.blu.otp))
def State.ceilW (s : State) : Nat := fld s.limits 0 13
def State.designW (s : State) : Nat := fld s.limits 13 13
def State.capMinW (s : State) : Nat := fld s.limits 26 13
/-- I_CLAMP in amperes. -/
def State.iClamp (s : State) : Nat := fld s.limits 39 8

end Sys2Proof.Machine
end

