-- ==== Sys2Proof/Machine/Owner.lean ====
section
/-! DEFINITION. Owner.lean: what every owner command shares: the owner, the nonce, the signature and the answer (R439, R440). How a command
carries the key and lays out ARGS is not given: log entry 22. -/
namespace Sys2Proof.Machine

/-- No owner-key generation is active. -/
def State.unowned (s : State) : Bool := (otpOwner.active s.blu.otp).isNone

/-- A public key is the owner's: its SM3 is the active owner-key generation. -/
def State.ownerKey (s : State) (pk : List Byte) : Bool :=
  !s.unowned && Config.sm3 pk == otpOwner.inForce s.blu.otp

/-- Bluone runs in recovery (R436). -/
def State.inRecovery (s : State) : Bool := s.boot.phase == 7

/-- An answer over the management interface: MGT_ALERT_N goes low (R440, R483). -/
def State.answer (s : State) (cmd code : Nat) (data : List Byte) : State :=
  ({ s with pins := { s.pins with alert := true } }).emit (.mgt cmd code data)

/-- Bluone answers commands: stage 2 runs, or the module is in recovery. -/
def State.hears (s : State) : Bool := decide (2 ≤ s.blu.stage) || s.inRecovery

/-- An owner command is served, or waits until stage 2 runs (R446, R466); a Bluone that has halted or has no input hears none. -/
def State.ask (s : State) (i : Instr) (act : State → State) : State :=
  if s.hears then act s
  else if s.pins.inputGood && !s.blu.halted then { s with blu := { s.blu with waiting := s.blu.waiting ++ [i] } }
  else s

/-- The answer to a command, which an unmating of the connector leaves unanswered (R484). -/
def State.reply (s : State) (p : OwnerProof) (cmd code : Nat) : State := if p.mated then s.answer cmd code [] else s

/-- A command that needs the owner (R440): 2 on an unowned module, 3 in recovery, 1 on a bad nonce or signature, else what the command's
own effect answers. A nonce serves one command. -/
def State.ownerCmd (s : State) (cmd : Nat) (args : List Byte) (p : OwnerProof) (act : State → State × Nat) : State :=
  if s.unowned then s.reply p cmd 2
  else if s.inRecovery then s.reply p cmd 3
  else if s.blu.nonce ≠ some p.nonce then s.reply p cmd 1
  else
    let s1 := { s with blu := { s.blu with nonce := none } }
    if s.ownerKey p.pk && Config.sm2Verify "XR96-CMD" p.pk (BitVec.ofNat 8 cmd :: p.nonce ++ args) p.sig then
      let r := act s1
      r.1.reply p cmd r.2
    else s1.reply p cmd 1

end Sys2Proof.Machine
end

