-- ==== Sys2Proof/Machine/Runs.lean ====
section
/-! DEFINITION. Runs.lean: how a step of a reduction and a Jetstream pass end (R326 to R328, R335). -/
namespace Sys2Proof.Machine

/-! ### The shape of a reduction (R317, R318) -/

/-- The owner rank of segment s. -/
def RedSlot.owner (q : RedSlot) (s : Nat) : Nat := s * q.ranks / q.nseg
/-- First segment of rank r. -/
def RedSlot.firstSeg (q : RedSlot) (r : Nat) : Nat := cdiv (r * q.nseg) q.ranks
/-- log2 of P. -/
def RedSlot.top (q : RedSlot) : Nat := ((List.range 15).find? (fun l => decide (q.ranks ≤ 2 ^ l))).getD 14
/-- Blocks of a segment. -/
def RedSlot.blocks (q : RedSlot) : Nat := 2 ^ q.segLog2
/-- A node's span holds a rank. -/
def RedSlot.has (q : RedSlot) (level idx : Nat) : Bool := decide (idx * 2 ^ level < q.ranks)
/-- The ranks of a node's span. -/
def RedSlot.span (q : RedSlot) (level idx : Nat) : List Nat :=
  ((List.range (2 ^ level)).map (· + idx * 2 ^ level)).filter (fun r => decide (r < q.ranks))
/-- The rank of the module that evaluates a node of a segment. -/
def RedSlot.desig (q : RedSlot) (seg level idx : Nat) : Nat :=
  let d := idx * 2 ^ level + q.owner seg % 2 ^ level
  if d < q.ranks then d else idx * 2 ^ level
/-- Endpoint and context of a rank. -/
def RedSlot.place (q : RedSlot) (rank : Nat) : Nat × Nat :=
  let v : Word := BitVec.ofNat 32 (q.table.getD rank 0)
  (fld v 0 14, fld v 16 10)

/-! ### The end of a RED_RUN (R327, R328) -/

def RedRun.who (c : Nat) (r : RedRun) : Who := { ctx := c, ring := r.ring, index := r.index }
/-- The descriptor of the step still executes. -/
def State.redOpen (s : State) (c : Nat) (r : RedRun) : Bool :=
  match (s.ctx c).findDesc r.ring r.index with
  | some d => decide (d.st = .executing)
  | none => false

/-- Every rank has contributed to the segment. -/
def RedSeg.full (g : RedSeg) (ranks : Nat) : Bool := decide (ranks ≤ g.leaves + g.folded)

/-- The root has been written, or its duties abandoned (R327, R328). -/
def RedSeg.ended (g : RedSeg) : Bool := g.written || g.gone

/-- A rank is left out of a segment (R328); which ranks a short partial of another module lacks is open (log entry 14). -/
def RedSeg.lacks (g : RedSeg) (ranks free r : Nat) : Bool :=
  !g.full ranks && !g.foldedRanks.contains r
    && (g.missing.contains r || g.short.any (fun n => r / 2 ^ n.1 == n.2 && Config.leftOut free g.seg n.1 r))

/-- The ranks left out of some segment of this module's shard. -/
def RedRun.leftRanks (r : RedRun) (ranks free : Nat) : List Nat :=
  (List.range ranks).filter (fun k => r.segs.any (fun g => g.lacks ranks free k))

def RedRun.foldedRanks (r : RedRun) : List Nat := ((r.segs.map (·.foldedRanks)).flatten).eraseDups

/-- The duties of the step have ended: nodes, delivery and fold. -/
def RedRun.dutiesDone (r : RedRun) (ranks : Nat) : Bool :=
  r.nodes.all (·.done) && r.segs.all RedSeg.ended
    && (decide (r.policy ≠ 1) || r.foldOver || r.segs.all (fun g => g.full ranks || g.gone))

/-- Status and RESULT of a step on slot k (R328). -/
def RedRun.outcome (r : RedRun) (k left : Nat) : Stop :=
  match r.bad, r.dold, r.lost with
  | some b, _, _ => ⟨b.1, b.2⟩
  | none, true, _ => ⟨0x41, at_ (0xFFFFFFF0 + k) 0 ||| at_ r.step.toNat 32⟩
  | none, false, some l => ⟨0x60, l⟩
  | none, false, none =>
    let folded := r.foldedRanks.length
    ⟨if 0 < left then 0x52 else if 0 < folded then 0x51 else 0x00,
      at_ (min r.blocks.length (2 ^ 24 - 1)) 0 ||| at_ (min folded (2 ^ 14 - 1)) 24 ||| at_ (min left (2 ^ 14 - 1)) 38 ||| nfResult r.flags⟩

/-- The REPORT bitmap of 2 KiB. -/
def reportBytes (left : List Nat) : List Byte :=
  (List.range 2048).map (fun i => BitVec.ofNat 8 (((List.range 8).map (fun b => if left.contains (8 * i + b) then 2 ^ b else 0)).sum))

/-- The step ends when its duties have ended and its sends are acknowledged (R328). -/
def State.redSettle (s : State) (c k : Nat) : State :=
  let q := (s.ctx c).redSlot k
  match q.run with
  | none => s
  | some r =>
    if s.redOpen c r && r.dutiesDone q.ranks && !s.ownerBusy (c, r.ring, r.index) then
      let left := r.leftRanks q.ranks s.free
      let s1 := s.tick
      if r.reportVa = 0 then s1.finish c r.ring r.index (r.outcome k left.length)
      else
        match wrVa (r.who c) r.reportVa (reportBytes left) s1 with
        | .ok _ s2 => s2.finish c r.ring r.index (r.outcome k left.length)
        | .error st s2 =>
          s2.finish c r.ring r.index ({ r with bad := r.bad.orElse (fun _ => some (st.status, st.result)) }.outcome k left.length)
    else s

/-! ### The end of a JET_PASS (R335) -/

/-- The pass ends when its chunks are sent and acknowledged and its receive is whole. -/
def State.jetSettle (s : State) (c k : Nat) : State :=
  match ((s.ctx c).jetSlot k).run with
  | none => s
  | some r =>
    match (s.ctx c).findDesc r.ring r.index with
    | some d =>
      if d.st = .executing ∧ r.send = false ∧ r.recv = false ∧ s.ownerBusy (c, r.ring, r.index) = false then
        s.finish c r.ring r.index ⟨0, 0⟩
      else s
    | none => s

/-! ### Acknowledgement on the first link (R303, R328, R335) -/

/-- Flits of a descriptor have been acknowledged. -/
def State.ownerAcked (s : State) (o : Nat × Nat × Word) : State :=
  match s.ownerDesc o with
  | none => s
  | some d =>
    if d.st ≠ .executing then s
    else
      match d.prog with
      | .vxSignal _ _ => if s.ownerBusy o then s else s.finish o.1 o.2.1 o.2.2 ⟨0, 0⟩
      | .red k => s.redSettle o.1 k
      | .jet k => s.jetSettle o.1 k
      | _ => s

end Sys2Proof.Machine
end

