-- ==== Sys2Proof/Machine/Lose.lean ====
section
/-! DEFINITION. Lose.lean: violations of a partner, quarantine, retrains, and what a lost port loses (R286, R301, R306 to R308, R331). -/
namespace Sys2Proof.Machine

/-! ### Violations, quarantine, retrains (R286, R306 to R308) -/

/-- An entry of the port's log (R308). -/
def State.portLog (s : State) (p code vc lseq epid detail : Nat) : State :=
  s.modPort p (fun k => { k with log := k.log.add 64 (fun o =>
    [at_ code 0 ||| at_ p 8 ||| at_ vc 12 ||| at_ lseq 14 ||| at_ (epid % 2 ^ 14) 38 ||| at_ detail 52, at_ o.toNat 0]) })

/-- The link flit of a LINK_ERR (R289). -/
def linkErrFlit (code lseq : Nat) : List DWord := [at_ 3 0 ||| at_ code 8 ||| at_ lseq 32]

/-- A port that is not running holds no active lane and no trained spare (R309). -/
def Port.noLanes (k : Port) : Port := { k with lanes := 0, spareHeld := false }

/-- A violation is logged, counted and told to the partner (R306); a quarantined port sends no LINK_ERR but that of 0x0D (R307). -/
def State.violation (s : State) (p code vc lseq epid : Nat) : State :=
  (s.portLog p code vc lseq epid 0).modPort p (fun k =>
    { k with viol := true, violCnt := satInc k.violCnt,
             links := if code = 0x0C ∨ (k.state = 4 ∧ code ≠ 0x0D) then k.links else k.links ++ [linkErrFlit code lseq] })

/-- A plain transfer with packets unacknowledged on a lost port completes with 0x60 (R301, R307). -/
def State.ownerLost (s : State) (p : Nat) (o : Nat × Nat × Word) : State :=
  match s.ownerDesc o with
  | some d =>
    if d.st = .executing then
      match d.prog with
      | .vxPut _ _ dst _ => s.finish o.1 o.2.1 o.2.2 ⟨0x60, linkDown p dst 2⟩
      | .vxSignal _ dst => s.finish o.1 o.2.1 o.2.2 ⟨0x60, linkDown p dst 2⟩
      | _ => s
    else s
  | none => s

/-! ### Packets that a lost port had not delivered (R331) -/

/-- Flits cut at each header flit. -/
def splitPackets : List TxFlit → List (List TxFlit)
  | [] => []
  | f :: r =>
    match splitPackets r with
    | [] => [[f]]
    | p :: ps => if (p.headD f).head then [f] :: p :: ps else (f :: p) :: ps

/-- A packet of queued flits. -/
def flitsPkt (fs : List TxFlit) : Pkt := ⟨((fs.map (·.words)).headD []), (fs.drop 1).map (·.words)⟩

/-- The packets of VC3 that a port has not had acknowledged whole, with their owners. -/
def Port.lostPackets (k : Port) : List (Pkt × (Nat × Nat × Word)) :=
  let fs := tget [] k.acked 3 ++ (k.sent.map (·.flit)).filter (fun f => f.vc == 3) ++ tget [] k.egress 3
  (splitPackets fs).filterMap (fun p => ((p.head?).bind (·.owner)).map (fun o => (flitsPkt p, o)))

/-- A packet of a reduction or of a pass goes again, over the alternate route; with none the reduction loses the partial, and the pass ends with
0x60 (R328, R331, R335, R486). -/
def State.sendAgain (s : State) (port : Nat) (x : Pkt × (Nat × Nat × Word)) : State :=
  let o := x.2
  match s.ownerDesc o with
  | none => s
  | some d =>
    if d.st ≠ .executing then s
    else
      match d.prog with
      | .red k =>
        match s.send x.1 (some o) with
        | some s1 => s1
        | none => s.modRun o.1 k (fun r => { r with lost := r.lost.orElse (fun _ => some (linkDown port x.1.dst 2)) })
      | .jet _ =>
        match s.send x.1 (some o) with
        | some s1 => s1
        | none => s.finish o.1 o.2.1 o.2.2 ⟨0x60, linkDown port x.1.dst 2⟩
      | _ => s

/-- What a port that starts afresh, is quarantined or is disabled loses: replay buffer, queues, packets in assembly, signals; its plain
transfers and passes end with 0x60, and reductions send again (R301, R307, R311, R331, R491). The port carries no traffic now. -/
def State.losePort (s : State) (p : Nat) : State :=
  let k := s.port p
  let s1 := k.owners.foldl (fun s o => s.ownerLost p o) s
  let s2 := s1.modPort p (fun k => { k with
    sent := [], acked := [], egress := [], partial_ := [], dropping := [], heldSig := [], resume := false, nakOut := false
    nakPend := false, ret := [0, 0, 0, 0], rxHeld := [0, 0, 0, 0]
    rxQ := (k.rxQ.filter (fun e => e.1 != 0)).map (fun e => (e.1, e.2.map (fun r => { r with old := true })))
    uncommitted := k.uncommitted.map (fun u => { u with old := true }) })
  let s3 := k.lostPackets.foldl (fun s x => s.sendAgain p x) s2
  k.owners.foldl (fun s o => s.ownerAcked o) s3

/-- The flits of a queue that stay at a port whose cable is pulled: those of a packet that has begun to leave, and packets that no descriptor waits
for. -/
def keptQueue (q : List TxFlit) : List TxFlit :=
  (q.takeWhile (fun f => !f.head)).map (fun f => { f with owner := none })
    ++ ((splitPackets (q.dropWhile (fun f => !f.head))).filter (fun p => ((p.head?).bind (·.owner)).isNone)).flatten

/-- A cable is pulled (R478, R486): the port is down; its plain transfers end with 0x60 (R301), reductions and passes go over another route or lose
it (R331, R335), and the port keeps its replay buffer, sequences and credits for a training that resumes (R285, R491; log entry 93). -/
def State.pullPort (s : State) (p : Nat) : State :=
  let k := s.port p
  let s1 := k.owners.foldl (fun s o => s.ownerLost p o) s
  let s2 := s1.modPort p (fun k => { k.noLanes with
    state := 1, phase := 0, exch := none, resume := k.resume || k.state == 3, links := [], rxLinks := [], acked := []
    sent := k.sent.map (fun f => { f with flit := { f.flit with owner := none } })
    egress := k.egress.map (fun e => (e.1, keptQueue e.2)) })
  let s3 := k.lostPackets.foldl (fun s x => s.sendAgain p x) s2
  k.owners.foldl (fun s o => s.ownerAcked o) s3

/-- Quarantine (R307). -/
def State.quarantine (s : State) (p : Nat) : State :=
  ((s.modPort p (fun k => { k with state := 4, quar := true, phase := 0, exch := none, links := [] })).losePort p).violation p 0x0D 0 0
    (s.port p).peerEpid.toNat

/-- Counting violations of R306: Q_THRESH of them within 2^24 cycles quarantine the port (R307). -/
def State.countViolation (s : State) (p code vc lseq epid now : Nat) : State :=
  let s1 := (s.violation p code vc lseq epid).modPort p (fun k =>
    { k with violTimes := now :: k.violTimes.filter (fun t => decide (now < t + 2 ^ 24)) })
  if (s1.port p).violTimes.length ≥ s1.lnk.qThresh.toNat ∧ (s1.port p).state ≠ 4 then s1.quarantine p else s1

/-- The port goes down and retrains from a phase; the fourth retrain within 2^31 cycles quarantines it (R286). -/
def State.retrain (s : State) (p phase now : Nat) (resume : Bool) : State :=
  let s1 := (s.violation p 0x0E 0 0 (s.port p).peerEpid.toNat).modPort p (fun k =>
    let k := if phase = 1 then k.noLanes else k
    { k with state := 2, phase := phase, exch := none, resume := resume, badFrames := 0, retrainCnt := satInc k.retrainCnt,
             retrains := now :: k.retrains.filter (fun t => decide (now < t + 2 ^ 31)) })
  if 4 ≤ (s1.port p).retrains.length then s1.quarantine p else s1

end Sys2Proof.Machine
end

