-- ==== Sys2Proof/Machine/Links.lean ====
section
/-! DEFINITION. Links.lean: the wire of a Vexja port: frames, acknowledgement and replay, credits, packets in assembly, training, lanes,
heartbeats, and the link registers (R283 to R295, R304 to R309, R491). -/
namespace Sys2Proof.Machine

/-- Receive buffers and transmit ceilings of the channels, in flits (R291). -/
def vcFlits : List Nat := [32, 160, 64, 256]

/-- The port is fitted. -/
def State.hasPort (s : State) (p : Nat) : Bool := decide (p < s.variant.ports)

/-! ### Frames (R288) -/

/-- A slot's 256 bytes: words that are not listed are 0. -/
def slotBytes (f : FSlot) : List Byte := wordsBytes ((List.range 32).map (wrd f.words))

/-- The CRC of a frame: over the 20 slots and bits [127:0] of its control. -/
def frameCrc (slots : List FSlot) (lo hi : DWord) : Word :=
  crc32 (((List.range 20).map (fun i => slotBytes (slots.getD i ⟨0, []⟩))).flatten ++ wordsBytes [lo, hi])

end Sys2Proof.Machine

namespace Sys2Proof

def Frame.type (f : Frame) (i : Nat) : Nat := Machine.fld f.lo (2 * i) 2
def Frame.slot (f : Frame) (i : Nat) : FSlot := f.slots.getD i ⟨0, []⟩
def Frame.fseq (f : Frame) : Nat := Machine.fld f.lo 40 24
def Frame.ack (f : Frame) : Nat := Machine.fld f.hi 0 24
def Frame.nak (f : Frame) : Bool := Machine.bit f.hi 24
def Frame.slow (f : Frame) : Bool := Machine.bit f.hi 25
def Frame.credit (f : Frame) (vc : Nat) : Nat := Machine.fld f.hi (32 + 6 * vc) 6
/-- Every codeword was correctable and the CRC is good. -/
def Frame.good (f : Frame) : Bool := f.fec && f.crc == Machine.frameCrc f.slots f.lo f.hi

end Sys2Proof

namespace Sys2Proof.Machine

/-! ### Acknowledgement, replay, credits (R290 to R292) -/

/-- An acknowledged flit: a channel keeps those of a packet whose last flit is not acknowledged. -/
def ackFlit (t : Tbl (List TxFlit)) (f : TxFlit) : Tbl (List TxFlit) :=
  let l := if f.head then [f] else tget [] t f.vc ++ [f]
  let n := fld (wrd ((l.map (·.words)).headD []) 0) 48 5
  tput t f.vc (if l.length = 1 + n then [] else l)

/-- How many flits an ACK acknowledges; none when it lies outside the unacknowledged range. -/
def Port.ackCount (k : Port) (a : Nat) : Option Nat :=
  let base := ((k.sent.map (·.lseq)).head?).getD k.txLseq
  let n := (a + 1 + 2 ^ 24 - base) % 2 ^ 24
  if n ≤ k.sent.length then some n else none

/-- ACK of a frame. -/
def State.takeAck (s : State) (p a now : Nat) : State :=
  let k := s.port p
  match k.ackCount a with
  | none => s.countViolation p 0x06 0 a k.peerEpid.toNat now
  | some n =>
    let done := (k.sent.take n).map (·.flit)
    let s1 := s.modPort p (fun k => { k with sent := k.sent.drop n, acked := done.foldl ackFlit k.acked })
    (done.filterMap (·.owner)).eraseDups.foldl (fun s o => s.ownerAcked o) s1

/-- The n oldest unacknowledged flits are to be sent again; one that was to be sent again already is not counted twice. -/
def Port.resend (k : Port) (n : Nat) : Port :=
  let mark (f : SentFlit) : SentFlit := if f.again then f else { f with again := true, resends := f.resends + 1 }
  { k with sent := (k.sent.take n).map mark ++ k.sent.drop n }

/-- Flits are sent again; the eighth resend of one flit retrains the port. -/
def State.resend (s : State) (p n now : Nat) : State :=
  let s1 := s.modPort p (fun k => k.resend n)
  if (s1.port p).sent.any (fun f => decide (8 ≤ f.resends)) then s1.retrain p 1 now true else s1

/-- Credits returned for a channel. -/
def State.takeCredit (s : State) (p now vc n : Nat) : State :=
  let k := s.port p
  let held := k.credits.getD vc 0
  let ceil := vcFlits.getD vc 0
  let s1 := s.modPort p (fun k =>
    { k with credits := modAt k.credits vc (fun h => max h (min (min (h + n) ceil) (k.limits.getD vc 0))) })
  if ceil < held + n then s1.countViolation p 0x05 vc 0 k.peerEpid.toNat now else s1

/-! ### Packets in assembly (R294, R306) -/

/-- A header that R294, R319 or R333 calls malformed. -/
def Pkt.malformed (k : Port) (vc : Nat) (p : Pkt) : Bool :=
  let t := p.type
  let rsv := fld (p.w 0) 30 2 ≠ 0 ∨ fld (p.w 0) 46 2 ≠ 0 ∨ fld (p.w 0) 53 11 ≠ 0 ∨ fld (p.w 1) 48 16 ≠ 0 ∨ fld (p.w 2) 14 18 ≠ 0
  let red := fld (p.w 1) 44 4 ≠ 0 ∨ 13 < fld (p.w 1) 24 4 ∨ bit (p.w 2) 3 ∨ p.ackreq ∨ 16 < p.ndata ∨
    (if bit (p.w 1) 28 then p.ndata ≠ 0 ∨ fld (p.w 3) 0 15 = 0 ∨ 16384 < fld (p.w 3) 0 15
     else p.ndata = 0 ∨ p.ndata ≠ ((List.range 64).filter (fun i => bit (p.w 3) i)).length)
  let jet := p.ndata ≠ 16 ∨ fld (p.w 2) 2 2 ≠ 0 ∨ fld (p.w 1) 44 4 ≠ 0 ∨ fld (p.w 3) 32 32 ≠ 0 ∨ p.ackreq
  decide (p.ver ≠ k.ver.toNat ∨ 6 ≤ t ∨ p.vc ≠ vc ∨ vcOf t ≠ vc ∨ rsv)
    || match t with
       | 0 => decide (p.ndata = 0 ∨ 16 < p.ndata ∨ p.arg.toNat % 64 ≠ 0)
       | 4 => decide red
       | 5 => decide jet
       | _ => decide (p.ndata ≠ 0)

/-- n flits of a channel leave the receive buffer. -/
def Port.freeFlits (k : Port) (vc n : Nat) : Port :=
  { k with rxHeld := modAt k.rxHeld vc (· - n), ret := modAt k.ret vc (· + n) }

/-- A malformed packet is dropped: what came of it leaves the buffer, and what is still to come is dropped too. -/
def State.dropBad (s : State) (p vc lseq epid flits now : Nat) : State :=
  (s.modPort p (fun k => { k.freeFlits vc flits with
    partial_ := tdel k.partial_ vc, dropping := if k.dropping.contains vc then k.dropping else k.dropping ++ [vc] })).countViolation
    p 0x04 vc lseq epid now

/-- A header flit has been accepted. -/
def State.rxHeader (s : State) (p vc lseq now : Nat) (ws : List DWord) : State :=
  let old := tget [] (s.port p).partial_ vc
  let s0 := if old.isEmpty then s else s.dropBad p vc lseq (Pkt.src ⟨old.headD [], []⟩) old.length now
  if (s0.port p).state ≠ 3 then s0
  else
    let h : Pkt := ⟨(List.range 4).map (wrd ws), []⟩
    if h.malformed (s0.port p) vc then s0.dropBad p vc lseq h.src 1 now
    else
      s0.modPort p (fun k =>
        let k := { k with dropping := k.dropping.filter (· != vc) }
        if h.ndata = 0 then { k with rxQ := tput k.rxQ vc (tget [] k.rxQ vc ++ [⟨h, false⟩]) }
        else { k with partial_ := tput k.partial_ vc [h.hdr] })

/-- A data flit has been accepted. -/
def State.rxData (s : State) (p vc lseq now : Nat) (ws : List DWord) : State :=
  match tget [] (s.port p).partial_ vc with
  | [] =>
    if (s.port p).dropping.contains vc then s.modPort p (fun k => k.freeFlits vc 1) else s.dropBad p vc lseq (s.port p).peerEpid.toNat 1 now
  | h :: ds =>
    let pk : Pkt := ⟨h, ds ++ [ws.take 32]⟩
    s.modPort p (fun k =>
      if pk.data.length = pk.ndata then
        { k with partial_ := tdel k.partial_ vc, rxQ := tput k.rxQ vc (tget [] k.rxQ vc ++ [⟨pk, false⟩]) }
      else { k with partial_ := tput k.partial_ vc (h :: pk.data) })

/-- The header and data slots of an accepted frame, in slot order. A flit sent without credit is dropped with the rest of its frame, and a NAK
asks for it (R306). -/
def State.rxSlots (s : State) (p now : Nat) (f : Frame) : List Nat → State
  | [] => s
  | i :: r =>
    let k := s.port p
    let t := f.type i
    if k.state ≠ 3 then s
    else if t ≠ 1 ∧ t ≠ 2 then State.rxSlots s p now f r
    else
      let vc := (f.slot i).vc % 4
      if vcFlits.getD vc 0 ≤ k.rxHeld.getD vc 0 + k.ret.getD vc 0 then
        (s.modPort p (fun k => { k with nakOut := true, nakPend := true })).countViolation p 0x03 vc k.rxLseq k.peerEpid.toNat now
      else
        let s1 := s.modPort p (fun k => { k with rxLseq := (k.rxLseq + 1) % 2 ^ 24, rxHeld := modAt k.rxHeld vc (· + 1) })
        let s2 := if t = 1 then s1.rxHeader p vc k.rxLseq now (f.slot i).words else s1.rxData p vc k.rxLseq now (f.slot i).words
        State.rxSlots s2 p now f r

/-- The link flits of a good frame: those of a TYPE that this generation has wait for their commands. -/
def State.takeLinks (s : State) (p : Nat) (f : Frame) : State :=
  let ls := ((List.range 20).filter (fun i => f.type i == 3)).map (fun i => (List.range 2).map (wrd (f.slot i).words))
  s.modPort p (fun k => { k with rxLinks := k.rxLinks ++ ls.filter (fun w => decide (fld (wrd w 0) 0 8 ∈ [2, 3])) })

/-- A NAK is to be sent. -/
def State.sendNak (s : State) (p : Nat) : State := s.modPort p (fun k => { k with nakOut := true, nakPend := true })

/-- The header and data flits of a good frame, by its FSEQ (R290). -/
def State.takeFlits (s : State) (p : Nat) (f : Frame) (now : Nat) : State :=
  let k := s.port p
  let d := (f.fseq + 2 ^ 24 - k.rxLseq) % 2 ^ 24
  if k.state ≠ 3 then s
  else if d = 0 then State.rxSlots (s.modPort p (fun k => { k with nakOut := false })) p now f (List.range 20)
  else if 2 ^ 23 ≤ d ∨ k.nakOut = true then s
  else (s.sendNak p).countViolation p 0x02 0 f.fseq k.peerEpid.toNat now

/-- A step of a frame's receipt, while the port stays active. -/
def State.whileActive (p : Nat) (f : State → State) (s : State) : State := if (s.port p).state = 3 then f s else s

/-- A frame on an active port: its ACK, its credits and its NAK all act (R311), then its flits. -/
def State.takeFrame (s : State) (p : Nat) (f : Frame) (now : Nat) : State :=
  let bad := if f.fec then 0 else (s.port p).badFrames + 1
  let s0 := s.modPort p (fun k => { k with badFrames := bad })
  if 8 ≤ bad then s0.retrain p 3 now true
  else if !f.good then
    if (s.port p).nakOut then (s0.sendNak p).countViolation p 0x01 0 (s.port p).rxLseq (s.port p).peerEpid.toNat now else s0.sendNak p
  else
    let s1 := (s0.takeLinks p f).modPort p (fun k => { k with peerSlow := f.slow })
    let s2 := s1.takeAck p f.ack now
    let s3 := (List.range 4).foldl (fun s vc => s.whileActive p (fun s => s.takeCredit p now vc (f.credit vc))) s2
    let s4 := s3.whileActive p (fun s => if f.nak then s.resend p (s.port p).sent.length now else s)
    s4.takeFlits p f now

/-- A frame reaches a port: a quarantined port acts on its link flits alone (R307). -/
def execFrameReceive (port : Nat) (f : Frame) (now : Nat) (s : State) : Host.Outcome State Fault Refusal :=
  .next (if !s.hasPort port then s
    else if (s.port port).state = 3 then s.takeFrame port f now
    else if (s.port port).state = 4 then (if f.good then s.takeLinks port f else s)
    else s)

/-! ### Sending a frame (R288 to R293) -/

/-- A frame being filled: the port, the slots so far, LSEQ of its first header or data flit, and the LSEQ that the next must have. -/
structure Filling where
  port : Port
  slots : List (Nat × FSlot)
  first : Option Nat
  next : Option Nat
  deriving DecidableEq, Repr

/-- The channel that a new flit comes from (R293). -/
def Port.nextVc (k : Port) : Option Nat :=
  ([0, 2] ++ (if k.lastRr = 1 then [3, 1] else [1, 3])).find?
    (fun vc => !(tget [] k.egress vc).isEmpty && decide (0 < k.credits.getD vc 0))

/-- The next slot of a frame: a link flit, a flit to be sent again, a new flit, or NULL. -/
def Filling.fill (a : Filling) : Filling :=
  let k := a.port
  let fits (l : Nat) : Bool := decide (a.next = none ∨ a.next = some l)
  let null : Filling := { a with slots := a.slots ++ [(0, ⟨0, []⟩)] }
  match k.links with
  | l :: r => { a with port := { k with links := r }, slots := a.slots ++ [(3, ⟨0, l⟩)] }
  | [] =>
    match k.sent.find? (·.again) with
    | some f =>
      if fits f.lseq then
        { port := { k with sent := k.sent.map (fun g => if g.lseq = f.lseq then { g with again := false } else g) }
          slots := a.slots ++ [(if f.flit.head then 1 else 2, ⟨f.flit.vc, f.flit.words⟩)]
          first := a.first.orElse (fun _ => some f.lseq), next := some ((f.lseq + 1) % 2 ^ 24) }
      else null
    | none =>
      if k.state ≠ 3 ∨ 512 ≤ k.sent.length ∨ fits k.txLseq = false then null
      else
        match k.nextVc with
        | none => null
        | some vc =>
          match tget [] k.egress vc with
          | [] => null
          | f :: rest =>
            { port := { k with
                egress := tput k.egress vc rest, credits := modAt k.credits vc (· - 1), lastRr := if vc % 2 = 1 then vc else k.lastRr
                sent := k.sent ++ [⟨k.txLseq, f, 0, false⟩], txLseq := (k.txLseq + 1) % 2 ^ 24 }
              slots := a.slots ++ [(if f.head then 1 else 2, ⟨vc, f.words⟩)]
              first := a.first.orElse (fun _ => some k.txLseq), next := some ((k.txLseq + 1) % 2 ^ 24) }

/-- Twenty slots are filled, one after another. -/
def Filling.run : Nat → Filling → Filling
  | 0, a => a
  | n + 1, a => Filling.run n a.fill

/-- A frame leaves a port. -/
def State.sendFrame (s : State) (p : Nat) : State :=
  let a := Filling.run 20 ⟨s.port p, [], none, none⟩
  let k := a.port
  let back := k.ret.map (min 63)
  let types := a.slots.map (·.1)
  let slots := a.slots.map (·.2)
  let lo := ((List.range 20).map (fun i => at_ (types.getD i 0) (2 * i))).foldl (· ||| ·) (at_ (a.first.getD k.txLseq) 40)
  let hi := ((List.range 4).map (fun vc => at_ (back.getD vc 0) (32 + 6 * vc))).foldl (· ||| ·)
    (at_ ((k.rxLseq + 2 ^ 24 - 1) % 2 ^ 24) 0 ||| at_ (b2n k.nakPend) 24 ||| at_ (b2n s.lnk.slow) 25)
  (s.modPort p (fun _ => { k with nakPend := false, ret := (List.range 4).map (fun vc => k.ret.getD vc 0 - back.getD vc 0) })).emit
    (.frame p types slots lo hi (frameCrc slots lo hi))

/-- A frame time of an active port, or of a quarantined one, which sends NULL slots and link flits. -/
def execFrameSend (port : Nat) (s : State) : Host.Outcome State Fault Refusal :=
  .next (if s.hasPort port ∧ ((s.port port).state = 3 ∨ (s.port port).state = 4) then s.sendFrame port else s)

/-! ### Link flits (R289, R304, R306) -/

/-- The oldest link flit of a TYPE that the port has received. -/
def Port.linkFlit (k : Port) (t : Nat) : Option (List DWord) := k.rxLinks.find? (fun w => decide (fld (wrd w 0) 0 8 = t))

/-- A heartbeat of the partner: LNK_PEER takes its fields, and a wrong EPID quarantines the port. -/
def State.heartbeat (s : State) (p : Nat) (w : DWord) : State :=
  let s1 := s.modPort p (fun k => { k with
    peerEpid := BitVec.ofNat 14 (fld w 16 16), peerPort := BitVec.ofNat 4 (fld w 32 8), peerSlow := bit w 40
    hbCount := BitVec.ofNat 16 (fld w 48 16) })
  let k := s1.port p
  if k.expectEn && decide (fld w 16 16 ≠ k.expectEpid.toNat) then
    let s2 := s1.violation p 0x0A 0 0 (fld w 16 16)
    if k.state = 4 then s2 else s2.quarantine p
  else s1

def execHb (port : Nat) (s : State) : Host.Outcome State Fault Refusal :=
  .next (match (s.port port).linkFlit 2 with
    | some w => (s.modPort port (fun k => { k with rxLinks := k.rxLinks.erase w })).heartbeat port (wrd w 0)
    | none => s)

/-- A LINK_ERR of the partner is logged. -/
def execLinkErr (port : Nat) (s : State) : Host.Outcome State Fault Refusal :=
  .next (match (s.port port).linkFlit 3 with
    | some w => (s.modPort port (fun k => { k with rxLinks := k.rxLinks.erase w })).violation port 0x0C 0
        (fld (wrd w 0) 32 24) (s.port port).peerEpid.toNat
    | none => s)

/-- The heartbeat interval ends: an active port sends HB, a quarantined one LINK_ERR with 0x0D (R304, R307). -/
def execHbSend (port : Nat) (s : State) : Host.Outcome State Fault Refusal :=
  .next (if !s.hasPort port then s
    else if (s.port port).state = 3 then
      s.modPort port (fun k => { k with
        hbSent := k.hbSent + 1
        links := k.links ++ [[at_ 2 0 ||| at_ s.lnk.epid.toNat 16 ||| at_ port 32 ||| at_ (b2n s.lnk.slow) 40 ||| at_ k.hbSent.toNat 48]] })
    else if (s.port port).state = 4 then s.modPort port (fun k => { k with links := k.links ++ [linkErrFlit 0x0D 0] })
    else s)

/-- No heartbeat came in 16,384 cycles though frames did (R304). -/
def execHbLoss (port now : Nat) (s : State) : Host.Outcome State Fault Refusal :=
  .next (if s.active port then (s.violation port 0x09 0 0 (s.port port).peerEpid.toNat).retrain port 1 now true else s)

/-- The n oldest flits were sent 2,048 cycles ago and are not acknowledged (R290). -/
def execReplayTimeout (port n now : Nat) (s : State) : Host.Outcome State Fault Refusal :=
  .next (if s.active port then s.resend port n now else s)

/-- No replay came in 2,048 cycles: the NAK is sent again (R290). -/
def execNakResendTimeout (port : Nat) (s : State) : Host.Outcome State Fault Refusal :=
  .next (if s.active port && (s.port port).nakOut then s.sendNak port else s)

/-! ### Lanes and training (R284 to R287, R491) -/

/-- Lanes fail: a held spare takes the place of one; else the port goes down and trains from the start. A failing spare is held no longer. -/
def State.failLanes (s : State) (p : Nat) (lanes : List Nat) (now : Nat) : State :=
  let k := s.port p
  let bad := (List.range 5).filter (fun n => lanes.contains n && k.lanes.getLsbD n)
  let spareBad := k.spareHeld && (List.range 5).any (fun n => lanes.contains n && !k.lanes.getLsbD n)
  let s0 := if spareBad then s.modPort p (fun k => { k with spareHeld := false }) else s
  match bad with
  | [] => s0
  | [n] =>
    if (s0.port p).spareHeld then
      ((s0.modPort p (fun k => { k with
        lanes := 0x1F#5 ^^^ (1#5 <<< n), spareHeld := false, swap := true, swapCnt := satInc k.swapCnt })).portLog
          p 0x20 0 0 k.peerEpid.toNat n).retrain p 3 now true
    else s0.retrain p 1 now true
  | _ => s0.retrain p 1 now true

/-- A measurement of 2^24 frames ends: the lanes above 1e-4 (R285). -/
def execLaneBerWindow (port : Nat) (lanes : List Nat) (now : Nat) (s : State) : Host.Outcome State Fault Refusal :=
  .next (if s.active port then s.failLanes port lanes now else s)

def execLaneLockLoss (port lane now : Nat) (s : State) : Host.Outcome State Fault Refusal :=
  .next (if s.active port then s.failLanes port [lane] now else s)

/-- Why a cable is refused (R478), as DETAIL of the port's log names it (log entry 29): 1 its length, 2 its type, 3 its memory. -/
def cableCause : Cable → Option Nat
  | .none => none
  | .unreadable => some 3
  | .read mm copper => if 2000 < mm then some 1 else if copper then none else some 2

/-- The port trains from phase 1, where its cable lets it, with the cable's starting equaliser values (R286, R478); what a pulled cable left is still
held (R285, R491). -/
def State.startTraining (s : State) (p : Nat) : State :=
  s.modPort p (fun k =>
    match k.cable, cableCause k.cable with
    | .read mm copper, none =>
      { k.noLanes with state := 2, phase := 1, exch := none, badFrames := 0, rxLinks := [], links := [], startEq := Config.startEq mm copper }
    | _, _ => { k.noLanes with state := 1, phase := 0, exch := none, rxLinks := [], links := [] })

/-- Qualification ends (R284): the four lowest lanes that qualify and are not excluded (R457), and the fifth as the spare. -/
def State.selectLanes (s : State) (p : Nat) (lanes : List Nat) : State :=
  let good := (List.range 5).filter (fun n => lanes.contains n && !s.laneExcluded p n)
  if good.length < 4 then (s.modPort p (fun k => { k.noLanes with state := 5, phase := 0, exch := none })).losePort p
  else s.modPort p (fun k => { k with
    phase := 3, lanes := (good.take 4).foldl (fun m n => m ||| (1#5 <<< n)) 0, spareHeld := decide (good.length = 5) })

/-- The exchange ends: with both sides' RESUME everything is kept and unacknowledged flits go again; else both start afresh (R491). -/
def State.finishTraining (s : State) (p : Nat) (x : Exchange) : State :=
  let go (k : Port) : Port := 
    { k with state := 3, phase := 0, ver := 1, verRefused := false, exch := none, resume := false, badFrames := 0 }
  if (s.port p).resume && x.resume then
    s.modPort p (fun k => { go k with sent := k.sent.map (fun f => { f with again := true, resends := 0 }) })
  else
    (s.losePort p).modPort p (fun k => { go k with
      txLseq := 0, rxLseq := 0, txDseq := 0, counter := 0xFFFFFF, lastRr := 0
      credits := (List.range 4).map (fun vc => min (min (x.credits.getD vc 0) (vcFlits.getD vc 0)) (k.limits.getD vc 0)) })

/-- A training phase ends within its bound (R286). -/
def execTrainingPhaseDone (port : Nat) (lanes : List Nat) (s : State) : Host.Outcome State Fault Refusal :=
  let k := s.port port
  .next (if !s.hasPort port ∨ k.state ≠ 2 then s
    else if k.phase = 1 then s.modPort port (fun k => { k with phase := 2 })
    else if k.phase = 2 then s.selectLanes port lanes
    else if k.phase = 3 then
      (s.modPort port (fun k => { k with phase := 4 })).emit (.train port 1 1 s.lnk.epid.toNat vcFlits k.resume)
    else
      match k.exch with
      | some x => s.finishTraining port x
      | none => s)

/-- A phase overruns its bound: back to phase 1 (R286). -/
def execTrainingPhaseOverrun (port now : Nat) (s : State) : Host.Outcome State Fault Refusal :=
  .next (if s.hasPort port ∧ (s.port port).state = 2 then s.retrain port 1 now (s.port port).resume else s)

/-- The partner's training flit of phase 4: its version range, EPID, initial credits and RESUME (R286, R287, R491). -/
def execTrain (port verMin verMax epid : Nat) (credits : List Nat) (resume : Bool) (s : State) : Host.Outcome State Fault Refusal :=
  .next (if s.hasPort port ∧ (s.port port).state = 2 ∧ (s.port port).phase = 4 then
      if verMin ≤ 1 ∧ 1 ≤ verMax then s.modPort port (fun k => { k with exch := some ⟨credits, resume⟩ })
      else
        ((s.modPort port (fun k => { k.noLanes with state := 1, phase := 0, exch := none, verRefused := true })).losePort port).violation
          port 0x0B 0 0 epid
    else s)

/-! ### Registers (R295, R309) -/

/-- LNK_CFG (R309): EPID only while every port is down or disabled; 0 leaves HOP_MAX and Q_THRESH as they are. -/
def State.writeLnkCfg (s : State) (v : DWord) : State :=
  let down := (List.range s.variant.ports).all (fun p => (s.port p).state ∈ [0#3, 1#3, 6#3])
  s.modLnk (fun l => { l with
    epid := if down then BitVec.ofNat 14 (fld v 0 14) else l.epid
    hopMax := if fld v 14 4 = 0 then l.hopMax else BitVec.ofNat 4 (fld v 14 4)
    qThresh := if fld v 18 8 = 0 then l.qThresh else BitVec.ofNat 8 (fld v 18 8) })

def execLnkCfgWrite (v : DWord) (s : State) : Host.Outcome State Fault Refusal := .next (s.writeLnkCfg v)

/-- A routing entry (R295): refused for a port that is absent, or for LOCAL on another endpoint. -/
def State.writeRoute (s : State) (epid : Nat) (e : Half) : State :=
  let e := e &&& 0x3FF
  let badPort (p : Nat) : Bool := !s.hasPort p || decide (11 < p)
  let refused := if bit e 9 then decide (epid ≠ s.lnk.epid.toNat)
    else bit e 8 && (badPort (fld e 0 4) || (decide (fld e 4 4 ≠ 15) && badPort (fld e 4 4)))
  if refused then s.modLnk (fun l => { l with refusedCnt := satInc l.refusedCnt })
  else s.modLnk (fun l => { l with routes := tput l.routes epid e, badRoutes := l.badRoutes.filter (· != epid) })

def execLnkRouteDataWrite (v : Half) (s : State) : Host.Outcome State Fault Refusal := .next (s.writeRoute s.lnk.routeIdx.toNat v)

/-- CRED_LIM0 to CRED_LIM3 (R292): above a ceiling the ceiling is in force and the write is counted. -/
def State.writeTxCfg (s : State) (p : Nat) (v : DWord) : State :=
  let want := [fld v 0 9, fld v 9 9, fld v 18 9, fld v 27 9]
  let excess := (List.range 4).any (fun vc => decide (vcFlits.getD vc 0 < want.getD vc 0))
  if !s.hasPort p then s
  else s.modPort p (fun k => { k with
    credLim := want, limits := (List.range 4).map (fun vc => min (want.getD vc 0) (vcFlits.getD vc 0)), ceilCnt := if excess then satInc k.ceilCnt else k.ceilCnt })

def execLnkTxCfgWrite (port : Nat) (v : DWord) (s : State) : Host.Outcome State Fault Refusal := .next (s.writeTxCfg port v)

/-- DISABLE (R309): the port goes down and stays there; a quarantined port stays quarantined. Cleared, it trains (R286), but for a port whose
version was refused: that one stays down until it is released (R287). -/
def State.writeDisable (s : State) (p : Nat) (on : Bool) : State :=
  let k := s.port p
  if !s.hasPort p ∨ k.disable = on then s
  else
    let s1 := s.modPort p (fun k => { k with disable := on })
    if on then
      if k.state = 4 ∨ k.state = 0 then s1
      else (s1.modPort p (fun k => { k.noLanes with state := 6, phase := 0, exch := none, links := [], rxLinks := [] })).losePort p
    else if k.state ≠ 6 then s1
    else if k.verRefused then s1.modPort p (fun k => { k with state := 1 })
    else s1.startTraining p

/-- RELEASE (R307, R309): the port leaves quarantine or a version refusal and trains. -/
def State.writeRelease (s : State) (p : Nat) : State :=
  let k := s.port p
  if !s.hasPort p then s
  else if k.state = 4 ∨ k.verRefused = true then
    let s1 := s.modPort p (fun k => { k with verRefused := false })
    if k.disable then s1.modPort p (fun k => { k.noLanes with state := 6, phase := 0, links := [], rxLinks := [] }) else s1.startTraining p
  else s

/-- LNK_PORT_CTL. -/
def State.writePortCtl (s : State) (p : Nat) (v : DWord) : State :=
  let s1 := s.writeDisable p (bit v 1)
  if bit v 0 then s1.writeRelease p else s1

def execRelease (port : Nat) (s : State) : Host.Outcome State Fault Refusal := .next (s.writeRelease port)
def execDisable (port : Nat) (on : Bool) (s : State) : Host.Outcome State Fault Refusal := .next (s.writeDisable port on)

end Sys2Proof.Machine
end

