-- ==== Sys2Proof/Machine/Models.lean ====
section
/-! DEFINITION. Models.lean: group 0xA: the model cache (R382 to R386, R230). -/
namespace Sys2Proof.Machine

/-- Bytes of a model slot: min(64 GiB, STK_GIB × n / 8 GiB). -/
def State.modelCapacity (s : State) : Nat := min (64 * gib) (s.boot.stkGib.toNat * s.nStacks * 0x8000000)

/-- First address of a slot's striped view (R206). -/
def modelView (slot : Nat) : Nat := 0x18000000000 + slot * 0x1000000000

/-- A slot is the domain's, or shared with it. -/
def State.modelFor (s : State) (dom : BitVec 4) (i : Nat) : Bool :=
  let m := s.model i
  decide (m.state ≠ .empty) && (m.owner == dom || (m.share && (s.dom dom.toNat).shareOk))

/-- The slot that matches MODEL_ID for a context, one that it holds first. -/
def State.modelNamed (s : State) (c : Nat) (id : DWord) : Option Nat :=
  let dom := (s.ctx c).sched.domain
  let hits := (List.range 8).filter (fun i => s.modelFor dom i && (s.model i).id == id)
  (hits.find? (fun i => (s.model i).holders.contains c)).orElse (fun _ => hits.head?)

/-- The slot with a model of this identity and size. -/
def State.modelMatch (s : State) (c : Nat) (id : DWord) (bytes : Nat) : Option Nat :=
  let dom := (s.ctx c).sched.domain
  (List.range 8).find? (fun i => s.modelFor dom i && (s.model i).id == id && decide ((s.model i).bytes.toNat = bytes))

/-- The slot that a miss takes: the lowest EMPTY one, or the RESIDENT one with no holders, no pin and the oldest stamp. -/
def State.modelVictim (s : State) : Option Nat :=
  let free := (List.range 8).find? (fun i => decide ((s.model i).state = .empty))
  let olds := (List.range 8).filter (fun i =>
    let m := s.model i
    decide (m.state = .resident) && m.holders.isEmpty && !m.pin)
  free.orElse (fun _ => olds.foldl (fun b i =>
    match b with
    | some j => if (s.model i).stamp < (s.model j).stamp then some i else b
    | none => some i) none)

/-- The context becomes a holder. -/
def ModelSlot.hold (m : ModelSlot) (c : Nat) : ModelSlot := { m with holders := if m.holders.contains c then m.holders else m.holders ++ [c] }

/-- A slot changes; its stamp follows at the completion (R382, `State.endModel`). -/
def modModelA (i : Nat) (f : ModelSlot → ModelSlot) : Act Unit := modify (fun s => s.modModel i f)

/-- The copy of a load (R384): every read is checked; a fault leaves the slot EMPTY. -/
def modelCopy (c : Nat) (d : Desc) (i : Nat) : Act (Option Stop) := fun s =>
  let n := (d.word 2).toNat
  match (do let bs ← rdVa (d.who c) (d.word 1).toNat n; wrPa (d.who c) (modelView i) bs : Act Unit) s with
  | .ok _ s1 => (do
      modModelA i (fun m => { m with state := .resident, loader := none }.hold c)
      okResult (at_ i 0) : Act (Option Stop)) s1
  | .error e s1 => .error e (s1.modModel i (fun _ => ModelSlot.reset))

/-- The place of a waiting load in the order of issue. -/
def Desc.modelPlace (d : Desc) : Option Nat :=
  match d.prog with
  | .modelWait n => some n
  | _ => none

/-- A load of the same model that was issued earlier waits too, in a context whose descriptors are at their units (R384). -/
def State.modelAhead (s : State) (d : Desc) : Bool :=
  s.ctxs.any (fun e => e.2.atUnits && e.2.descs.any (fun b =>
    decide (b.opcode = 0xA00) && decide (b.st = .executing) && b.word 3 == d.word 3 && b.word 2 == d.word 2
      && !s.models.any (fun m => m.2.loader == some (e.1, b.ring, b.index))
      && (match b.modelPlace, d.modelPlace with
        | some n, some m => decide (n < m)
        | some _, none => true
        | none, _ => false)))

/-- The load waits, in the order of issue. -/
def modelHold (c : Nat) (d : Desc) : Act (Option Stop) := do
  if d.modelPlace.isNone then
    modify (fun s => let s1 := s.setProg c d.ring d.index (.modelWait s.sched.stamp)
      { s1 with sched := { s1.sched with stamp := s.sched.stamp + 1 } })
  pure none

/-- A load finds its slot: a resident match is held, a match that loads is waited on, a miss takes a slot and begins to copy, loads of one model
in issue order (R384). -/
def modelFind (c : Nat) (d : Desc) : Act (Option Stop) := do
  let s ← get
  match s.modelMatch c (d.word 3) (d.word 2).toNat with
  | some i =>
    if (s.model i).state = .loading then modelHold c d
    else do
      modModelA i (fun m => m.hold c)
      okResult (at_ i 0 ||| at_ 1 3)
  | none =>
    if s.modelAhead d then modelHold c d
    else
    match s.modelVictim with
    | none => throw (badState (s.ctx c) 0x0A02)
    | some i => do
      set (s.modModel i (fun _ => { ModelSlot.reset with
        state := .loading, share := bit (d.word 4) 0, owner := (s.ctx c).sched.domain, bytes := BitVec.ofNat 46 (d.word 2).toNat
        id := d.word 3, loader := some (c, d.ring, d.index) }))
      pure none

/-- MODEL_LOAD issues (R384). -/
def unitModelLoad (c : Nat) (d : Desc) : Act (Option Stop) := do
  let s ← get
  let x := s.ctx c
  let dom := s.dom (s.ctxDom c)
  let n := (d.word 2).toNat
  checks ([ (decide ((d.word 1).toNat % 64 ≠ 0), badDesc 1 0 9), (decide (n % 64 ≠ 0), badDesc 2 0 9),
    (decide (d.word 3 = 0), badDesc 3 0 9), rsv d 4 1 63 ] ++ rsvWords d [5, 6, 7]
    ++ [ (!dom.modelOk || (bit (d.word 4) 0 && !dom.shareOk), permCheck),
         phaseCheck x d.opcode, (decide (s.boot.stkGib = 0), badState x 0x0A06) ])
  if n = 0 then noopResult 0
  else do
    checks [(decide (s.modelCapacity < n), shapeOver 0 0 0xFFF n)]
    modelFind c d

/-- A MODEL_LOAD goes on: its own copy, or the wait for another's load. -/
def moreModelLoad (c : Nat) (d : Desc) : Act (Option Stop) := do
  let s ← get
  match (List.range 8).find? (fun i => (s.model i).loader == some (c, d.ring, d.index)) with
  | some i => modelCopy c d i
  | none => modelFind c d

/-- The command issues the descriptor; commanded again, a load that waits or copies goes on. -/
def execModelLoad (d : DescRef) (s : State) : Host.Outcome State Fault Refusal :=
  .next (match s.desc d with
    | some e => if e.st = .executing then continueDesc 0xA00 d (moreModelLoad d.ctx) s else issue 0xA00 d (unitModelLoad d.ctx) s
    | none => s)

/-- Check 11 of the other opcodes: the phase, and a slot that MODEL_ID names for the context. -/
def modelSlotA (c : Nat) (d : Desc) : Act Nat := do
  let s ← get
  checks [phaseCheck (s.ctx c) d.opcode]
  match s.modelNamed c (d.word 1) with
  | some i => pure i
  | none => throw (badState (s.ctx c) 0x0A05)

def unitModelEvict (c : Nat) (d : Desc) : Act (Option Stop) := do
  checks (rsv d 2 1 63 :: rsvWords d [3, 4, 5, 6, 7])
  let i ← modelSlotA c d
  let s ← get
  checks [(!(s.model i).holders.contains c, badState (s.ctx c) 0x0A01)]
  let m := s.model i
  let left := m.holders.filter (· != c)
  if bit (d.word 2) 0 ∧ left.isEmpty ∧ ¬ m.pin then set (s.modModel i (fun _ => ModelSlot.reset))
  else modModelA i (fun m => { m with holders := left })
  okResult (at_ i 0)

def execModelEvict (d : DescRef) (s : State) : Host.Outcome State Fault Refusal := .next (issue 0xA01 d (unitModelEvict d.ctx) s)

/-- Pins of a domain. -/
def State.pins_ (s : State) (dom : BitVec 4) : Nat := ((List.range 8).filter (fun i => (s.model i).pin && (s.model i).owner == dom)).length

def unitModelPin (c : Nat) (d : Desc) : Act (Option Stop) := do
  checks (rsvWords d [2, 3, 4, 5, 6, 7])
  let i ← modelSlotA c d
  let s ← get
  let x := s.ctx c
  let dom := x.sched.domain
  checks [ (!(s.model i).holders.contains c, badState x 0x0A01),
           ((s.model i).owner != dom || decide ((s.dom dom.toNat).pinMax.toNat ≤ s.pins_ dom), badState x 0x0A03) ]
  set (s.modModel i (fun m => { m with pin := true }))
  okResult (at_ i 0)

def execModelPin (d : DescRef) (s : State) : Host.Outcome State Fault Refusal := .next (issue 0xA02 d (unitModelPin d.ctx) s)

def unitModelUnpin (c : Nat) (d : Desc) : Act (Option Stop) := do
  checks (rsvWords d [2, 3, 4, 5, 6, 7])
  let i ← modelSlotA c d
  let s ← get
  checks [(!(s.model i).pin || (s.model i).owner != (s.ctx c).sched.domain, badState (s.ctx c) 0x0A04)]
  set (s.modModel i (fun m => { m with pin := false }))
  okResult (at_ i 0)

def execModelUnpin (d : DescRef) (s : State) : Host.Outcome State Fault Refusal := .next (issue 0xA03 d (unitModelUnpin d.ctx) s)

/-! ### Registers (R386) -/

def ModelSlot.reg (m : ModelSlot) : DWord :=
  at_ (match m.state with | .empty => 0 | .loading => 1 | .resident => 2) 0 ||| at_ (b2n m.pin) 2 ||| at_ (b2n m.share) 3
    ||| at_ m.owner.toNat 4 ||| at_ m.holders.length 8 ||| at_ m.bytes.toNat 18

/-- MOD_MC_ID: 0 when the slot is EMPTY. -/
def ModelSlot.idReg (m : ModelSlot) : DWord := if m.state = .empty then 0 else m.id

end Sys2Proof.Machine
end

