-- ==== Sys2Proof/Machine/Dma.lean ====
section
/-! DEFINITION. Dma.lean: the DMA engine: copies and layouts, activation pools, memory-side adds, parameter prefetch, and the
invalidation and walking of translations (R208 to R212, R218 to R231). -/
namespace Sys2Proof.Machine

/-! ### Operands (R218) -/

/-- An operand of the group: space, address, the word and lowest bit of its selector and the word of its address. -/
structure SpOpnd where
  sp : Nat
  addr : Nat
  spWord : Nat
  spBit : Nat
  word : Nat
  deriving DecidableEq, Repr

/-- Selector 3 is reserved. -/
def SpOpnd.reserved (o : SpOpnd) : Bool × Stop := (decide (o.sp = 3), badDesc o.spWord o.spBit 9)
/-- In spaces 1 and 2 the other address bits must be 0. -/
def SpOpnd.bits (o : SpOpnd) : Bool × Stop :=
  ((decide (o.sp = 1) && decide (2 ^ 26 ≤ o.addr))
    || (decide (o.sp = 2) && (decide (o.addr % 2 ^ 32 ≥ 2 ^ 26) || decide (2 ^ 36 ≤ o.addr))), badDesc o.word 0 9)
/-- n bytes from the operand on extend beyond its scratchpad or its pool window. -/
def SpOpnd.excess (o : SpOpnd) (x : Ctx) (n : Nat) : Bool × Stop :=
  ((decide (o.sp = 1) && beyondSp o.addr n)
    || (decide (o.sp = 2) && decide (0 < n) && decide ((x.poolWindow (o.addr / 2 ^ 32 % 16)).2 < o.addr % 2 ^ 26 + n)),
   badDesc o.word 0 9)

/-! ### Where a destination lies (R60, R265) -/

/-- The bytes lie in host memory, or in a checkpoint region of the context (R60). -/
def State.thawed (s : State) (c va : Nat) (p : Nat × Nat) : Bool :=
  (match s.backing p.1 with
   | .host _ => true
   | _ => false)
  || (s.ctx c).ckpts.any (fun e => decide (e.2.1 ≤ va) && decide (va + p.2 ≤ e.2.1 + e.2.2))

/-- While FROZEN the whole destination is translated, and every byte must lie in host memory or in a checkpoint region (R60). -/
def judgeFrozen (w : Who) (va n : Nat) : Act Unit := do
  let vs := piecesOf va n
  let ps ← xlRange w va n true
  let s ← get
  let x := s.ctx w.ctx
  require ((List.range ps.length).all (fun i => s.thawed w.ctx (vs.getD i (0, 0)).1 (ps.getD i (0, 0)))) (badState x 0)

/-- The guard lies on some byte of a destination that translates (R265). -/
def State.guardedVa (s : State) (w : Who) (va n : Nat) : Bool :=
  (piecesOf va n).any (fun p =>
    match s.xlate w.ctx (s.unitOf w) p.1 p.2 true with
    | .ok (pa, _) => s.guardedRange (s.home pa) p.2
    | .error _ => false)

/-- A destination in context memory is judged before any write: while FROZEN it is translated whole (R60); then the guard (R265). Outside
FROZEN a page that does not translate is met when its row is written, and the rows before it stay (R58). -/
def judgeVa (w : Who) (va n : Nat) : Act Unit := do
  let x ← getCtx w.ctx
  if x.frozen then judgeFrozen w va n else pure ()
  let s ← get
  require (!s.guardedVa w va n) (badState x 0x0508)

/-- A destination that is rows of n bytes. -/
def judgeDst (w : Who) (sp : Nat) (n : Nat) (rows : List Nat) : Act Unit := do
  if sp = 0 then rows.forM (fun a => judgeVa w a n) else pure ()

/-- While FROZEN a scratchpad or a pool window is context memory like any other (R60, R218). -/
def frozenSp (x : Ctx) (sp : Nat) : Bool × Stop := (x.frozen && decide (sp ≠ 0), badState x 0)

/-! ### DMA_COPY (R220, R221) -/

structure Copy where
  src : SpOpnd
  dst : SpOpnd
  layout : Nat
  fmt : Nat
  shape : Nat
  fill : Bool
  bsrc : Nat
  sStr1 : Nat
  sStr2 : Nat
  dStr1 : Nat
  dStr2 : Nat
  deriving DecidableEq, Repr

def Desc.copy (d : Desc) : Copy :=
  let w3 := d.word 3
  { src := ⟨fld w3 0 2, (d.word 1).toNat, 3, 0, 1⟩, dst := ⟨fld w3 2 2, (d.word 2).toNat, 3, 2, 2⟩
    layout := fld w3 4 4, fmt := fld w3 8 4, shape := fld w3 12 3, fill := bit w3 15, bsrc := fld w3 28 2
    sStr1 := fld (d.word 6) 0 32, sStr2 := fld (d.word 6) 32 32, dStr1 := fld (d.word 7) 0 32, dStr2 := fld (d.word 7) 32 32 }

def Desc.cuse (d : Desc) : PlanUse :=
  let lay := d.copy.layout
  let imm := [fld (d.word 4) 0 32, fld (d.word 4) 32 32, fld (d.word 5) 0 32]
  ⟨fld (d.word 3) 16 12, fld (d.word 3) 28 2 == 1, if lay = 0 then 2 else 1, imm⟩

/-- The plan's dimension that stands for a dimension of the copy (R220): 0 M, 1 N, 2 K of a MATMUL plan. -/
def Copy.planDim (k : Copy) (i : Nat) : Nat :=
  if k.layout = 0 then i else if i = 0 then 2 else if k.layout = 1 ∨ k.layout = 3 then 0 else 1

/-- Dimensions of the copy that a plan names. -/
def Copy.planned (k : Copy) : List Nat := if k.layout = 0 then [0, 1, 2] else [0, 1]

/-- D0, D1 and D2 at which check 9 judges (R489). -/
def Copy.judged (k : Copy) (x : Ctx) (u : PlanUse) : Option (List Nat) :=
  if u.bound then
    match x.plan u.plan with
    | some p => if p.kind = u.kind then
        some ((List.range 3).map (fun i => if k.planned.contains i then p.max (k.planDim i) else 1)) else none
    | none => none
  else some u.imm

/-- The plan's dimension that stands for dimension i of the copy, if it has one (R220). -/
def Copy.named (k : Copy) (i : Nat) : Option Nat := if k.planned.contains i then some (k.planDim i) else none

/-- The lanes of a skew layout, as MATMUL's feed reads them (R89, R92). -/
def Copy.mat (k : Copy) : Matmul :=
  { a := k.dst.addr, b := k.dst.addr, dst := 0, bias := 0, bsrc := 0, aFmt := k.fmt, bFmt := k.fmt, dstFmt := 0, biasFmt := 0,
    shape := k.shape, round := 0, layout := 0, biasEn := false, chainEn := false, stride := 0, slot := 0, mask := 0,
    aScale := k.dst.addr, bScale := k.dst.addr, tscale := 0, rnd := rndBlock 0 0, seg := 0, width := 0, row0 := 0, col0 := 0 }

/-- Elements and bytes of a lane. -/
def Copy.lane (k : Copy) : Nat × Nat :=
  let f := (feedClass k.fmt k.fmt).getD (1, 2, 2)
  (f.1, if k.layout = 1 then f.2.1 else f.2.2)

/-- The destination as lines: number of lines, bytes of a line, bytes of it that lanes or scales take. -/
def Copy.lines (k : Copy) (k0 rows : Nat) : Nat × Nat × Nat :=
  let sh := shapeOf k.shape
  let m := k.mat
  let (g, lb) := k.lane
  let kp := cdiv k0 g
  match k.layout with
  | 1 => if k.shape = 1 then (2 * kp + 127, m.aLine lb, 128 * lb) else (kp + sh.h - 1, m.aLine lb, sh.h * lb)
  | 2 => if k.shape = 1 then ((if 128 < rows then 2 else 1) * (kp + 64), m.bLine lb, 128 * lb)
         else (kp + sh.w - 1, m.bLine lb, sh.w * lb)
  | 3 => (cdiv k0 32, m.aScaleLine, if k.shape = 1 then 256 else sh.h)
  | _ => (cdiv k0 32, m.bScaleLine, sh.maxN)

/-- Bytes of a source row. -/
def Copy.srcRow (k : Copy) (k0 : Nat) : Nat :=
  match k.layout with
  | 0 => k0
  | 1 => codeBytes k.fmt k0
  | 2 => codeBytes k.fmt k0
  | _ => cdiv k0 32

/-- Check 9 (R218, R221), in order, then the reserved fields. -/
def Copy.checks (k : Copy) (x : Ctx) (d : Desc) (dims : Option (List Nat)) : List (Bool × Stop) :=
  let lay := decide (k.layout ≠ 0)
  let skew := decide (k.layout = 1) || decide (k.layout = 2)
  let ds := dims.getD []
  let (d0, d1, d2) := (ds.getD 0 0, ds.getD 1 0, ds.getD 2 0)
  let some_ := decide (d0 ≠ 0) && decide (d1 ≠ 0) && decide (d2 ≠ 0)
  let sh := shapeOf k.shape
  let maxRows := if k.layout = 1 ∨ k.layout = 3 then sh.maxM else sh.maxN
  let maxK := if skew && decide (k.lane.1 = 1) then 65536 else 2097152
  let at3 := badDesc 3 4 9
  let rowsEnd (s1 s2 n : Nat) : Nat := if some_ then (d1 - 1) * s1 + (if lay then 0 else (d2 - 1) * s2) + n else 0
  let dstEnd := if lay then (let l := k.lines d0 d1; if some_ then l.1 * l.2.1 else 0) else rowsEnd k.dStr1 k.dStr2 d0
  [ k.src.reserved, k.dst.reserved, (decide (5 ≤ k.layout), badDesc 3 4 9), k.src.bits, k.dst.bits,
    (decide (2 ≤ k.bsrc), badDesc 3 28 9), (d.cuse.unnamed, badDesc 3 16 9),
    (lay && decide (k.dst.sp ≠ 1), badDesc 3 2 9),
    (lay && decide (k.dst.addr % 128 ≠ 0), badDesc 2 0 9),
    (lay && decide (k.src.addr % 64 ≠ 0), badDesc 1 0 9),
    (lay && decide (k.sStr1 % 64 ≠ 0), at3),
    (lay && decide (5 ≤ k.shape), at3),
    (skew && (decide (k.fmt = 0) || !codeOk k.fmt), at3),
    (lay && decide (fld (d.word 5) 0 32 ≠ 1), at3),
    (lay && decide (maxRows < d1), at3), (lay && decide (maxK < d0), at3),
    k.src.excess x (rowsEnd k.sStr1 k.sStr2 (k.srcRow d0)), k.dst.excess x dstEnd,
    rsv d 3 30 34, rsv d 5 32 32 ]

/-- Rows and planes of a plain copy, in order: row and plane numbers. -/
def copyRows (d1 d2 : Nat) : List (Nat × Nat) := ((List.range d2).map (fun i2 => (List.range d1).map (fun i1 => (i1, i2)))).flatten

/-- The whole destination is judged at check 11, before the dimensions are held against the plan (R49, R60, R265); a copy without bytes has no
destination. -/
def Copy.judge (k : Copy) (w : Who) (ds : List Nat) : Act Unit :=
  if k.layout ≠ 0 ∨ ds.contains 0 then pure ()
  else judgeDst w k.dst.sp (ds.getD 0 0)
    ((copyRows (ds.getD 1 0) (ds.getD 2 0)).map (fun r => k.dst.addr + r.1 * k.dStr1 + r.2 * k.dStr2))

/-- A plain copy, row by row (R220). -/
def Copy.plain (k : Copy) (w : Who) (d0 d1 d2 : Nat) : Act Nat := do
  (copyRows d1 d2).forM (fun r => do
    let bs ← rdSp w k.src.sp (k.src.addr + r.1 * k.sStr1 + r.2 * k.sStr2) d0
    wrSp w k.dst.sp (k.dst.addr + r.1 * k.dStr1 + r.2 * k.dStr2) bs)
  pure (d0 * d1 * d2)

/-- A row of a skew layout: the lanes that hold at least one element, positions at or beyond K written 0 (R221). -/
def Copy.skewRow (k : Copy) (w : Who) (t q k0 r : Nat) : Act Nat := do
  let (g, lb) := k.lane
  let kp := cdiv k0 g
  let m := k.mat
  let bs ← rdSp w k.src.sp (k.src.addr + r * k.sStr1) (k.srcRow k0)
  (List.range kp).forM (fun j => do
    let es := (List.range g).map (fun i => if j * g + i < k0 then elemBits bs (codeBits k.fmt) (j * g + i) else 0)
    wrSeat w t q (if k.layout = 1 then m.aAddr lb r j else m.bAddr lb kp r j) (packBytes (codeBits k.fmt) lb es))
  pure (kp * lb)

/-- A row of scale bytes, one to a line (R95). -/
def Copy.scaleRow (k : Copy) (w : Who) (t q k0 r : Nat) : Act Nat := do
  let bs ← rdSp w k.src.sp (k.src.addr + r * k.sStr1) (k.srcRow k0)
  let line := (k.lines k0 0).2.1
  (List.range (cdiv k0 32)).forM (fun b => wrSeat w t q (k.dst.addr + b * line + r) [bs.getD b 0])
  pure (cdiv k0 32)

/-- Layouts 1 to 4: with FILL_ZERO every fill position is written 0 (R93, R221). -/
def Copy.laid (k : Copy) (w : Who) (k0 rows : Nat) : Act Nat := do
  let s ← get
  let (t, q) := s.ringSeat w.ctx w.ring
  let (n, line, used) := k.lines k0 rows
  if k.fill then
    (List.range n).forM (fun u => wrSeat w t q (k.dst.addr + u * line) (List.replicate used 0))
  else pure ()
  let ws ← (List.range rows).mapM (fun r =>
    if k.layout = 1 ∨ k.layout = 2 then k.skewRow w t q k0 r else k.scaleRow w t q k0 r)
  pure (if k.fill then n * used else ws.sum)

def unitDmaCopy (c : Nat) (d : Desc) : Act (Option Stop) := do
  let k := d.copy
  let x ← getCtx c
  checks (k.checks x d (k.judged x d.cuse))
  checks (frozenSp x k.dst.sp :: x.planCheck d.cuse)
  let taken ← takeDims k.named (d.who c) d.cuse
  k.judge (d.who c) (taken.map (·.1))
  match ← judgeDims k.named (d.who c) d.cuse taken with
  | none => noopResult 0
  | some ds => do
    let n ← if k.layout = 0 then k.plain (d.who c) (ds.getD 0 0) (ds.getD 1 0) (ds.getD 2 0)
      else k.laid (d.who c) (ds.getD 0 0) (ds.getD 1 0)
    okResult (at_ (n % 2 ^ 48) 0)

def execDmaCopy (d : DescRef) (s : State) : Host.Outcome State Fault Refusal := .next (issue 0x500 d (unitDmaCopy d.ctx) s)

/-! ### Activation pools (R222 to R225) -/

def Ctx.pool (x : Ctx) (p : Nat) : ActPool := tget ActPool.reset x.actPools p
def Ctx.setPool (x : Ctx) (p : Nat) (v : ActPool) : Ctx := { x with actPools := tput x.actPools p v }

/-- The pool that a record describes. -/
def poolOf (ws : List DWord) : ActPool :=
  let w := wrd ws
  { ActPool.reset with
    valid := bit (w 0) 0, entries := fld (w 0) 8 24, tableVa := w 1
    regions := (List.range 3).map (fun t => ((w (2 + 2 * t)).toNat, (w (3 + 2 * t)).toNat)), tops := [0, 0, 0] }

/-- Why a pool record is refused by its own fields: word and lowest bit (R222). -/
def poolBad (ws : List DWord) : Option (Nat × Nat) :=
  let w := wrd ws
  let set := bit (w 0) 0
  let rg (t : Nat) : Nat × Nat := ((w (2 + 2 * t)).toNat, (w (3 + 2 * t)).toNat)
  let l : List (Bool × (Nat × Nat)) :=
    [ (decide (fld (w 0) 1 7 ≠ 0), (0, 1)), (decide (fld (w 0) 32 32 ≠ 0), (0, 32)),
      (set && decide (fld (w 0) 8 24 = 0), (0, 8)),
      (set && decide ((w 1).toNat % 64 ≠ 0), (1, 0)) ]
    ++ ((List.range 3).map (fun t =>
      [ (set && decide ((rg t).2 ≠ 0) && decide ((rg t).1 % kib64 ≠ 0), (2 + 2 * t, 0)),
        (set && decide ((rg t).2 % kib64 ≠ 0), (3 + 2 * t, 0)) ])).flatten
    ++ [ (set && overlap (rg 0).1 (rg 0).2 (rg 1).1 (rg 1).2, (2, 0)),
         (set && overlap (rg 0).1 (rg 0).2 (rg 2).1 (rg 2).2, (2, 0)),
         (set && overlap (rg 1).1 (rg 1).2 (rg 2).1 (rg 2).2, (4, 0)) ]
  (l.find? (·.1)).map (·.2)

/-- ACT_POOL_SET; its regions must translate for writes, since saves write them (log entry 90). -/
def unitActPoolSet (c : Nat) (d : Desc) : Act (Option Stop) := do
  let p := fld (d.word 2) 0 4
  let w := d.who c
  checks ([(decide ((d.word 1).toNat % 64 ≠ 0), badDesc 1 0 9), rsv d 2 4 60] ++ rsvWords d [3, 4, 5, 6, 7])
  let bs ← rdVa w (d.word 1).toNat 64
  let ws := bytesWords 8 bs
  match poolBad ws with
  | some (a, b) => throw (badRecord a b)
  | none => pure ()
  let v := poolOf ws
  let s ← get
  checks [(v.valid && decide ((v.regions.getD 2 (0, 0)).2 ≠ 0) && !s.capBit 0, absent 0)]
  (List.range 3).forM (fun t => do
    let r := v.regions.getD t (0, 0)
    if v.valid ∧ r.2 ≠ 0 then do
      let ps ← xlRange w r.1 r.2 true
      if ps.all (fun q => s.ofTier t q.1) then pure () else throw (badRecord (2 + 2 * t) 0)
    else pure ())
  let x ← getCtx c
  checks [phaseCheck x d.opcode, (!(x.pool p).saves.isEmpty, badState x 0x0501)]
  modCtxA c (fun x => x.setPool p (if v.valid then v else ActPool.reset))
  okResult 0

def execActPoolSet (d : DescRef) (s : State) : Host.Outcome State Fault Refusal := .next (issue 0x501 d (unitActPoolSet d.ctx) s)

/-- Largest stored form of a 4 KiB block, in bytes (R224). -/
def blockMax (mode fmt : Nat) : Nat := if mode = 2 then (if fmt = 0 then 1088 else 2112) else 4096

/-- Element bytes of a format as the blocks take it. -/
def actElem (fmt : Nat) : Nat := if fmt = 0 then 4 else 2

/-- Bytes filled up with zeros to a multiple of 64. -/
def pad64 (bs : List Byte) : List Byte := bs ++ List.replicate (roundUp bs.length 64 - bs.length) 0

/-- The stored form of a block of live bytes, `n0` the index of its first element (R224). -/
def blockStore (mode fmt round : Nat) (rnd : RndBlock) (n0 : Nat) (bs : List Byte) : List Byte × NumFlags :=
  let eb := actElem fmt
  let n := bs.length / eb
  let pats := (List.range n).map (fun i => elemBits bs (8 * eb) i)
  match mode with
  | 1 =>
    let bm := leBytes (4096 / eb / 8) (packNat 1 (pats.map (fun x => if x = 0 then 0 else 1)))
    let z := pad64 (bm ++ ((pats.filter (· ≠ 0)).map (leBytes eb)).flatten)
    (if z.length < bs.length then z else bs, 0)
  | 2 =>
    let vs := pats.map (decodeVal (codeFmt fmt))
    let blocks := groupsOf 32 n vs
    let out := (List.range blocks.length).map (fun b =>
      mxConvert 5 (fun i => roundOf round rnd (n0 + 32 * b + i)) (blocks.getD b []))
    (pad64 (((out.map (fun o => o.2.1)).flatten.map (fun x => BitVec.ofNat 8 x)) ++ out.map (fun o => BitVec.ofNat 8 o.1)),
      out.foldl (fun f o => f ||| o.2.2) 0)
  | _ => (bs, 0)

/-- `live` bytes of a block from its stored form (R224): a value that the format does not represent is rounded by RNE with SAT = 1. -/
def blockLoad (mode fmt live : Nat) (st : List Byte) : List Byte × NumFlags :=
  let eb := actElem fmt
  let n := live / eb
  match mode with
  | 1 =>
    if st.length = live then (st, 0)
    else
      let bm := 4096 / eb / 8
      let on (i : Nat) : Bool := elemBits (st.take bm) 1 i == 1
      let vals := st.drop bm
      let at' (i : Nat) : Nat := ((List.range i).filter on).length
      (((List.range n).map (fun i => if on i then leBytes eb (elemBits vals (8 * eb) (at' i)) else List.replicate eb 0)).flatten, 0)
  | 2 =>
    let out := (List.range n).map (fun i =>
      convert (codeFmt fmt) .rne true (mxVal 5 (st.getD i 0).toNat (st.getD (n + i / 32) 0).toNat))
    ((out.map (fun o => leBytes eb o.1)).flatten, out.foldl (fun f o => f ||| o.2) 0)
  | _ => (st.take live, 0)

/-- Bytes of the directory of a save of n blocks. -/
def dirBytes (n : Nat) : Nat := roundUp (4 * n) 64

/-- An activation's source or destination (R223, R225). -/
structure ActMove where
  opnd : SpOpnd
  pool : Nat
  d0 : Nat
  d1 : Nat
  str : Nat
  deriving DecidableEq, Repr

def Desc.act (d : Desc) : ActMove :=
  ⟨⟨fld (d.word 2) 0 2, (d.word 1).toNat, 2, 0, 1⟩, fld (d.word 2) 2 4, fld (d.word 3) 0 32, fld (d.word 3) 32 32,
    fld (d.word 4) 0 32⟩

def ActMove.bytes (k : ActMove) : Nat := k.d0 * k.d1
def ActMove.end_ (k : ActMove) : Nat := if k.bytes = 0 then 0 else (k.d1 - 1) * k.str + k.d0

/-- The checks that a save and a load share. -/
def ActMove.checks (k : ActMove) (x : Ctx) : List (Bool × Stop) :=
  [k.opnd.reserved, k.opnd.bits, (decide (k.d0 % 64 ≠ 0), badDesc 3 0 9), k.opnd.excess x k.end_]

/-- The first region with room for n bytes; that in Permafrost has none while a device beneath it takes no user write (R252). -/
def ActPool.room (p : ActPool) (s : State) (w : Who) (n : Nat) : Option Nat :=
  (List.range 3).find? (fun t =>
    let r := p.regions.getD t (0, 0)
    let top := (p.tops.getD t 0) * 64
    decide (r.2 ≠ 0) && decide (top + n ≤ r.2) && !(decide (t = 2) && s.frostShutVa w r.1 r.2))

def unitActSave (c : Nat) (d : Desc) : Act (Option Stop) := do
  let k := d.act
  let w := d.who c
  let mode := fld (d.word 2) 6 2
  let fmt := fld (d.word 2) 8 4
  let round := fld (d.word 2) 12 3
  let x ← getCtx c
  checks (k.checks x ++
    [ (decide (mode = 3), badDesc 2 6 9), (decide (10 ≤ fmt), badDesc 2 8 9), ((decide (mode = 1) || decide (mode = 2)) && decide (2 < fmt), badDesc 2 6 9),
      (decide (mode = 2) && roundBad round, badDesc 2 6 9), rsv d 2 15 49, rsv d 4 32 32 ]
    ++ rsvWords d [5, 6, 7, 8, 9, 10, 13, 14])
  let s ← get
  let p := x.pool k.pool
  let nb := cdiv k.bytes 4096
  let worst := dirBytes nb + nb * blockMax mode fmt
  checks [ (!p.valid, badState x 0x0507), (decide (p.entries ≤ p.saves.length), badState x 0x0503),
           ((p.room s w worst).isNone, badState x 0x0502) ]
  let t := (p.room s w worst).getD 0
  let off := p.tops.getD t 0 * 64
  let base := (p.regions.getD t (0, 0)).1 + off
  let i := p.saves.length
  let entryVa := p.tableVa.toNat + 16 * i
  judgeVa w base worst
  judgeVa w entryVa 16
  let rows ← (List.range k.d1).mapM (fun r => rdSp w k.opnd.sp (k.opnd.addr + r * k.str) k.d0)
  let bs := rows.flatten
  let out := (List.range nb).map (fun b =>
    blockStore mode fmt round (rndBlock (d.word 11) (d.word 12)) (b * (4096 / actElem fmt)) ((bs.drop (4096 * b)).take 4096))
  let dir := pad64 ((out.map (fun o => leBytes 4 (o.1.length / 64))).flatten)
  let body := (out.map (·.1)).flatten
  wrVa w base dir
  wrVa w (base + dir.length) body
  let units := (dir.length + body.length) / 64
  wrVa w entryVa (wordsBytes [at_ t 0 ||| at_ mode 2 ||| at_ fmt 4 ||| at_ units 8, BitVec.ofNat 64 off])
  modCtxA c (fun x =>
    let p := x.pool k.pool
    x.setPool k.pool { p with tops := p.tops.set t (p.tops.getD t 0 + units),
                              saves := p.saves ++ [[t, mode, fmt, units, off, k.bytes, i]] })
  okResult (at_ i 0 ||| at_ t 24 ||| at_ (units % 2 ^ 30) 26 ||| nfResult (out.foldl (fun f o => f ||| o.2) 0))

def execActSave (d : DescRef) (s : State) : Host.Outcome State Fault Refusal := .next (issue 0x502 d (unitActSave d.ctx) s)

/-- The blocks of a save read back, one after another. -/
def loadBlocks (w : Who) (mode fmt bytes : Nat) : List Nat → Nat → Nat → Act (List (List Byte × NumFlags))
  | [], _, _ => pure []
  | u :: r, b, va => do
    let st ← rdVa w va (min u 64 * 64)
    let rest ← loadBlocks w mode fmt bytes r (b + 1) (va + u * 64)
    pure (blockLoad mode fmt (min 4096 (bytes - 4096 * b)) st :: rest)

def unitActLoad (c : Nat) (d : Desc) : Act (Option Stop) := do
  let k := d.act
  let w := d.who c
  let rel := bit (d.word 2) 6
  let i := fld (d.word 2) 8 24
  let x ← getCtx c
  checks (k.checks x ++ [rsv d 2 7 1, rsv d 2 32 32, rsv d 4 32 32] ++ rsvWords d [5, 6, 7, 8, 9, 10, 11, 12, 13, 14])
  let p := x.pool k.pool
  let e := p.saves.getD i []
  checks [ frozenSp x k.opnd.sp, (!p.valid, badState x 0x0507),
           (decide (p.saves.length ≤ i) || decide (e.getD 5 0 ≠ k.bytes), badState x 0x0504),
           (rel && decide (i + 1 ≠ p.saves.length), badState x 0x0505) ]
  let (t, mode, fmt, units, off) := (e.getD 0 0, e.getD 1 0, e.getD 2 0, e.getD 3 0, e.getD 4 0)
  let base := (p.regions.getD t (0, 0)).1 + off
  judgeDst w k.opnd.sp k.d0 ((List.range k.d1).map (fun r => k.opnd.addr + r * k.str))
  let nb := cdiv k.bytes 4096
  let dir ← rdVa w base (dirBytes nb)
  let out ← loadBlocks w mode fmt k.bytes ((List.range nb).map (fun b => leNat ((dir.drop (4 * b)).take 4))) 0 (base + dirBytes nb)
  let bs := (out.map (·.1)).flatten
  (List.range k.d1).forM (fun r => wrSp w k.opnd.sp (k.opnd.addr + r * k.str) ((bs.drop (r * k.d0)).take k.d0))
  if rel then modCtxA c (fun x =>
    let p := x.pool k.pool
    x.setPool k.pool { p with tops := p.tops.set t (p.tops.getD t 0 - units), saves := p.saves.take i })
  else pure ()
  okResult (nfResult (out.foldl (fun f o => f ||| o.2) 0))

def execActLoad (d : DescRef) (s : State) : Host.Outcome State Fault Refusal := .next (issue 0x503 d (unitActLoad d.ctx) s)

/-! ### MEM_ADD (R226, R227) -/

def Desc.adduse (d : Desc) : PlanUse :=
  ⟨fld (d.word 3) 14 12, fld (d.word 3) 26 2 == 1, 2, [fld (d.word 4) 0 32, fld (d.word 4) 32 32]⟩

def Desc.addSrc (d : Desc) : SpOpnd := ⟨fld (d.word 3) 0 2, (d.word 1).toNat, 3, 0, 1⟩

/-- Check 9, in order, then the reserved fields. -/
def addChecks (x : Ctx) (d : Desc) (dims : Option (List Nat)) : List (Bool × Stop) :=
  let sf := fld (d.word 3) 2 4
  let d0 := (dims.getD []).getD 0 0
  let d1 := (dims.getD []).getD 1 0
  [ d.addSrc.reserved, (decide (2 < sf), badDesc 3 2 9), (decide (1 < fld (d.word 3) 6 4), badDesc 3 6 9),
    (roundBad (fld (d.word 3) 10 3), badDesc 3 10 9), (decide (2 ≤ fld (d.word 3) 26 2), badDesc 3 26 9),
    (d.adduse.unnamed, badDesc 3 14 9), d.addSrc.bits, (decide ((d.word 2).toNat % 64 ≠ 0), badDesc 2 0 9),
    (decide (fld (d.word 5) 0 32 % 64 ≠ 0), badDesc 5 0 9), (decide (fld (d.word 5) 32 32 % 64 ≠ 0), badDesc 5 32 9),
    d.addSrc.excess x (if d0 = 0 ∨ d1 = 0 then 0 else (d1 - 1) * fld (d.word 5) 0 32 + d0 * codeBytes sf 1),
    rsv d 3 28 36 ] ++ rsvWords d [6, 7, 8, 9, 10, 13, 14]

/-- A row's destination cut at 64 B lines: virtual address, physical address, elements. -/
def addPieces : Nat → Nat → Nat → Nat → Nat → List (Nat × Nat × Nat)
  | 0, _, _, _, _ => []
  | f + 1, va, pa, n, eb =>
    if n = 0 then []
    else
      let k := min n ((64 - pa % 64) / eb)
      (va, pa, k) :: addPieces f (va + k * eb) (pa + k * eb) (n - k) eb

/-- The lines of a row: its pieces in page order, `e0` the row's elements before the piece. -/
def rowLines (eb row d0 : Nat) (vals : List Word) : List (Nat × Nat) → Nat → Nat → List AddLine
  | [], _, _ => []
  | (pa, n) :: r, va, e0 =>
    let ls := addPieces (n / eb + 1) va pa (n / eb) eb
    (ls.map (fun l =>
      let e := e0 + (l.1 - va) / eb
      ⟨l.1, l.2.1, row, row * d0 + e, (vals.drop e).take l.2.2⟩)) ++ rowLines eb row d0 vals r (va + n) (e0 + n / eb)

/-- A MEM_ADD running on a core's engine has a destination that overlaps the pieces (R219). -/
def State.addBusy (s : State) (c t q : Nat) (self : Desc) (ps : List (Nat × Nat)) : Bool :=
  (s.ctx c).descs.any (fun e => !e.is self.ring self.index && decide (e.st = .executing) &&
    match e.prog with
    | .memAdd t' q' _ _ _ _ dest => t' == t && q' == q && dest.any (fun a => ps.any (fun b => overlap a.1 a.2 b.1 b.2))
    | _ => false)

/-- Pieces of a range that translates for writing: physical addresses and bytes; a page that does not translate has none. -/
def State.reach (s : State) (w : Who) (va n : Nat) : List (Nat × Nat) :=
  (piecesOf va n).filterMap (fun p =>
    match s.xlate w.ctx (s.unitOf w) p.1 p.2 true with
    | .ok (pa, _) => some (pa, p.2)
    | .error _ => none)

/-- A destination off the stacks, or beneath a guard: 0x12 (R227). -/
def addDstBad (s : State) (x : Ctx) (ps : List (Nat × Nat)) : List (Bool × Stop) :=
  [ (ps.any (fun p => match s.backing p.1 with
      | .stack _ => false
      | _ => true), badState x 0x0506),
    (ps.any (fun p => s.guardedRange (s.home p.1) p.2), badState x 0x0508) ]

/-- Check 11 on the destination, as far as it translates (R49, R60, R227). -/
def judgeAdd (c : Nat) (d : Desc) (ds : List Nat) : Act Unit := do
  let s ← get
  if ds.contains 0 then pure ()
  else checks (addDstBad s (s.ctx c) ((List.range (ds.getD 1 0)).map (fun r =>
    s.reach (d.who c) ((d.word 2).toNat + r * fld (d.word 5) 32 32) (ds.getD 0 0 * codeBytes d.addForm.fmt 1))).flatten)

/-- With its run-time dimensions, a MEM_ADD translates and checks every page (R227), then starts, or waits while its destination overlaps that
of one running on its engine (R219). -/
def startAdd (c : Nat) (d : Desc) (ds : List Nat) : Act (Option Stop) := do
  let w := d.who c
  let (d0, d1) := (ds.getD 0 0, ds.getD 1 0)
  let sf := fld (d.word 3) 2 4
  let f := d.addForm
  let eb := codeBytes f.fmt 1
  let (sStr, dStr) := (fld (d.word 5) 0 32, fld (d.word 5) 32 32)
  (List.range d1).forM (fun r => do
    if d.addSrc.sp = 0 then let _ ← xlRange w (d.addSrc.addr + r * sStr) (d0 * codeBytes sf 1) false
    else pure ())
  let ps ← (List.range d1).mapM (fun r => xlRange w ((d.word 2).toNat + r * dStr) (d0 * eb) true)
  let s ← get
  let x := s.ctx c
  checks (addDstBad s x ps.flatten)
  let (t, q) := s.ringSeat c d.ring
  if s.addBusy c t q d ps.flatten then do
    modify (fun s => (s.setProg c d.ring d.index (.memWait ds)).modDesc c d.ring d.index (fun e => { e with st := .waiting, issued := false }))
    pure none
  else do
    let rows ← (List.range d1).mapM (fun r => do
      let bs ← rdSp w d.addSrc.sp (d.addSrc.addr + r * sStr) (d0 * codeBytes sf 1)
      let vals := (List.range d0).map (fun i => elemF32 sf (elemBits bs (codeBits sf) i))
      pure (rowLines eb r d0 vals (ps.getD r []) ((d.word 2).toNat + r * dStr) 0))
    modify (fun s => s.setProg c d.ring d.index (.memAdd t q rows.flatten d1 0 false ps.flatten))
    pure none

/-- A MEM_ADD that waited to start meets the phases set at its issue (R60, R219). -/
def unitMemAdd (c : Nat) (d : Desc) : Act (Option Stop) := do
  let x ← getCtx c
  match d.prog with
  | .memWait ds => do
    checks [phaseCheck x d.opcode]
    startAdd c d ds
  | _ => do
    checks (addChecks x d (x.judged d.adduse))
    checks (phaseCheck x d.opcode :: x.planCheck d.adduse)
    let taken ← takeDims some (d.who c) d.adduse
    judgeAdd c d (taken.map (·.1))
    match ← judgeDims some (d.who c) d.adduse taken with
    | none => noopResult 0
    | some ds => startAdd c d ds

def execMemAdd (d : DescRef) (s : State) : Host.Outcome State Fault Refusal := .next (issue 0x504 d (unitMemAdd d.ctx) s)

/-! ### PARAM_PREFETCH (R231) -/

def unitParamPrefetch (c : Nat) (d : Desc) : Act (Option Stop) := do
  let w := d.who c
  let off := fld (d.word 2) 0 26
  let n := fld (d.word 3) 0 32
  let ts := tilesOf (fld (d.word 2) 32 12)
  let x ← getCtx c
  checks ([(decide (n % 64 ≠ 0), badDesc 3 0 9), rsv d 2 26 6, rsv d 2 44 20, rsv d 3 32 32] ++ rsvWords d [4, 5, 6, 7])
  checks [phaseCheck x d.opcode]
  if n = 0 then noopResult 0
  else if ts.any (fun t => decide ((x.poolWindow t).2 < off + n)) then do
    faultAt w off true (.fault true 0 8)
    pure none
  else do
    let bs ← rdVa w (d.word 1).toNat n
    ts.forM (fun t => wrPool w t ((x.poolWindow t).1 + off) bs)
    okResult 0

def execParamPrefetch (d : DescRef) (s : State) : Host.Outcome State Fault Refusal :=
  .next (issue 0x505 d (unitParamPrefetch d.ctx) s)

/-! ### XLATE_INVAL and page walks (R209, R212) -/

def unitXlateInval (c : Nat) (d : Desc) : Act (Option Stop) := do
  let va := (d.word 1).toNat
  let n := (d.word 2).toNat
  checks ([(decide (va % kib64 ≠ 0), badDesc 1 0 9), (decide (n % kib64 ≠ 0), badDesc 2 0 9)] ++ rsvWords d [3, 4, 5, 6, 7])
  modCtxA c (fun x => { x with xl := x.xl.forget va n })
  okResult 0

def execXlateInval (d : DescRef) (s : State) : Host.Outcome State Fault Refusal :=
  .next (issue 0x506 d (unitXlateInval d.ctx) s)

/-- A walk for an executing descriptor ends: its translation is cached, or its fault ends the descriptor (R209 to R211). -/
def execPageWalkComplete (ref : DescRef) (va : DWord) (write : Bool) (s : State) : Host.Outcome State Fault Refusal :=
  .next (match s.desc ref with
    | none => s
    | some d =>
      if d.st ≠ .executing then s
      else
        match s.walk ref.ctx (s.unitOf (d.who ref.ctx)) va.toNat with
        | .ok (e, ps) => s.modCtx ref.ctx (fun x => { x with xl := x.xl.learn e ps })
        | .error f => State.settle ref.ctx ref.ring ref.index
            ((do faultAt (d.who ref.ctx) va.toNat write f; pure none : Act (Option Stop)) s))

end Sys2Proof.Machine
end

