-- ==== Sys2Proof/Machine/Permafrost.lean ====
section
/-! DEFINITION. Permafrost.lean: the commands of the Permafrost tier: responses, replay and retrains of the PMT interface, wear swaps, the Dew
scrub, and the checkpoint opcodes (R233 to R259). -/
namespace Sys2Proof.Machine

/-! ### Descriptors that wait for durability (R255, R256) -/

/-- What PMT_PERSIST and PMT_COMMIT do once nothing is awaited: they complete, or the record is written and awaited in its turn. -/
def State.persistGo (s : State) (c : Nat) (d : Desc) (record : Option (Nat × List Byte)) : State :=
  match record with
  | none => s.finish c d.ring d.index ⟨0, 0⟩
  | some (va, bs) =>
    match wrVa (d.who c) va bs s with
    | .ok _ s1 => s1.setProg c d.ring d.index (.persist [s.pmt.nextReq] none)
    | .error st s1 => s1.finish c d.ring d.index st

/-- A write is durable: those that awaited it await it no longer. -/
def State.frostDurable (s : State) (id : Nat) : State :=
  s.ctxs.foldl (fun s e => e.2.descs.foldl (fun s d =>
    match d.prog with
    | .persist ids rec_ =>
      if d.st = .executing ∧ ids.contains id then
        let left := ids.filter (· != id)
        if left.isEmpty then s.persistGo e.1 d rec_ else s.setProg e.1 d.ring d.index (.persist left rec_)
      else s
    | _ => s) s) s

/-- Those that awaited a write that failed end with its status. -/
def State.frostLost (s : State) (id : Nat) (st : Stop) : State :=
  s.ctxs.foldl (fun s e => e.2.descs.foldl (fun s d =>
    match d.prog with
    | .persist ids _ => if d.st = .executing ∧ ids.contains id then s.finish e.1 d.ring d.index st else s
    | _ => s) s) s

/-! ### A request ends -/

def State.dropReq (s : State) (n id : Nat) : State := s.modPdev n (fun d => { d with reqs := d.reqs.filter (fun r => r.id != id) })

/-- A line holds again what it held before a write, unreadable if it was (R243, R255). -/
def State.restoreLine (s : State) (n : Nat) (r : PmtReq) : State :=
  let s1 := s.poke (s.pmt.lineAddr n r.line) r.old
  match r.wasBad with
  | some c => s1.modPdev n (fun d => { d with bad := tput d.bad (d.lineOf r.line) c })
  | none => s1

/-- A write that does not take place leaves the line as it was, under the writes that follow it and under a later one that is durable
already (R243, R255). -/
def State.undoWrite (s : State) (n : Nat) (r : PmtReq) : State :=
  if r.outdone then s
  else
    match (s.pdev n).laterWrite r with
    | some q => s.modPdev n (fun d => d.modReq q.id (fun k => { k with old := r.old, wasBad := r.wasBad }))
    | none => s.restoreLine n r

/-- The descriptor that made a request ends with 0x32, unless it has a failure of its own or its record is written; where the page agent made
it, the readers of the page learn of it, and the page is recomputed instead if it can be (R195, R243). -/
def State.failOwner (s : State) (r : PmtReq) (st : Stop) : State :=
  if r.keep then s.pageFailed r.ctx r.index st.result
  else match (s.ctx r.ctx).findDesc r.ring r.index with
  | some d =>
    if r.keep = false ∧ d.issued = true ∧ (d.st = .executing ∨ d.status = 0 ∨ d.status = 1) then s.finish r.ctx r.ring r.index st else s
  | none => s

/-- The module error log's entry for a request that fails: attributed to its descriptor, which gets 0x32, or to none where the page agent made
it (R449, R458). -/
def State.logRequest (s : State) (n : Nat) (r : PmtReq) : State :=
  let mine := !r.keep && decide (r.ring < 64)
  s.errLog (if mine then 2 else 3) 14 n 0x1F (BitVec.ofNat 64 (s.pmt.lineAddr n r.line))
    (if mine then s.logWho ⟨r.ctx, r.ring, r.index, none, false⟩ 0x32 else LogWho.none)

/-- A request fails, with an entry of the module error log; a write that waited for a failed read fails with it and leaves its line unchanged
(R240, R243, R244). -/
def State.reqFail (s0 : State) (n : Nat) (r : PmtReq) (cause : Nat) : State :=
  let s := s0.logRequest n r
  let st := mediumUncorr n ((s.pdev n).lineOf r.line) r.tries cause
  let end_ (s : State) (q : PmtReq) : State :=
    let s1 := s.dropReq n q.id
    let s2 := if q.write then (s1.undoWrite n q).frostLost q.id st else s1
    s2.failOwner q st
  ((s.pdev n).reqs.filter (fun q => q.after_ == some r.id)).foldl end_ (end_ s r)

/-- The link is down for good: every request of the device fails with CAUSE 4 (R239, R244). -/
def State.frostFailed (s : State) (n : Nat) : State :=
  let s1 := s.modPdev n (fun d => { d with state := 4, sent := [] })
  (s.pdev n).reqs.foldl (fun s r => if (s.pdev n).reqs.any (fun q => q.id == r.id) then s.reqFail n r 4 else s) s1

/-- The link retrains; the fourth time within 2^30 cycles the device has failed (R239). -/
def State.frostRetrain (s : State) (n now : Nat) : State :=
  let s1 := s.modPdev n (fun d => ({ d with
    state := 1, sent := [], nakOut := false, retrainCnt := satInc d.retrainCnt
    retrains := now :: d.retrains.filter (fun t => decide (now < t + 2 ^ 30)) }.note n 7 0 0))
  if 4 ≤ (s1.pdev n).retrains.length then s1.frostFailed n else s1

/-- A violation of R240: 1 CRC failure or gap, 2 a bad response, 3 no response (log entry 18); 16 within 2^24 cycles retrain the link. -/
def State.frostViolation (s : State) (n code line now : Nat) : State :=
  let s1 := s.modPdev n (fun d => ({ d with
    proto := true, protoCnt := satInc d.protoCnt
    violTimes := now :: d.violTimes.filter (fun t => decide (now < t + 2 ^ 24)) }.note n 6 line code))
  if 16 ≤ (s1.pdev n).violTimes.length then (s1.modPdev n (fun d => { d with violTimes := [] })).frostRetrain n now else s1

/-! ### RDD and WRA (R243, R244) -/

def PmtDev.reqByTag (d : PmtDev) (write : Bool) (tag : Nat) : Option PmtReq :=
  d.reqs.find? (fun r => r.write == write && r.tag == some tag)

/-- A line is queued for a Dew rewrite. -/
def PmtDev.queueRewrite (d : PmtDev) (line : Nat) : PmtDev :=
  if d.rewriteQ.contains line then d else { d with rewriteQ := d.rewriteQ ++ [line] }

/-- The line was read: the request ends, and a write that waited for it goes on. -/
def State.readDone (s : State) (n : Nat) (r : PmtReq) : State :=
  let s1 := s.dropReq n r.id
  s1.modPdev n (fun d => { d with reqs := d.reqs.map (fun q => if q.after_ = some r.id then { q with after_ := none } else q) })

/-- A read response that decodes. DETAIL of the log's classes that R259 does not name: the attempt of class 2, the temperature of class 8, the level
of class 10, and 0 of classes 3, 5, 7, 11 and 12 (log entry 90). -/
def State.readGood (s : State) (n : Nat) (r : PmtReq) (bits : Nat) : State :=
  let line := (s.pdev n).lineOf r.line
  let s1 := s.modPdev n (fun d =>
    let d1 := if 0 < bits then { d with corrCnt := satInc d.corrCnt } else d
    let d2 := if 0 < r.tries then { d1 with retryCnt := satInc d1.retryCnt }.note n 2 line r.tries else d1
    if 14 ≤ bits ∨ 0 < r.tries then d2.queueRewrite line else d2)
  s1.readDone n r

/-- The stored contents of a line cannot be read: those beneath the first write that followed the read, where one is on its way (R243, R255). -/
def PmtDev.markBad (d : PmtDev) (r : PmtReq) (cause : Nat) : PmtDev :=
  match d.laterWrite r with
  | some q => d.modReq q.id (fun k => { k with wasBad := some cause })
  | none => { d with bad := tput d.bad (d.lineOf r.line) cause }

/-- A read response that fails: the next VSHIFT, or after five attempts the line is unreadable. -/
def State.readBad (s : State) (n : Nat) (r : PmtReq) (cause : Nat) : State :=
  let line := (s.pdev n).lineOf r.line
  if r.tries < 4 then
    let r1 := { r with tries := r.tries + 1 }
    (s.modPdev n (fun d => d.modReq r.id (fun _ => r1))).pmtIssue n r1
  else
    ((s.modPdev n (fun d => d.markBad r cause)).frostUncorr n line cause).reqFail n r cause

/-- A device of the tier that answers. -/
def State.frostTalks (s : State) (n : Nat) : Bool := decide (n < 8) && s.variant.full && decide ((s.pdev n).state = 2 ∨ (s.pdev n).state = 3)

/-- RDD: ACK, TAG, STATUS and what the decoder makes of the line. One for a free tag or with a reserved STATUS is PMT_BAD_PACKET's. A request that is
answered with STATUS 1 to 3 fails with CAUSE 4, as one of a failed device does (log entry 90). -/
def execRdd (n ack tag status : Nat) (sense : Sense) (s : State) : Host.Outcome State Fault Refusal :=
  .next (match (s.pdev n).reqByTag false tag with
    | none => s
    | some r =>
      if !s.frostTalks n ∨ 4 ≤ status then s
      else
        let s1 := s.tick.modPdev n (fun d => d.accept ack)
        let s2 := if status ≠ 0 then s1.reqFail n r 4
          else
            match sense.bits with
            | none => s1.readBad n r 1
            | some b => if 16 < b then s1.readBad n r 1 else if !sense.tag then s1.readBad n r 2 else s1.readGood n r b
        s2.pump n)

/-- The device has taken a write: earlier writes of the line no longer matter, and the write counts in its region (R245, R255). -/
def State.durableWrite (s : State) (n : Nat) (r : PmtReq) : State :=
  (s.dropReq n r.id).modPdev n (fun d =>
    let reqs := d.reqs.map (fun (q : PmtReq) => if q.write && q.line == r.line && decide (q.id < r.id) then { q with outdone := true } else q)
    { d with reqs := reqs }.wrote n (s.pdie n).psi.toNat (Config.copyFails s.free n) (s.pmtMute n) r)

/-- WRA: the line is durable, or its slot is spared and it is written again, or the write fails (R244, R250). -/
def execWra (n ack tag status : Nat) (s : State) : Host.Outcome State Fault Refusal :=
  .next (match (s.pdev n).reqByTag true tag with
    | none => s
    | some r =>
      if !s.frostTalks n ∨ 4 ≤ status then s
      else
        let s1 := s.tick.modPdev n (fun d => d.accept ack)
        let raw := r.slot (s1.pdev n)
        let s2 := if status = 0 then (s1.durableWrite n r).frostDurable r.id
          else if status = 1 then
            let s2 := s1.modPdev n (fun d =>
              ((d.wearAdd (r.target d / regionLines) 1).modReq r.id (fun q => { q with tag := none, sentTo := none })).spare n raw)
            if (s1.pdev n).spares < spareLines then s2 else s2.reqFail n r 5
          else
            (if status = 3 then s1.modPdev n (fun d => { d with state := 3, rdonly := true }) else s1).reqFail n r 4
        (s2.pump n).frostLevel n)

/-! ### Mode registers and events (R238, R252) -/

/-- The device's temperature: above 85 °C, at 95 °C, or at 85 °C or below again. -/
def State.frostHeat (s : State) (n : Nat) (hot very : Bool) : State :=
  (s.modPdev n (fun d =>
    let d1 := { d with hot := hot, veryHot := very }
    if hot && !d.hot then { d1 with therm := true, thermCnt := satInc d.thermCnt }.note n 8 0 d.temp.toNat else d1)).frostLevel n

/-- MRD: register number and value. -/
def execMrd (n ack reg value : Nat) (s : State) : Host.Outcome State Fault Refusal :=
  .next (if !s.frostTalks n then s
    else
      let s1 := s.modPdev n (fun d => d.accept ack)
      match reg with
      | 0x00 => s1.modPdev n (fun d => { d with id := BitVec.ofNat 24 value })
      | 0x01 =>
        (s1.modPdev n (fun d => { d with temp := BitVec.ofNat 8 value, dewHot := if d.dew then max d.dewHot value else d.dewHot })).frostHeat
          n (decide (85 < value)) (decide (95 ≤ value) || (decide (85 < value) && (s.pdev n).veryHot))
      | 0x02 => s1.modPdev n (fun d => { d with factoryMap := BitVec.ofNat 24 value })
      | 0x10 => s1.modPdev n (fun d => { d with
          rdonly := value.testBit 0, state := if d.state = 2 ∨ d.state = 3 then (if value.testBit 0 then 3 else 2) else d.state })
      | _ => s1)

/-- EVT: 1 above 85 °C, 2 at 95 °C, 3 hold-up complete, 4 below 85 °C. -/
def execEvt (n ack code : Nat) (s : State) : Host.Outcome State Fault Refusal :=
  .next (if !s.frostTalks n then s
    else
      let s1 := s.modPdev n (fun d => { d.accept ack with alertN := !(d.heldUp || code == 3) })
      match code with
      | 1 => s1.frostHeat n true (s1.pdev n).veryHot
      | 2 => s1.frostHeat n true true
      | 3 => s1.modPdev n (fun d => { d with heldUp := true }.note n 11 0 0)
      | 4 => s1.frostHeat n false false
      | _ => s1)

/-! ### Replay (R239, R240) -/

/-- Packets are sent again, but no WR once none may leave (R257); the eighth resend of one retrains the link. -/
def State.frostResend (s : State) (n now : Nat) (pick : PmtSent → Bool) : State :=
  let which (p : PmtSent) : Bool := pick p && !(decide (p.code = 2) && s.pmtMute n)
  let ps := (s.pdev n).sent.filter which
  let s1 := s.modPdev n (fun d => { d with
    sent := d.sent.map (fun p => if which p then { p with resends := p.resends + 1 } else p) })
  let s2 := ps.foldl (fun s p => { s with outs := s.outs ++ [.pmt n (pmtPacket p.code p.args p.payload p.seq (s.pdev n).rxSeq)] }) s1
  let s3 := if ps.isEmpty then s2 else s2.modPdev n (fun d => d.note n 5 0 0)
  if (s3.pdev n).sent.any (fun p => decide (8 ≤ p.resends)) then s3.frostRetrain n now else s3

def execPmtNak (n ack now : Nat) (s : State) : Host.Outcome State Fault Refusal :=
  .next (if !s.frostTalks n then s else (s.modPdev n (fun d => d.accept ack)).frostResend n now (fun _ => true))

/-- A packet of SEQ is not acknowledged 1,024 cycles after it was sent. -/
def execPmtResendTimeout (n seq now : Nat) (s : State) : Host.Outcome State Fault Refusal :=
  .next (if !s.frostTalks n then s else s.frostResend n now (fun p => p.seq == seq))

/-- No RDD or WRA for a tag in 4,096 cycles. -/
def execPmtResponseTimeout (n : Nat) (write : Bool) (tag now : Nat) (s : State) : Host.Outcome State Fault Refusal :=
  .next (match (s.pdev n).reqByTag write tag with
    | none => s
    | some r =>
      if !s.frostTalks n then s
      else
        let r1 := { r with reissues := r.reissues + 1 }
        let s1 := if r.reissues < 3 then
            (s.modPdev n (fun d => d.modReq r.id (fun _ => r1))).pmtIssue n r1
          else (s.reqFail n r 3).pump n
        s1.frostViolation n 3 ((s.pdev n).lineOf r.line) now)

/-- An upstream packet with a bad CRC or a gap (kind 1), or a response with a free tag, a reserved code or status, or a wrong length (kind 2): it
came in order with a good CRC, so ACK follows it, and nothing of it acts (R237, R240; log entry 76). -/
def execPmtBadPacket (n kind now : Nat) (s : State) : Host.Outcome State Fault Refusal :=
  .next (if !s.frostTalks n then s
    else
      let s1 := if kind = 1 ∧ (s.pdev n).nakOut = false then
          (s.modPdev n (fun d => { d with nakOut := true })).pmtSend n 6 [] []
        else if kind = 1 then s
        else s.modPdev n (fun d => { d with rxSeq := (d.rxSeq + 1) % 4096, nakOut := false })
      s1.frostViolation n (if kind = 1 then 1 else 2) 0 now)

/-- The retrain ends: outstanding requests are sent again. A read-only device stays so. -/
def execPmtRetrainDone (n : Nat) (s : State) : Host.Outcome State Fault Refusal :=
  .next (if n < 8 ∧ s.variant.full = true ∧ (s.pdev n).state = 1 then
      let s1 := s.modPdev n (fun d => { d with state := if d.rdonly then 3 else 2, sent := [] })
      ((s1.pdev n).reqs.foldl (fun s r => if r.tag.isSome then s.pmtIssue n r else s) s1).pump n
    else s)

/-! ### Wear swaps (R246) -/

/-- The first number with the lowest value. -/
def leastBy (f : Nat → Nat) : List Nat → Option Nat
  | [] => none
  | x :: r =>
    match leastBy f r with
    | some y => if f y < f x then some y else some x
    | none => some x

/-- The physical regions that hold user regions. -/
def PmtDev.userPhys (d : PmtDev) : List Nat := ((List.range spareFirst).map d.phys).mergeSort

/-- The logical region with the most user writes since the last evaluation, and the physical region with the lowest wear. -/
def PmtDev.swapPair (d : PmtDev) : Option (Nat × Nat) :=
  let h := leastBy (fun l => 2 ^ 64 - (d.region l).writes) (List.range spareFirst)
  let c := leastBy d.wearOf d.userPhys
  match h, c.bind d.holder, c with
  | some h, some l, some c => if h ≠ l ∧ d.wearOf c ≤ d.wearOf (d.phys h) then some (h, l) else none
  | _, _, _ => none

/-- A device's evaluation, due after 2^24 line writes: it may start a swap. -/
def execWearSwapEval (n : Nat) (s : State) : Host.Outcome State Fault Refusal :=
  let d := s.pdev n
  .next (if !s.frostTalks n ∨ d.taken < 2 ^ 24 then s
    else
      let delta := (s.pdie n).swapDelta.toNat * 1024
      let start := d.swapPair.filter (fun w => decide (d.wearOf (d.phys w.2) + delta ≤ d.wearOf (d.phys w.1)))
      s.modPdev n (fun d => { d with
        taken := d.taken - 2 ^ 24, swap := if d.swap.isSome then d.swap else start, swapPtr := if d.swap.isSome then d.swapPtr else 0
        regions := d.regions.map (fun e => (e.1, { e.2 with writes := 0 })) }))

/-- The exchange ends: the last slots are copied, the map changes, and retirements that waited take place (R246, R247); not while no write goes to
the device (R257). -/
def execWearSwapComplete (n : Nat) (s : State) : Host.Outcome State Fault Refusal :=
  .next (match (s.pdev n).swap with
    | none => s
    | some (h, l) =>
      if s.pmtMute n then s
      else (s.tick.modPdev n (fun d =>
        let d1 := d.advanceSwap n (Config.copyFails s.free n) regionLines
        { d1 with map := tput (tput d1.map h (d.phys l)) l (d.phys h), swap := none, swapPtr := 0 }.retireAll n (Config.copyFails s.free n))).frostLevel n)

/-! ### Dew (R248 to R250) -/

/-- Hours of a pass at the highest temperature seen (R248). -/
def dewHours (temp : Nat) : Nat := if temp ≤ 55 then 168 else if temp ≤ 70 then 72 else if temp ≤ 85 then 18 else 6

/-- The slot of a canary line. -/
def canarySlot (r : Nat) : Bool := decide (r / regionLines = canaryRegion) && decide (r % regionLines < 4096)

/-- The 4,096 canary lines are written with their pattern (R249). -/
def PmtDev.writeCanaries (d : PmtDev) (n : Nat) (fails : Nat → Bool) : PmtDev :=
  (List.range 4096).foldl (fun d i => d.copyTo n fails (canaryRegion * regionLines + i)) { d with bad := d.bad.filter (fun e => !canarySlot (d.origin e.1)) }

/-- A pass starts; the canary lines are written: not while no write goes to the device (R257). -/
def execDewPassStart (n : Nat) (s : State) : Host.Outcome State Fault Refusal :=
  .next (if !s.frostTalks n ∨ (s.pdev n).dew = true ∨ s.pmtMute n = true then s
    else (s.tick.modPdev n (fun d => { d with
      dew := true, dewNext := 0, dewHot := d.temp.toNat, retryLast := d.retryNow, retryNow := [] }.writeCanaries n (Config.copyFails s.free n))).frostLevel n)

/-- A line is rewritten with its corrected data, unless its region is being swapped (R247); while no write goes to the device it stays queued
(R257). -/
def State.dewRewrite (s : State) (n line : Nat) : State :=
  let d := s.pdev n
  let region := d.origin line / regionLines
  let fails := Config.copyFails s.free n
  if d.swap.any (fun w => d.phys w.1 == region || d.phys w.2 == region) then s
  else if s.pmtMute n then s.modPdev n (fun d => d.queueRewrite line)
  else (s.modPdev n (fun d => (d.copyTo n fails (d.origin line)).retireIfDue n fails region)).modPdie n (fun e => { e with rewrites := e.rewrites + 1 })

/-- A sensed line that decodes, with its corrected bits. -/
def senseGood (x : Sense) : Option Nat := x.bits.bind (fun b => if b ≤ 16 ∧ x.tag then some b else none)

/-- What Dew makes of a line: attempts as sensed, the first and up to four retries. LOCATION of the module log's entry for one that cannot be read
is 0 where no user line lies there (log entry 92). -/
def State.dewLine (s : State) (n line : Nat) (tries : List Sense) : State :=
  let d := s.pdev n
  let e := s.pdie n
  let k := (tries.take 5).findIdx (fun t => (senseGood t).isSome)
  match (if d.bad.any (fun b => b.1 == line) then none else (tries.take 5)[k]?) with
  | none =>
    let cause := if ((tries.getLast?).map (fun t => t.bits.isSome)).getD false then 2 else 1
    ((s.modPdev n (fun d => if d.bad.any (fun b => b.1 == line) then d else { d with bad := tput d.bad line cause })).frostUncorr n line cause).errLog
      3 14 n 0x1F (((d.userLine line).map (fun ul => BitVec.ofNat 64 (s.pmt.lineAddr n ul))).getD 0) LogWho.none
  | some t =>
    let bits := (senseGood t).getD 0
    let s1 := s.modPdev n (fun d =>
      let d1 := if 0 < bits then { d with corrCnt := satInc d.corrCnt } else d
      if 0 < k then
        let d2 := { d1 with retryCnt := satInc d1.retryCnt, retryNow := d1.retryNow ++ [line] }.note n 2 line k
        if d2.retryLast.contains line then d2.spare n (d2.origin line) else d2
      else d1)
    if e.dewBits.toNat ≤ bits ∨ e.dewMargin.toNat ≤ t.margin ∨ 0 < k then s1.dewRewrite n ((s1.pdev n).remapped (d.origin line)) else s1

/-- Dew, in a pass or an urgent pass, serves the rewrites that are queued and reads its next line; past the last line the pass ends. -/
def execDewLineRead (n : Nat) (tries : List Sense) (s : State) : Host.Outcome State Fault Refusal :=
  .next (if !s.frostTalks n ∨ ((s.pdev n).dew = false ∧ (s.pdev n).urgent = false) ∨ tries.isEmpty then s
    else
      let queued := (s.pdev n).rewriteQ
      let s1 := queued.foldl (fun s l => s.dewRewrite n l) (s.tick.modPdev n (fun d => { d with rewriteQ := [] }))
      let s2 := s1.dewLine n (s1.pdev n).dewNext tries
      let s3 := if (s2.pdev n).dewNext + 1 = 2 ^ 33 then
          (s2.modPdev n (fun d => { d with dew := false, dewNext := 0 })).modPdie n (fun e =>
            { e with passCnt := if (s.pdev n).dew then satInc e.passCnt else e.passCnt })
        else s2.modPdev n (fun d => { d with dewNext := d.dewNext + 1 })
      s3.frostLevel n)

/-- The urgent pass of a device ends. -/
def execUrgentDewEnd (n : Nat) (s : State) : Host.Outcome State Fault Refusal :=
  .next (s.modPdev n (fun d => { d with urgent := false }))

/-! ### PMT_CKPT_SET, PMT_PERSIST, PMT_COMMIT (R256) -/

/-- A range in context memory lies wholly on the tier: its pieces. -/
def frostRange (w : Who) (va n : Nat) (write : Bool) : Act (List (Nat × Nat)) := do
  let ps ← xlRange w va n write
  let s ← get
  let x ← getCtx w.ctx
  require (ps.all (fun p => s.backing p.1 == .pmt && (p.2 == 0 || s.backing (p.1 + p.2 - 1) == .pmt))) (badState x 0x0510)
  pure ps

def unitPmtCkptSet (c : Nat) (d : Desc) : Act (Option Stop) := do
  let va := (d.word 1).toNat
  let n := (d.word 2).toNat
  let k := fld (d.word 3) 0 2
  checks ([ (decide (va % kib64 ≠ 0), badDesc 1 0 9), (decide (n % kib64 ≠ 0), badDesc 2 0 9), rsv d 3 2 62 ] ++ rsvWords d [4, 5, 6, 7])
  let x ← getCtx c
  let overlap := x.ckpts.any (fun e => e.1 != k && decide (va < e.2.1 + e.2.2) && decide (e.2.1 < va + n))
  checks [ (x.frozen, badState x 0x0511), (decide (0 < n) && overlap, badState x 0x0513) ]
  if n = 0 then modCtxA c (fun x => { x with ckpts := tdel x.ckpts k })
  else do
    let _ ← frostRange (d.who c) va n true
    modCtxA c (fun x => { x with ckpts := tput x.ckpts k (va, n) })
  okResult 0

/-- The writes that a persist awaits: of the context's descriptors that have completed, in a list of pieces, or anywhere. -/
def State.frostPending (s : State) (c : Nat) (ps : Option (List (Nat × Nat))) : List Nat :=
  ((List.range 8).map (fun n => ((s.pdev n).reqs.filter (fun r =>
    let a := s.pmt.lineAddr n r.line
    r.write && r.ctx == c && decide (r.ring < 64) && ((s.ctx c).findDesc r.ring r.index).isNone
      && (match ps with
          | none => true
          | some l => l.any (fun p => decide (a < p.1 + p.2) && decide (p.1 < a + 256))))).map (·.id))).flatten

/-- The descriptor waits for writes, or goes on at once. -/
def persistWait (c : Nat) (d : Desc) (ids : List Nat) (record : Option (Nat × List Byte)) : Act (Option Stop) := do
  if ids.isEmpty then do
    modify (fun s => s.persistGo c d record)
    pure none
  else do
    modify (fun s => s.setProg c d.ring d.index (.persist ids record))
    pure none

def unitPmtPersist (c : Nat) (d : Desc) : Act (Option Stop) := do
  let n := (d.word 2).toNat
  checks (rsvWords d [3, 4, 5, 6, 7])
  let ps ← if n = 0 then pure none else do let l ← frostRange (d.who c) (d.word 1).toNat n false; pure (some l)
  let s ← get
  persistWait c d (s.frostPending c ps) none

def unitPmtCommit (c : Nat) (d : Desc) : Act (Option Stop) := do
  let src := (d.word 1).toNat
  let dst := (d.word 2).toNat
  checks ([ (decide (src % 64 ≠ 0), badDesc 1 0 9), (decide (dst % 256 ≠ 0), badDesc 2 0 9) ] ++ rsvWords d [3, 4, 5, 6, 7])
  let x ← getCtx c
  match x.ckpts.find? (fun e => decide (e.2.1 ≤ dst) && decide (dst + 256 ≤ e.2.1 + e.2.2)) with
  | none => throw (badState x 0x0512)
  | some e => do
    let bs ← rdVa (d.who c) src 256
    let ps ← frostRange (d.who c) e.2.1 e.2.2 true
    let s ← get
    persistWait c d (s.frostPending c (some ps)) (some (dst, bs))

def execPmtCkptSet (d : DescRef) (s : State) : Host.Outcome State Fault Refusal := .next (issue 0x510 d (unitPmtCkptSet d.ctx) s)
def execPmtPersist (d : DescRef) (s : State) : Host.Outcome State Fault Refusal := .next (issue 0x511 d (unitPmtPersist d.ctx) s)
def execPmtCommit (d : DescRef) (s : State) : Host.Outcome State Fault Refusal := .next (issue 0x512 d (unitPmtCommit d.ctx) s)

/-! ### Power loss (R255, R257) -/

/-- What a line that has writes not yet durable holds after power loss: its last durable contents, or those of one of the writes (log entry 19). -/
def State.settleLine (s : State) (n line : Nat) : State :=
  let ws := (s.pdev n).reqs.filter (fun r => r.write && r.line == line && !r.outdone)
  match ws[Config.frostKept s.free n line % (ws.length + 1)]? with
  | some r => s.restoreLine n r
  | none => s

/-- Every write that is not durable is settled, and requests are forgotten. -/
def State.settleFrost (s : State) : State :=
  (List.range 8).foldl (fun s n =>
    let lines := (((s.pdev n).reqs.filter (·.write)).map (·.line)).eraseDups
    (lines.foldl (fun s l => s.settleLine n l) s).modPdev n (fun d => { d with reqs := [], sent := [] })) s.tick

end Sys2Proof.Machine
end

