-- ==== Sys2Proof/Machine/Reset.lean ====
section
/-! DEFINITION. Reset.lean: cold and module resets (R465): what they keep, and the ways in which the input goes (R392, R393, R410). -/
namespace Sys2Proof.Machine

/-- What a Permafrost device holds without power: its medium, the swap that its journal records, and its identity (R245, R250, R251, R257, R465). -/
def PmtDev.unpowered (d : PmtDev) : PmtDev :=
  { PmtDev.reset with
    map := d.map, regions := d.regions, wear := d.wear, remap := d.remap, spares := d.spares, reserves := d.reserves
    exhausted := d.exhausted, retired := d.retired, bad := d.bad, written := d.written, swap := d.swap, swapPtr := d.swapPtr
    id := d.id, factoryMap := d.factoryMap }

/-- OTP and flash (R432, R465). -/
def Bluone.unpowered (b : Bluone) : Bluone :=
  { Bluone.reset with
    variant := b.variant, serial := b.serial, secret := b.secret, rootHash := b.rootHash, factoryOk := b.factoryOk, otp := b.otp
    slotA := b.slotA, slotB := b.slotB, cfgA := b.cfgA, cfgB := b.cfgB, tokens := b.tokens, tokenCodes := b.tokenCodes
    certs := b.certs, badSlots := b.badSlots, suspects := b.suspects }

/-- A port with every register and buffer at reset; its cable stays plugged. -/
def Port.unpowered (k : Port) : Port := { Port.reset with cable := k.cable }

/-- A cold or module reset (R465): every register at its reset value, PWR_CFG.CAP_W at DESIGN_W; OTP, flash, durable Permafrost lines and what
lies outside the module are kept. `switch` and `good` say how the input stands. -/
def State.reboot (s0 : State) (switch good : Bool) : State :=
  let s := s0.settleFrost
  { State.reset with
    pending := s.pending, free := s.free, outs := s.outs
    mem := s.mem.filter (fun c => decide (pmtBase ≤ c.1))
    blu := s.blu.unpowered
    pins := { Pins.reset with inPrsnt := s.pins.inPrsnt, switch := switch, inputGood := good, mgtAddr := s.pins.mgtAddr }
    attaches := s.attaches.map (fun e => (e.1, { Attach.reset with perst := e.2.perst }))
    lnk := { Links.reset with ports := s.lnk.ports.map (fun e => (e.1, e.2.unpowered)) }
    pmt := { Pmt.reset with formatted := s.pmt.formatted, ilv := s.pmt.ilv, nextReq := s.pmt.nextReq
                            devs := s.pmt.devs.map (fun e => (e.1, e.2.unpowered)) }
    pwr := { Power.reset with capW := BitVec.ofNat 13 s.designW } }

/-- A module reset: the rails go off for 10 ms, and the module starts again from step 1 (R465). After a thermal trip the module stays off: only
the removal of its input ends the trip (R410). -/
def State.moduleReset (s : State) : State :=
  let u := s.reboot s.pins.switch s.pins.inputGood
  { u with pins := { u.pins with trip := s.pins.trip, pwrFail := s.pins.trip } }

/-- The input switch opens: the module is off until it powers up from the start (R392, R395); the input gone, a thermal trip is over. -/
def State.openSwitch (s : State) : State := s.reboot false false

/-- PHASE changes by a command that brings no time: STEP_MS takes a free one (R467, log entry 91). -/
def State.enterPhase (s : State) (p : Nat) : State :=
  { s.tick with boot := { s.boot with phase := BitVec.ofNat 4 p, stepMs := BitVec.ofNat 12 (min (Config.phaseMs s.free / 4) 4095) } }

/-! ### The power log (R415) -/

def State.modPwr (s : State) (f : Power → Power) : State := { s with pwr := f s.pwr }

/-- An entry of the power log. -/
def State.pwrLog (s : State) (cls tile field detail : Nat) : State :=
  s.modPwr (fun p => { p with log := p.log.add 32 (fun o =>
    [at_ cls 0 ||| at_ tile 4 ||| at_ field 8 ||| at_ (detail % 2 ^ 48) 16, at_ o.toNat 0]) })

/-! ### Power-fail (R393, R257, R476, R486) -/

/-- The power-fail warning: PWR_FAIL_N goes low, admission stops, the Permafrost devices get no further write, and one entry of class 7 is
logged; a warning that stands already is not given again. -/
def State.powerFail (s : State) : State :=
  if s.pins.pwrFail then s
  else
    ({ s with pins := { s.pins with pwrFail := true } }.modPmt (fun p => { p with pfail := true })).pwrLog 7 0xF 0 0

def execPowerFail (s : State) : Host.Outcome State Fault Refusal := .next (if s.pins.switch then s.powerFail else s)

/-- 5 ms after the warning, or at once below 36 V, the module enters reset; it comes up again once input good comes. After a thermal trip it
is the removal of the input. -/
def execPowerFailReset (s : State) : Host.Outcome State Fault Refusal :=
  .next (if s.pins.pwrFail ∨ s.pins.trip then s.reboot (s.pins.switch && s.pins.inPrsnt) false else s)

/-- Input above 62 V: the switch opens (R392). -/
def execOvervoltage (s : State) : Host.Outcome State Fault Refusal :=
  .next (if s.pins.switch ∧ ¬ s.pins.trip then s.openSwitch else s)

end Sys2Proof.Machine
end

