-- ==== Sys2Proof/Machine/Power.lean ====
section
/-! DEFINITION. Power.lean: the input governor and the tile power controllers (R394 to R415). Powers are in mW, voltages in mV, currents in 10 mA
units; what this file settles beside the rules is log entry 23. -/
namespace Sys2Proof.Machine

def State.ptile (s : State) (t : Nat) : PwrTile := tget PwrTile.reset s.pwr.tiles t

/-- Number of tiles fitted. -/
def State.nTiles (s : State) : Nat := s.variant.tiles

/-! ### Clocks and stretch (R398, R405, R407, R412) -/

/-- F_BASE of a Gust level in units of 10 MHz. -/
def gustFreq (l : Nat) : Nat := [140, 144, 147, 151, 155].getD l 140

/-- The clamp's level on a tile: none once its Gust choice has released it (R405). -/
def State.clampOn (s : State) (t : Nat) : Nat := if (s.ptile t).clampFree then 0 else s.pwr.clampLevel

/-- The level of the power-fail warning: the clocks are stretched until reset (R413); how far is a free value (log entry 77). -/
def State.failLevel (s : State) : Nat := if s.pins.pwrFail then 1 + Config.failStretch % 24 else 0

/-- STRETCH: the highest level asked for (R412). -/
def State.stretch (s : State) (t : Nat) : Nat :=
  let k := s.ptile t
  max (max (max k.cap k.therm) (max k.slew (s.clampOn t))) s.failLevel

/-- The supply voltage of a clock, µV: linear from 0.52 V at 0.35 GHz to 0.75 V at 1.40 GHz (R398); of a faster clock a free value. -/
def clockVolt (gust stretch : Nat) : Nat :=
  let f := gustFreq gust * (32 - stretch)
  if 140 * 32 < f then Config.gustVolt gust stretch else 520000 + (f - 35 * 32) * 230000 / (105 * 32)

/-- The voltage that a tile's clock needs. -/
def State.needVolt (s : State) (t : Nat) : Nat := clockVolt (s.ptile t).gust.toNat (s.stretch t)

/-- CLK_CORE is below 1.40 GHz because of the cap, the clamp or the thermal loop (R407). -/
def State.isThrottled (s : State) (t : Nat) : Bool :=
  let k := s.ptile t
  decide (gustFreq k.gust.toNat * (32 - max (max k.cap k.therm) (s.clampOn t)) < 140 * 32)

/-- A tile's controller changes; an entry into throttle is counted. -/
def State.modPt (s : State) (t : Nat) (f : PwrTile → PwrTile) : State :=
  s.modPwr (fun p => { p with tiles := tput p.tiles t (f (s.ptile t)) })

/-- The voltage of a tile as its loops have changed its clock (R398): for a rise the new clock's, raised first; after a fall still the old
clock's, which it leaves in the interval that follows. A compute Forecast in force holds it at full clock's (R403). -/
def State.settleVolt (old s : State) (t : Nat) : State :=
  let full := if s.pwr.forecasts.any (fun f => f.acts && f.kind == 0 && !f.missed && f.mask.testBit t) then
    clockVolt (s.ptile t).gust.toNat 0 else 0
  s.modPt t (fun k => { k with volt := max full (max (old.needVolt t) (s.needVolt t)) })

/-- Entries into throttle are counted. -/
def State.noteThrottle (s : State) : State :=
  (List.range s.nTiles).foldl (fun s t =>
    let now := s.isThrottled t
    let k := s.ptile t
    if now = k.throttled then s
    else s.modPt t (fun k => { k with throttled := now, throttleCnt := if now then satInc k.throttleCnt else k.throttleCnt })) s

/-! ### Samples, and the budget (R392, R394, R396, R399) -/

/-- What the monitors of the rails read, mW: the tiles; the host die, the I/O dies and Bluone; the Vexja PHYs; the memories. -/
def State.takeRails (s : State) (tiles : List Nat) : State :=
  (List.range s.nTiles).foldl (fun s t => s.modPt t (fun k => { k with sum := k.sum + tiles.getD t 0 })) s

/-- The input enters a region: its flag, its count and its log entry. -/
def State.enterRegion (s : State) (r : Nat) : State :=
  let s1 := s.modPwr (fun p => { p with region := r })
  if r = s.pwr.region then s
  else if r = 1 then
    (s1.modPwr (fun p => { p with lowIn := true, lowCnt := satInc p.lowCnt })).pwrLog 5 0xF 0 s.pwr.iIn.toNat
  else if r = 2 then
    (s1.modPwr (fun p => { p with highIn := true, highCnt := satInc p.highCnt })).pwrLog 6 0xF 0 s.pwr.iIn.toNat
  else s1

/-- One sample of the input and of the rails (R394). Conversion loss is the input power less the rails'. -/
def execInputSample (mv ca : Nat) (tiles : List Nat) (base links memory : Nat) (s : State) : Host.Outcome State Fault Refusal :=
  let p := mv * ca * 10 / 1000
  let rails := ((List.range s.nTiles).map (fun t => tiles.getD t 0)).sum + base + links + memory
  let e := s.pwr.rest + p * 256
  .next ((((s.modPwr (fun k => { k with
    vIn := BitVec.ofNat 16 (min mv 65535), iIn := BitVec.ofNat 16 (min ca 65535)
    energy := k.energy + BitVec.ofNat 64 (e / 1800000000), rest := e % 1800000000
    samples := k.samples + 1, vSum := k.vSum + mv, pSum := k.pSum + p, baseSum := k.baseSum + base + (p - rails)
    linkSum := k.linkSum + links, memSum := k.memSum + memory })).takeRails tiles).enterRegion
      (if 40000 ≤ mv ∧ mv < 44000 then 1 else if 58000 < mv ∧ mv ≤ 62000 then 2 else 0)))

/-- Design power of the memories and of the links, mW (R394). -/
def State.memDesign (s : State) : Nat := s.nStacks * 28000 + 288000 + (if s.variant.full then 96000 else 0)
def State.linkDesign (s : State) : Nat := s.variant.ports * 9200

/-- The greatest LEVEL of the Forecasts of a kind in force, as a power (R403). -/
def State.forecastFloor (s : State) (kind design : Nat) : Nat :=
  ((s.pwr.forecasts.filter (fun f => f.acts && f.kind == kind)).map (fun f => design * f.level / 100)).foldl max 0

/-- A tile's demand: the estimate, and at least what a compute Forecast in force says. -/
def State.demand (s : State) (t estimate : Nat) : Nat :=
  ((s.pwr.forecasts.filter (fun f => f.acts && f.kind == 0 && !f.missed && f.mask.testBit t)).map (fun f => 190000 * f.level / 100)).foldl
    max estimate

/-- Intervals of 10 µs in CAP_WIN. -/
def Power.window (p : Power) : Nat := p.capWin.toNat * 10

/-- The interval ends (R396): the means of its samples are what was measured; the budget is divided into the grants of the next interval,
less the excess of the window before (R399). `estimates` are the tiles' unthrottled powers by their activity counters. -/
def execBudgetRecompute (estimates : List Nat) (s : State) : Host.Outcome State Fault Refusal :=
  let k := s.pwr
  let mean (x : Nat) : Nat := if k.samples = 0 then 0 else x / k.samples
  let volts := if k.samples = 0 then k.vIn.toNat else mean k.vSum
  let history := if k.samples = 0 then k.history else (mean k.pSum :: k.history).take 1000
  let win := history.take k.window
  let avg := if win.isEmpty then 0 else win.sum / win.length
  let budget := min (min (k.capW.toNat * 1000) (s.ceilW * 1000)) (s.iClamp * volts)
  let links := max (mean k.linkSum) (s.forecastFloor 2 s.linkDesign)
  let memory := max (mean k.memSum) (s.forecastFloor 1 s.memDesign)
  let rem := budget - (mean k.baseSum + links + memory) - (avg - k.capW.toNat * 1000)
  let tiles := List.range s.nTiles
  let d (t : Nat) : Nat := s.demand t (estimates.getD t 0)
  let total := (tiles.map d).sum
  let g (t : Nat) : Nat := if total = 0 then 0 else min (d t) (rem * d t / total)
  let held := tiles.any (fun t => decide (g t < d t))
  let s1 := tiles.foldl (fun s t => s.modPt t (fun q => { q with power := mean q.sum, sum := 0, next := g t })) s
  let clampDue := decide (0 < k.clampLevel) && !k.clampSeen
  .next (s1.modPwr (fun p => { p with
    samples := 0, vSum := 0, pSum := 0, baseSum := 0, linkSum := 0, memSum := 0, history := history
    pAvg := BitVec.ofNat 13 (min (avg / 1000) 8191), cap := p.cap || held, capCnt := if held then satInc p.capCnt else p.capCnt
    clampCnt := if clampDue then satInc p.clampCnt else p.clampCnt, clampSeen := false }))

/-! ### The waits that a tile's filler covers (R401) -/

/-- Work executes on a seat: a work tile, or a descriptor that does not merely wait at a front or a tally. -/
def State.seatWorks (s : State) (c : Nat) (q : Nat × Nat) : Bool :=
  let x := s.ctx c
  (x.seat q.1 q.2).work.isSome
    || x.descs.any (fun d => decide (d.st = .executing) && !d.prog.holdsRing && decide (s.ringSeat c d.ring = q))

/-- A descriptor waits at a front or a tally on a seat of tile t, and no work executes on that seat: new work stops the filler. -/
def State.fillsOn (s : State) (t c : Nat) (d : Desc) : Bool :=
  let q := s.ringSeat c d.ring
  decide (d.st = .executing) && d.prog.holdsRing && decide (q.1 = t) && !s.seatWorks c q

/-- The rings of a seat. -/
def State.seatRings (s : State) (c : Nat) (q : Nat × Nat) : List Nat := (List.range 64).filter (fun k => decide (s.ringSeat c k = q))

/-- A core is idle after running: its context is placed, nothing executes on it, and the ring has completed a descriptor; the last one names
the time since when (R401, log entry 77). -/
def State.idleSince (s : State) (c k : Nat) : Option (Nat × Nat × Word) :=
  let x := s.ctx c
  let q := s.ringSeat c k
  if x.sched.placed && (x.ring k).enable && (x.ring k).sqHead != 0 && !s.seatWorks c q
      && !x.descs.any (fun d => decide (d.st = .executing) && decide (s.ringSeat c d.ring = q)) then
    some (c, k, (x.ring k).sqHead - 1)
  else none

/-- The waits on a tile, and its cores' idle times: context, ring, index. -/
def State.tileWaits (s : State) (t : Nat) : List (Nat × Nat × Word) :=
  (s.ctxs.map (fun e => (e.2.descs.filter (s.fillsOn t e.1)).map (fun d => (e.1, d.ring, d.index))
    ++ ((List.range 64).filter (fun k => decide ((s.ringSeat e.1 k).1 = t))).filterMap (s.idleSince e.1))).flatten

/-- What DRIZZLE_HOLD ends with one of them: the wait, or of an idle core the times of all its rings. -/
def State.sameHold (s : State) (w : Nat × Nat × Word) : List (Nat × Nat × Word) :=
  if s.idleSince w.1 w.2.1 = some w then (s.seatRings w.1 (s.ringSeat w.1 w.2.1)).filterMap (s.idleSince w.1) else [w]

/-- The filler of a tile tapers, or is cut. -/
def State.taper (s : State) (t : Nat) : State :=
  s.modPwr (fun p => { p with tapered := (p.tapered.filter (fun w => !(s.tileWaits t).contains w)) ++ s.tileWaits t })

/-- The tile ramps toward a compute Forecast's LEVEL with filler: its draw is below LEVEL, and below the grant, to which the demand of a
Forecast is clipped (R403, R413). -/
def State.ramps (s : State) (t : Nat) : Bool :=
  let k := s.ptile t
  s.pwr.forecasts.any (fun f => f.acts && f.kind == 0 && !f.missed && f.mask.testBit t && decide (k.power < min (1900 * f.level) k.grant))

/-- A quiet Forecast in force names the tile: its waits taper without a hold (R403). -/
def State.quiet (s : State) (t : Nat) : Bool := s.pwr.forecasts.any (fun f => f.acts && f.kind == 3 && f.mask.testBit t)

/-- PWR_TILE_STAT.DRIZZLE: the filler runs on some core of the tile, whole or while it tapers at the slew share (R400, R401). -/
def State.drizzles (s : State) (t : Nat) : Bool :=
  s.pwr.drizzleEn && decide (s.clampOn t = 0) && decide ((s.ptile t).therm = 0)
    && ((s.tileWaits t).any (fun w => decide (0 < (s.ptile t).shed) || (!s.quiet t && !s.pwr.tapered.contains w)) || s.ramps t)

/-! ### Intervals of a tile (R399, R407) -/

/-- The lowest level whose power fits the grant; 24 where none is known to. -/
def fitLevel (powers : List Nat) (grant : Nat) : Nat :=
  ((List.range 25).find? (fun l => match powers[l]? with | some p => decide (p ≤ grant) | none => false)).getD 24

/-- SLOW follows the tiles' runs (R407). -/
def State.noteSlow (s : State) : State :=
  let ts := List.range s.nTiles
  if ts.any (fun t => decide (4 ≤ (s.ptile t).hotRun)) then { s with lnk := { s.lnk with slow := true } }
  else if ts.all (fun t => decide (16 ≤ (s.ptile t).coolRun)) then { s with lnk := { s.lnk with slow := false } }
  else s

/-- A tile's next 10 µs interval begins: its grant takes effect, and it takes the lowest stretch level whose power, as it was last measured
with similar activity (`powers` by level), fits. A grant below the tile's draw cuts the filler first, a Forecast's too, since it is clipped to
the new grant (`State.ramps`), and STRETCH rises only once the filler has tapered (R401, R413). -/
def execTilePowerInterval (t : Nat) (powers : List Nat) (s : State) : Host.Outcome State Fault Refusal :=
  if s.nTiles ≤ t then .next s
  else
    let was := s.isThrottled t
    let cut := decide ((s.ptile t).next < (s.ptile t).power)
    let filler := s.drizzles t && cut
    let s1 := s.modPt t (fun k => { k with
      hotRun := if was then k.hotRun + 1 else 0, coolRun := if was then 0 else k.coolRun + 1
      grant := k.next, cap := if filler then min k.cap (fitLevel powers k.next) else fitLevel powers k.next })
    let s2 := s.settleVolt (if cut then s1.taper t else s1) t
    .next s2.noteSlow.noteThrottle

/-! ### The clamp (R395) -/

/-- Input current above I_CLAMP: every tile to level 24. -/
def execClamp (ca : Nat) (s : State) : Host.Outcome State Fault Refusal :=
  .next (if s.iClamp * 100 < ca then
      ((s.modPwr (fun p => { p with
        clampLevel := 24, clamp := true, clampCnt := satInc p.clampCnt, clampSeen := true
        tiles := p.tiles.map (fun e => (e.1, { e.2 with clampFree := false })) })).pwrLog 1 0xF 0 ca).noteThrottle
    else s)

/-- 100 µs after the clamp acted, and every 10 µs from then on: one level is released while the current stays below I_CLAMP. -/
def execClampHoldExpiry (ca : Nat) (s : State) : Host.Outcome State Fault Refusal :=
  .next (if ca < s.iClamp * 100 then (s.modPwr (fun p => { p with clampLevel := p.clampLevel - 1 })).noteThrottle else s)

/-- The current stayed above 1.1 × I_CLAMP for 50 µs with every tile at level 24: the input switch opens. -/
def execClampCutoff (ca : Nat) (s : State) : Host.Outcome State Fault Refusal :=
  .next (if s.pwr.clampLevel = 24 ∧ s.iClamp * 110 < ca then s.openSwitch else s)

/-! ### Slew and Drizzle (R400, R401) -/

/-- An equal share of an allowance among needs, what one leaves passing to the others: the greatest share that the allowance covers. -/
def fairShare : Nat → List Nat → Nat → Nat
  | 0, _, _ => 0
  | fuel + 1, needs, allowance =>
    if needs.isEmpty then allowance
    else
      let share := allowance / needs.length
      let small := needs.filter (fun n => decide (n ≤ share))
      if small.isEmpty then share
      else fairShare fuel (needs.filter (fun n => decide (share < n))) (allowance - small.sum)

/-- A 1 µs window: the changes of power that the tiles need, mW (a rise is positive). A tile whose rise exceeds its share goes to stretch
level 24 before its wakes are granted, and stays where it is while its share does not allow more; every other lowers its slew stretch by one
level, its voltage first. A tile falls by its share at most: what is left it sheds in the windows that follow. -/
def execSlewWindow (needs : List Int) (s : State) : Host.Outcome State Fault Refusal :=
  let allowance := s.pwr.slewLim.toNat * s.pwr.vIn.toNat / 10
  let ts := List.range s.nTiles
  let size (t : Nat) : Nat := (needs.getD t 0).natAbs
  let share := fairShare 13 ((ts.map size).filter (fun n => decide (0 < n))) allowance
  .next (ts.foldl (fun s t =>
    let need := needs.getD t 0
    let s1 := s.modPt t (fun k => { k with
      slew := if need ≤ share then k.slew - 1 else if k.slew = 0 then 24 else k.slew, shed := (-need - share).toNat })
    s1.modPt t (fun k => { k with volt := max k.volt (s1.needVolt t) })) s)

/-- DRIZZLE_HOLD after a wait began, or after the core's last descriptor ended: its filler tapers, and the core gates. -/
def execDrizzleHoldExpiry (d : DescRef) (s : State) : Host.Outcome State Fault Refusal :=
  let w := (d.ctx, d.ring, d.index)
  .next (if (List.range s.nTiles).any (fun t => (s.tileWaits t).contains w) then
      s.modPwr (fun p => { p with tapered := p.tapered ++ (s.sameHold w).filter (fun v => !p.tapered.contains v) })
    else s)

/-! ### Forecast (R402, R403) -/

/-- A later Forecast replaces an earlier one for the same kind, and for the same tiles where tiles are named. -/
def Forecast.without (f g : Forecast) : Option Forecast :=
  if f.kind ≠ g.kind then some f
  else if g.kind = 1 ∨ g.kind = 2 then none
  else
    let m := (List.range 12).foldl (fun m t => if f.mask.testBit t ∧ ¬ g.mask.testBit t then m + 2 ^ t else m) 0
    if m = 0 then none else some { f with mask := m }

def unitForecast (d : Desc) : Act (Option Stop) := do
  let w := d.word 1
  checks [ (decide (3 < fld w 12 3), badDesc 1 12 9), (decide (100 < fld w 16 7), badDesc 1 16 9),
           (decide (fld (d.word 2) 0 32 = 0), badDesc 2 0 9), rsv d 1 15 1, rsv d 1 23 9, rsv d 1 48 16, rsv d 2 32 32,
           rsv d 3 0 64, rsv d 4 0 64, rsv d 5 0 64, rsv d 6 0 64, rsv d 7 0 64 ]
  let s ← get
  let f : Forecast := { id := s.pwr.nextForecast, mask := fld w 0 12, kind := fld w 12 3, level := fld w 16 7, lead := fld w 32 16,
                        duration := fld (d.word 2) 0 32, acts := false, missed := false }
  set (s.modPwr (fun p => { p with forecasts := p.forecasts.filterMap (fun g => g.without f) ++ [f], nextForecast := p.nextForecast + 1 }))
  okResult 0

def execForecast (d : DescRef) (s : State) : Host.Outcome State Fault Refusal := .next (issue 0x900 d unitForecast s)

/-- The tiles that a Forecast names. -/
def Forecast.tiles (f : Forecast) (s : State) : List Nat := (List.range s.nTiles).filter f.mask.testBit

/-- A Forecast takes effect; with a quiet one the named tiles taper, with a compute one they raise their voltage. -/
def execForecastLeadReached (k : Nat) (s : State) : Host.Outcome State Fault Refusal :=
  .next (match s.pwr.forecasts.find? (fun f => f.id == k) with
    | none => s
    | some f =>
      let s1 := s.modPwr (fun p => { p with forecasts := p.forecasts.map (fun g => if g.id = k then { g with acts := true } else g) })
      if f.kind = 3 then (f.tiles s).foldl (fun s t => s.taper t) s1
      else if f.kind = 0 then (f.tiles s).foldl (fun s t => s.settleVolt s t) s1
      else s1)

/-- A Forecast ends; the waits that began in a quiet one have tapered. -/
def execForecastExpiry (k : Nat) (s : State) : Host.Outcome State Fault Refusal :=
  let s1 := s.modPwr (fun p => { p with forecasts := p.forecasts.filter (fun f => f.id != k) })
  .next (match s.pwr.forecasts.find? (fun f => f.id == k) with
    | none => s
    | some f => if f.kind = 3 ∧ f.acts = true then (f.tiles s).foldl (fun s t => s.taper t) s1 else s1)

/-- 100 µs after a compute Forecast's phase was due its tiles draw less than half of LEVEL: a miss. -/
def execForecastMiss (k : Nat) (s : State) : Host.Outcome State Fault Refusal :=
  .next (match s.pwr.forecasts.find? (fun f => f.id == k) with
    | none => s
    | some f =>
      let ts := f.tiles s
      let draw := (ts.map (fun t => (s.ptile t).power)).sum
      if f.kind = 0 ∧ f.acts = true ∧ f.missed = false ∧ draw * 200 < ts.length * 190000 * f.level then
        let s1 := s.modPwr (fun p => { p with
          forecasts := p.forecasts.map (fun g => if g.id = k then { g with missed := true } else g)
          miss := true, missCnt := satInc p.missCnt })
        ts.foldl (fun s t => s.taper t) (s1.pwrLog 8 (match ts with | [t] => t | _ => 0xF) 0 s.pwr.iIn.toNat)
      else s)

/-! ### Gust (R405) -/

/-- A tile's 1 ms choice: the highest level at or below GUST_MAX whose predicted power fits its grant, while its hottest junction stands
5 °C below T_THROTTLE. Where the clamp or the thermal loop stretches the tile the choice lowers F_BASE instead and releases that stretch, once
the clamp's hold is over and no junction stands at T_THROTTLE (log entry 77). A change of MODE takes effect here. -/
def execGustChoice (t : Nat) (powers : List Nat) (s : State) : Host.Outcome State Fault Refusal :=
  if s.nTiles ≤ t then .next s
  else
    let k := s.ptile t
    let fits (l : Nat) : Bool := match powers[l]? with | some p => decide (p ≤ k.grant) | none => false
    let top := if k.therm = 0 ∧ s.clampOn t = 0 then s.pwr.gustMax.toNat else min s.pwr.gustMax.toNat (k.gust.toNat - 1)
    let l := if s.pwr.mode ∧ k.tj.toNat + 5 ≤ s.pwr.tThrottle.toNat then ((List.range (top + 1)).reverse.find? fits).getD 0 else 0
    let s1 := s.modPt t (fun k => { k with
      gust := BitVec.ofNat 3 l, therm := if s.pwr.mode ∧ k.tj.toNat < s.pwr.tThrottle.toNat then 0 else k.therm
      clampFree := k.clampFree || (s.pwr.mode && decide (0 < s.pwr.clampLevel) && decide (s.pwr.clampLevel < 24)) })
    .next (s.settleVolt s1 t).noteThrottle

/-! ### Temperature (R408 to R410) -/

/-- The thermal loop of one tile: `hot`, some sensor stands at T_THROTTLE or above; `cool`, every one at 3 °C or more below. -/
def PwrTile.thermal (k : PwrTile) (hot cool : Bool) : PwrTile :=
  if hot then { k with therm := min (k.therm + 1) 24, coolCnt := 0 }
  else if cool then
    if k.therm = 0 then { k with coolCnt := 0 }
    else if k.coolCnt = 9 then { k with therm := k.therm - 1, coolCnt := 0 }
    else { k with coolCnt := k.coolCnt + 1 }
  else { k with coolCnt := 0 }

/-- A device's access rate at a temperature: 0 full, 1 half, 2 a quarter. -/
def stackRate (was temp : Nat) : Nat := if 100 ≤ temp then 2 else if 95 ≤ temp then 1 else if temp < 90 then 0 else was
def dimmRate (was temp : Nat) : Nat := if 95 ≤ temp then 1 else if temp < 90 then 0 else was

/-- The sensors are read (R408): the junctions of each tile, those of the I/O dies and the host die, the stacks and the DIMMs, in °C. -/
def execThermalSample (tiles : List (List Nat)) (dies stks dimms : List Nat) (s : State) : Host.Outcome State Fault Refusal :=
  let T := s.pwr.tThrottle.toNat
  let ts := List.range s.nTiles
  let js (t : Nat) : List Nat := tiles.getD t []
  let s1 := ts.foldl (fun s t =>
    let all := js t ++ dies
    let k : PwrTile := s.ptile t
    let tj := (js t).foldl max 0
    let k1 : PwrTile := { k.thermal (all.any (fun x => decide (T ≤ x))) (all.all (fun x => decide (x + 3 ≤ T))) with tj := BitVec.ofNat 8 (min tj 255) }
    let s' := s.modPt t (fun _ => k1)
    if decide (k.therm = 0) && decide (0 < k1.therm) then s'.pwrLog 2 t 0 (all.foldl max 0) else s') s
  let acts := ts.any (fun t => decide (0 < (s1.ptile t).therm))
  let s2 := s1.modPwr (fun p => { p with therm := p.therm || acts, thermCnt := if acts then satInc p.thermCnt else p.thermCnt })
  let s3 := (List.range s.nStacks).foldl (fun s n =>
    match stks[n]? with
    | some x => s.modStack n (fun k => { k with rate := stackRate k.rate x })
    | none => s) s2
  .next ((List.range 16).foldl (fun s n =>
    match dimms[n]? with
    | some x => s.modDimm n (fun k => { k with rate := dimmRate k.rate x })
    | none => s) s3).noteThrottle

/-- A junction at 110 °C (R410): the power-fail warning is given, and power leaves every rail but Bluone's standby rail, so that Bluone and its
log live on; TRIP_N and the warning stay low until the input has been removed, and the trip entry stands in Bluone's log (R458, CLASS 7). -/
def execThermalTrip (tile temp : Nat) (s : State) : Host.Outcome State Fault Refusal :=
  .next (if 110 ≤ temp ∧ s.pins.switch then
      let s1 := s.powerFail.reboot s.pins.switch false
      let s2 := { s1 with blu := s.blu, err := s.err, pins := { s1.pins with trip := true, pwrFail := true } }
      s2.errLog 7 12 tile 0x1F (at_ 3 0 ||| at_ tile 4 ||| at_ temp 16) LogWho.none
    else s)

/-! ### Energy (R411) -/

/-- The activity counters are recalibrated; the energy of the interval that is not attributed accumulates, mJ. -/
def execEnergyRecalibrate (mj : Nat) (s : State) : Host.Outcome State Fault Refusal :=
  .next (s.modPwr (fun p => { p with unattr := p.unattr + BitVec.ofNat 64 mj }))

/-! ### PWR_CFG (R412, R414) -/

/-- A write of a field outside its range: the field stays, the conflict is counted and logged. -/
def State.pwrConflict (s : State) (ok : Bool) (lo v : Nat) (f : Power → Power) : State :=
  if ok then s.modPwr f
  else (s.modPwr (fun p => { p with conflict := true, conflictCnt := satInc p.conflictCnt })).pwrLog 4 0xF lo v

/-- A write of PWR_CFG, field by field. -/
def State.writePwrCfg (s : State) (v : DWord) : State :=
  let f := fld v
  let s1 := s.pwrConflict (decide (s.capMinW ≤ f 0 13) && decide (f 0 13 ≤ s.designW)) 0 (f 0 13) (fun p => { p with capW := BitVec.ofNat 13 (f 0 13) })
  let s2 := s1.pwrConflict (decide (1 ≤ f 13 7) && decide (f 13 7 ≤ 100)) 13 (f 13 7) (fun p => { p with capWin := BitVec.ofNat 7 (f 13 7) })
  let s3 := s2.modPwr (fun p => { p with mode := bit v 20 })
  let s4 := s3.pwrConflict (decide (f 21 3 ≤ 4)) 21 (f 21 3) (fun p => { p with gustMax := BitVec.ofNat 3 (f 21 3) })
  let s5 := s4.pwrConflict (decide (5 ≤ f 24 5) && decide (f 24 5 ≤ 20)) 24 (f 24 5) (fun p => { p with slewLim := BitVec.ofNat 5 (f 24 5) })
  let s6 := s5.pwrConflict (decide (85 ≤ f 29 7) && decide (f 29 7 ≤ 105)) 29 (f 29 7) (fun p => { p with tThrottle := BitVec.ofNat 7 (f 29 7) })
  s6.modPwr (fun p => { p with drizzleEn := bit v 36, drizzleHold := BitVec.ofNat 10 (f 37 10) })

/-- PWR_SET (R440): done; R412 bounds the effect. -/
def State.pwrSet (v : DWord) (proof : OwnerProof) (s : State) : State :=
  s.ownerCmd 0x20 (leBytes 8 v.toNat) proof (fun s => (s.writePwrCfg v, 0))

def execPwrSet (v : DWord) (proof : OwnerProof) (s : State) : Host.Outcome State Fault Refusal :=
  .next (s.ask (.pwrSet v proof) (State.pwrSet v proof))

/-! ### Registers (R414) -/

def State.pwrCfg (s : State) : DWord :=
  let p := s.pwr
  at_ p.capW.toNat 0 ||| at_ p.capWin.toNat 13 ||| at_ (b2n p.mode) 20 ||| at_ p.gustMax.toNat 21 ||| at_ p.slewLim.toNat 24
    ||| at_ p.tThrottle.toNat 29 ||| at_ (b2n p.drizzleEn) 36 ||| at_ p.drizzleHold.toNat 37

def State.pwrLimits (s : State) : DWord :=
  at_ (fld s.limits 0 47) 0 ||| at_ ((otpPower.active s.blu.otp).getD 0) 47

def State.pwrStat (s : State) : DWord :=
  let p := s.pwr
  at_ (b2n p.clamp) 0 ||| at_ (b2n p.therm) 1 ||| at_ (b2n p.cap) 2 ||| at_ (b2n p.conflict) 3 ||| at_ (b2n p.lowIn) 4 ||| at_ (b2n p.highIn) 5
    ||| at_ (b2n s.lnk.slow) 6 ||| at_ (b2n p.miss) 7 ||| at_ p.clampCnt.toNat 16 ||| at_ p.thermCnt.toNat 32 ||| at_ p.conflictCnt.toNat 48

def State.pwrEvcnt (s : State) : DWord :=
  let p := s.pwr
  at_ p.capCnt.toNat 0 ||| at_ p.lowCnt.toNat 16 ||| at_ p.highCnt.toNat 32 ||| at_ p.missCnt.toNat 48

def State.pwrIn (s : State) : DWord := at_ s.pwr.vIn.toNat 0 ||| at_ s.pwr.iIn.toNat 16 ||| at_ s.pwr.pAvg.toNat 32

/-- PWR_TILE_STAT of a tile. -/
def State.pwrTileStat (s : State) (t : Nat) : DWord :=
  let k := s.ptile t
  at_ (s.stretch t) 0 ||| at_ k.gust.toNat 5 ||| at_ (b2n (decide (0 < k.cap))) 8 ||| at_ (b2n (decide (0 < s.clampOn t))) 9
    ||| at_ (b2n (decide (0 < k.therm))) 10 ||| at_ (b2n (decide (0 < k.slew))) 11 ||| at_ k.tj.toNat 12
    ||| at_ (min (k.power / 1000) 511) 20 ||| at_ (min (k.grant / 1000) 511) 29 ||| at_ (b2n (s.drizzles t)) 38 ||| at_ k.throttleCnt.toNat 48

end Sys2Proof.Machine
end

