-- ==== Sys2Proof/Machine/Reduce.lean ====
section
/-! DEFINITION. Reduce.lean: reductions: slots, steps, adders, windows, folding, and REDUCE packets (R316 to R331, R340). -/
namespace Sys2Proof.Machine

/-! ### REDUCE packets (R319, R320) -/

def Pkt.redBase (p : Pkt) : Nat := fld (p.w 1) 0 24
def Pkt.redLevel (p : Pkt) : Nat := fld (p.w 1) 24 4
def Pkt.redEnd (p : Pkt) : Bool := bit (p.w 1) 28
def Pkt.redLate (p : Pkt) : Bool := bit (p.w 1) 29
def Pkt.redRank (p : Pkt) : Nat := fld (p.w 1) 30 14
def Pkt.redSlotNo (p : Pkt) : Nat := fld (p.w 2) 0 3
def Pkt.redStep (p : Pkt) : Word := BitVec.ofNat 32 (fld (p.w 2) 32 32)
/-- Number of the node at its level. -/
def Pkt.redIdx (p : Pkt) : Nat := p.redRank / 2 ^ p.redLevel
/-- The segment that a packet belongs to. -/
def Pkt.redSeg (p : Pkt) (q : RedSlot) : Nat := p.redBase * 64 / q.blocks

/-- Blocks that a data packet carries: number in the segment, and the 64 elements. -/
def Pkt.redBlocks (p : Pkt) (q : RedSlot) : List (Nat × List Word) :=
  let nums := (List.range 64).filter (fun n => (p.w 3).getLsbD n)
  (List.range nums.length).map (fun i =>
    ((p.redBase * 64 + nums.getD i 0) % q.blocks,
      ((p.data.getD i []).map (fun (w : DWord) => [w.truncate 32, (w >>> 32).truncate 32])).flatten))

/-- Word 1 of a REDUCE header. -/
def redWord1 (base level : Nat) (end_ late : Bool) (rank : Nat) : DWord :=
  at_ (base % 2 ^ 24) 0 ||| at_ level 24 ||| at_ (b2n end_) 28 ||| at_ (b2n late) 29 ||| at_ rank 30

/-- 64 elements as the words of a flit. -/
def blockWords (vs : List Word) : List DWord :=
  (List.range 32).map (fun i => at_ (vs.getD (2 * i) 0).toNat 0 ||| at_ (vs.getD (2 * i + 1) 0).toNat 32)

/-- Blocks in groups of 64 by number, each cut at 16. -/
def redGroups (blocks : List (Nat × List Word)) : List (Nat × List (Nat × List Word)) :=
  let bases := (blocks.map (fun b => b.1 / 64)).eraseDups
  (bases.map (fun g =>
    let mine := blocks.filter (fun b => b.1 / 64 == g)
    (List.range (cdiv mine.length 16)).map (fun i => (g, (mine.drop (16 * i)).take 16)))).flatten

/-- The data packets of blocks of a segment, and a trailer if LEAVES is given; `w2` is word 2. -/
def State.redPackets (s : State) (q : RedSlot) (dst : Nat) (w2 : DWord) (seg level : Nat) (late : Bool) (rank : Nat)
    (blocks : List (Nat × List Word)) (leaves : Option Nat) : List Pkt :=
  let base0 := seg * q.blocks / 64
  (redGroups blocks).map (fun g =>
    let mask := (g.2.map (fun b => 2 ^ (b.1 % 64))).sum
    ⟨s.header 4 false dst g.2.length (redWord1 (base0 + g.1) level false late rank) w2 (BitVec.ofNat 64 mask), g.2.map (fun b => blockWords b.2)⟩)
  ++ (match leaves with
    | some n => [⟨s.header 4 false dst 0 (redWord1 base0 level true late rank) w2 (at_ n 0), []⟩]
    | none => [])

/-- Word 2 of a REDUCE header: SLOT, CTX, STEP. -/
def redWord2 (slot ctx : Nat) (step : Word) : DWord := at_ slot 0 ||| at_ ctx 4 ||| at_ step.toNat 32

/-- Packets are sent one after another; the first without an active route, if any (R328). -/
def State.sendAll (s : State) (owner : Option (Nat × Nat × Word)) : List Pkt → State × Option DWord
  | [] => (s, none)
  | p :: r =>
    match s.send p owner with
    | none => (s, some (linkDown 0xF p.dst 1))
    | some s1 => s1.sendAll owner r

/-- A partial goes to the module of a rank; without an active route it is discarded (R328). -/
def State.sendPart (s : State) (c k : Nat) (q : RedSlot) (r : RedRun) (dst0 seg level idx : Nat) (blocks : List (Nat × List Word))
    (leaves : Nat) : State :=
  let (e, cx) := q.place dst0
  let ps := s.redPackets q e (redWord2 k cx r.step) seg level false (q.desig seg level idx) blocks (some leaves)
  match s.sendAll (some (c, r.ring, r.index)) ps with
  | (s1, none) => s1
  | (s1, some l) => s1.modRun c k (fun r => { r with lost := r.lost.orElse (fun _ => some l) })

/-! ### Adders (R321) -/

/-- Two partials combined block by block in ascending order, the lower span on the left. -/
def mergeBlocks : Nat → List (Nat × List Word) → List (Nat × List Word) → List (Nat × List SV)
  | 0, _, _ => []
  | f + 1, l, r =>
    let alone (b : Nat × List Word) : Nat × List SV := (b.1, b.2.map (fun x => svAdd (SV.of x) svZero))
    match l, r with
    | [], r => r.map alone
    | l, [] => l.map alone
    | a :: l', b :: r' =>
      if a.1 < b.1 then alone a :: mergeBlocks f l' (b :: r')
      else if b.1 < a.1 then alone b :: mergeBlocks f (a :: l') r'
      else (a.1, List.zipWith (fun x y => svAdd (SV.of x) (SV.of y)) a.2 b.2) :: mergeBlocks f l' r'

/-- A block joins a list in ascending order; one that is there already is replaced. -/
def putBlock (b : Nat × List Word) (l : List (Nat × List Word)) : List (Nat × List Word) := tput l b.1 b.2

/-! ### Delivery and fold at the owner (R327) -/

def gBytes (q : RedSlot) : Nat := if q.gFmt = 0 then 4 else 2

/-- Where a block of a segment lies in G. -/
def RedSlot.blockVa (q : RedSlot) (seg b : Nat) : Nat := q.gVa + ((seg - q.firstSeg q.rank) * q.blocks + b) * 64 * gBytes q

/-- 64 elements in G_FMT, by RNE without saturation. -/
def RedSlot.gBlock (q : RedSlot) (vs : List SV) : List Byte × NumFlags :=
  let out := vs.map (fun v => if q.gFmt = 0 then ((svCopy v).w.toNat, v.flags) else svConvert q.gFmt .rne false v)
  ((out.map (fun o => leBytes (gBytes q) o.1)).flatten, out.foldl (fun f o => f ||| o.2) 0)

/-- A write of the delivery: its flags count, its first failure is kept. -/
def State.redWrite (s : State) (c k : Nat) (a : Act NumFlags) : State :=
  match a s with
  | .ok fl s1 => s1.modRun c k (fun r => { r with flags := r.flags ||| fl })
  | .error st s1 => s1.modRun c k (fun r => { r with bad := r.bad.orElse (fun _ => some (st.status, st.result)) })

/-- A segment of the run changes. -/
def State.modSeg (s : State) (c k seg : Nat) (f : RedSeg → RedSeg) : State :=
  s.modRun c k (fun r => { r with segs := r.segs.map (fun g => if g.seg = seg then f g else g) })

/-- Blocks of G that have a contribution. -/
def State.countBlocks (s : State) (c k : Nat) (bs : List (Nat × Nat)) : State :=
  s.modRun c k (fun r => { r with blocks := r.blocks ++ bs.filter (fun b => !r.blocks.contains b) })

/-- The ranks that a folded trailer stands for: its span, or of a short one those that the open choice leaves in (log entry 14). -/
def RedSlot.foldRanks (q : RedSlot) (free seg level idx leaves : Nat) : List Nat :=
  let sp := q.span level idx
  if sp.length ≤ leaves then sp else sp.filter (fun r => !Config.leftOut free seg level r)

/-- A late packet is folded into G: each block by one FP32 addition; a trailer adds its LEAVES. -/
def State.foldPkt (s : State) (c k : Nat) (q : RedSlot) (r : RedRun) (p : Pkt) : State :=
  let seg := p.redSeg q
  if p.redEnd then
    let n := fld (p.w 3) 0 15
    s.tick.modSeg c k seg (fun g => { g with
      folded := g.folded + n
      foldedRanks := (g.foldedRanks ++ q.foldRanks s.free seg p.redLevel p.redIdx n).eraseDups })
  else
    let w := r.who c
    let s1 := (p.redBlocks q).foldl (fun s b => s.redWrite c k (do
      let old ← rdVa w (q.blockVa seg b.1) (64 * gBytes q)
      let vs := (List.range 64).map (fun i =>
        svAdd (SV.of (elemF32 q.gFmt (elemBits old (8 * gBytes q) i))) (SV.of (b.2.getD i 0)))
      let (bs, fl) := q.gBlock vs
      wrVa w (q.blockVa seg b.1) bs
      pure fl)) s
    s1.countBlocks c k ((p.redBlocks q).map (fun b => (seg, b.1)))

/-- The root of a segment is resolved: the whole segment is written, then the late packets that came before are folded, in order. -/
def State.deliver (s : State) (c k : Nat) (q : RedSlot) (r : RedRun) (seg : Nat) (blocks : List (Nat × List SV)) (leaves : Nat) : State :=
  let w := r.who c
  let zero : List SV := List.replicate 64 svZero
  let out := (List.range q.blocks).map (fun b => q.gBlock ((tget zero blocks b)))
  let late := ((r.segs.find? (fun g => g.seg == seg)).map (·.late)).getD []
  let s1 := s.redWrite c k (do
    wrVa w (q.blockVa seg 0) (out.map (·.1)).flatten
    pure (out.foldl (fun f o => f ||| o.2) 0))
  let s2 := (s1.countBlocks c k (blocks.map (fun b => (seg, b.1)))).modSeg c k seg
    (fun g => { g with written := true, leaves := leaves, late := [] })
  late.foldl (fun s p => s.foldPkt c k q r p) s2

/-! ### Nodes (R318, R325, R326) -/

def RedRun.part (r : RedRun) (seg level idx : Nat) : Option RedPart :=
  r.parts.find? (fun p => p.seg == seg && p.level == level && p.idx == idx)
def RedRun.node (r : RedRun) (seg level idx : Nat) : Option RedNode :=
  r.nodes.find? (fun n => n.seg == seg && n.level == level && n.idx == idx)
def RedNode.is (n : RedNode) (seg level idx : Nat) : Bool := n.seg == seg && n.level == level && n.idx == idx

/-- Blocks, leaves or the trailer of a node's partial are here; the first input of its parent opens the parent's window (R325). -/
def State.redInput (s : State) (c k die seg level idx : Nat) (blocks : List (Nat × List Word)) (trailer : Option Nat) : State :=
  s.modRun c k (fun r =>
    let up := (seg, level + 1, idx / 2)
    let p0 := (r.part seg level idx).getD ⟨seg, level, idx, [], 0, false, die⟩
    let p := { p0 with blocks := blocks.foldl (fun l b => putBlock b l) p0.blocks
                       leaves := trailer.getD p0.leaves, whole := p0.whole || trailer.isSome }
    { r with parts := r.parts.filter (fun x => !(x.seg == seg && x.level == level && x.idx == idx)) ++ [p]
             opened := if r.opened.contains up then r.opened else r.opened ++ [up] })

/-- A child as its node sees it: blocks and leaves once it is resolved. -/
def RedRun.child (r : RedRun) (q : RedSlot) (n : RedNode) (i : Nat) : Option (List (Nat × List Word) × Nat) :=
  if !q.has (n.level - 1) i || n.missing.contains i then some ([], 0)
  else
    match r.part n.seg (n.level - 1) i with
    | some p => if p.whole then some (p.blocks, p.leaves) else none
    | none => none

/-- A partial waits for an earlier segment's partial of its node (R320). -/
def RedRun.outWaits (r : RedRun) (o : RedOut) : Bool :=
  r.nodes.any (fun n => n.level == o.level && n.idx == o.idx && decide (n.seg < o.seg) && !n.done)

/-- The resolved partials that wait for no earlier segment set out, in ascending segment order (R320). -/
def State.redFlush (s : State) (c k : Nat) : State :=
  let q := (s.ctx c).redSlot k
  match q.run with
  | none => s
  | some r =>
    (r.outs.filter (fun o => !r.outWaits o)).foldl
      (fun s o => s.sendPart c k q r (q.desig o.seg (o.level + 1) (o.idx / 2)) o.seg o.level o.idx o.blocks o.leaves)
      (s.modRun c k (fun r => { r with outs := r.outs.filter r.outWaits }))

/-- A resolved partial is to be sent. -/
def RedRun.addOut (r : RedRun) (o : RedOut) : RedRun :=
  { r with outs := r.outs.takeWhile (fun x => decide (x.seg ≤ o.seg)) ++ [o] ++ r.outs.dropWhile (fun x => decide (x.seg ≤ o.seg)) }

/-- A packet of a missing child (R326): under FOLD it goes to the owner as a late partial, which folds it once its root is written; where the
root's duties are abandoned there is nothing to fold it into. -/
def State.redLate (s : State) (c k : Nat) (q : RedSlot) (r : RedRun) (p : Pkt) : State :=
  let seg := p.redSeg q
  if q.owner seg = q.rank then
    match r.segs.find? (fun g => g.seg == seg) with
    | some g =>
      if g.gone then s
      else if g.written then s.foldPkt c k q r p
      else s.modSeg c k seg (fun g => { g with late := g.late ++ [p] })
    | none => s
  else
    let (e, cx) := q.place (q.owner seg)
    let h := s.header 4 false e p.ndata (p.w 1 ||| at_ 1 29) (redWord2 k cx r.step) (p.w 3)
    match s.send ⟨h, p.data⟩ (some (c, r.ring, r.index)) with
    | some s1 => s1
    | none => s.modRun c k (fun r => { r with lost := r.lost.orElse (fun _ => some (linkDown 0xF e 1)) })

/-- What is here of a missing child's partial is forwarded to the owner, or folded by it (R326). -/
def State.redLateAll (s : State) (c k : Nat) (q : RedSlot) (r : RedRun) (seg level idx : Nat) (blocks : List (Nat × List Word))
    (leaves : Option Nat) : State :=
  (s.redPackets q 0 (redWord2 k c r.step) seg level false (q.desig seg level idx) blocks leaves).foldl (fun s x =>
    match ((s.ctx c).redSlot k).run with
    | some r => s.redLate c k q r x
    | none => s) s

/-- A node whose children are both resolved is evaluated, and its partial goes on: into G at the root, to a parent evaluated here, or over
the links once those of earlier segments have gone; where the parent has gone on without it, to the owner under FOLD (R320, R326). A partial
without a leaf has no trailer to send (R319). -/
def State.redTry : Nat → State → Nat → Nat → Nat → Nat → Nat → State
  | 0, s, _, _, _, _, _ => s
  | fuel + 1, s, c, k, seg, level, idx =>
    let q := (s.ctx c).redSlot k
    match q.run with
    | none => s
    | some r =>
      match r.node seg level idx with
      | none => s
      | some n =>
        match r.child q n (2 * idx), r.child q n (2 * idx + 1) with
        | some (bl, ll), some (br, lr) =>
          if n.done then s
          else
            let out := mergeBlocks (bl.length + br.length + 1) bl br
            let leaves := ll + lr
            let s1 := s.modRun c k (fun r => { r with
              nodes := r.nodes.map (fun m => if m.is seg level idx then { m with done := true } else m)
              parts := r.parts.filter (fun p => !(p.seg == seg && p.level + 1 == level && p.idx / 2 == idx)) })
            if level = q.top then s1.deliver c k q r seg out leaves
            else
              let words := out.map (fun b => (b.1, b.2.map (·.w)))
              let some_ := if leaves = 0 then none else some leaves
              let s2 :=
                match r.node seg (level + 1) (idx / 2) with
                | some up =>
                  if up.missing.contains idx then
                    if r.policy = 1 then s1.redLateAll c k q r seg level idx words some_ else s1
                  else State.redTry fuel (s1.redInput c k 0 seg level idx words (some leaves)) c k seg (level + 1) (idx / 2)
                | none => if leaves = 0 then s1 else s1.modRun c k (fun r => r.addOut ⟨seg, level, idx, words, leaves⟩)
              s2.redFlush c k
        | _, _ => s

/-- The window of a node is open: its first input is present and it has not been evaluated (R325). -/
def RedRun.windowOpen (r : RedRun) (n : RedNode) : Bool :=
  !n.done && r.parts.any (fun p => p.seg == n.seg && p.level + 1 == n.level && p.idx / 2 == n.idx)

/-- The last SLOW flag received from a rank of a span was 1. -/
def RedSlot.spanSlow (q : RedSlot) (level idx : Nat) : Bool :=
  match q.slow.find? (fun e => (q.span level idx).contains e.1) with
  | some e => e.2
  | none => false

/-- A window closes (R325, R326): extended for a slow child, or the node proceeds without its missing children. -/
def State.closeWindow (s : State) (c k : Nat) (q : RedSlot) (r : RedRun) (n : RedNode) : State :=
  let lost := [2 * n.idx, 2 * n.idx + 1].filter (fun i => (r.child q n i).isNone)
  let setNode (f : RedNode → RedNode) (s : State) : State :=
    s.modRun c k (fun r => { r with nodes := r.nodes.map (fun m => if m.is n.seg n.level n.idx then f m else m) })
  if lost.isEmpty then s
  else if n.ext < r.slowExt ∧ lost.any (fun i => q.spanSlow (n.level - 1) i) = true then
    setNode (fun m => { m with ext := m.ext + 1 }) s
  else
    let held := lost.filterMap (fun i => r.part n.seg (n.level - 1) i)
    let s1 := setNode (fun m => { m with missing := m.missing ++ lost }) s
    let s2 := s1.modRun c k (fun r => { r with
      parts := r.parts.filter (fun p => !(p.seg == n.seg && p.level + 1 == n.level && lost.contains p.idx)) })
    let s3 := if q.owner n.seg = q.rank then
        s2.modSeg c k n.seg (fun g => { g with missing := g.missing ++ (lost.map (q.span (n.level - 1))).flatten }) else s2
    let s4 := State.redTry 15 s3 c k n.seg n.level n.idx
    if r.policy ≠ 1 then s4
    else held.foldl (fun s p => s.redLateAll c k q r p.seg p.level p.idx p.blocks none) s4

/-- The duties of a node are abandoned (R328): it is evaluated no more and sends nothing; of the root, its segment is never written and every
rank is left out of it. -/
def State.abandonNode (s : State) (c k : Nat) (q : RedSlot) (n : RedNode) : State :=
  let s1 := s.modRun c k (fun r => { r with
    dold := true
    nodes := r.nodes.map (fun m => if m.is n.seg n.level n.idx then { m with done := true } else m)
    parts := r.parts.filter (fun p => !(p.seg == n.seg && p.level + 1 == n.level && p.idx / 2 == n.idx)) })
  let s2 := if n.level = q.top then
      s1.modSeg c k n.seg (fun g => { g with gone := true, missing := q.span n.level n.idx, late := [] }) else s1
  s2.redFlush c k

/-- The node whose window has been open longest. -/
def RedRun.oldest (r : RedRun) : Option RedNode :=
  (r.opened.filterMap (fun o => r.node o.1 o.2.1 o.2.2)).find? r.windowOpen

/-! ### The store (R322) -/

def State.store (s : State) (die : Nat) : RedStore := tget RedStore.reset s.lnk.stores die
def State.modStore (s : State) (die : Nat) (f : RedStore → RedStore) : State :=
  s.modLnk (fun l => { l with stores := tput l.stores die (f (s.store die)) })

/-- Flits that a die's store holds: packets, and partials of running steps, each block and each trailer as one. -/
def State.storeUse (s : State) (die : Nat) : Nat :=
  (((s.store die).held.map (fun e => e.2.flits)).sum)
  + (s.ctxs.map (fun e => (e.2.redSlots.map (fun q =>
      match q.2.run with
      | some r => ((r.parts.filter (fun p => p.die == die)).map (fun p => p.blocks.length + 1)).sum
          + (if die = 0 then (r.segs.map (fun g => (g.late.map Pkt.flits).sum)).sum + (r.outs.map (fun o => o.blocks.length + 1)).sum else 0)
      | none => 0)).sum)).sum

/-- 32 MiB in flits. -/
def storeFlits : Nat := 131072
/-- The spill area in flits. -/
def State.spillFlits (s : State) : Nat := s.lnk.spillGib.toNat * 0x400000
/-- What lies past the stores. -/
def State.spilled (s : State) : Nat := (s.storeUse 0 - storeFlits) + (s.storeUse 1 - storeFlits)

/-- A packet has been taken: it must have found room if it stays; a packet that takes a store past its size has spilled. With no room it stays
in its receive buffer and its credits are withheld. -/
def State.fitStore (before after_ : State) (die : Nat) : State :=
  if after_.storeUse die ≤ before.storeUse die ∨ after_.storeUse die ≤ storeFlits then after_
  else if after_.spilled ≤ after_.spillFlits then
    after_.modStore die (fun t => { t with spill := true, spillCnt := satInc t.spillCnt })
  else before

def State.earlyDrop (s : State) (die : Nat) : State := s.modStore die (fun t => { t with drop := true, earlyCnt := satInc t.earlyCnt })
def State.lateDrop (s : State) (die : Nat) : State := s.modStore die (fun t => { t with drop := true, lateCnt := satInc t.lateCnt })
def State.holdPkt (s : State) (port : Nat) (p : Pkt) : State :=
  s.modStore (dieOf port) (fun t => { t with held := t.held ++ [(port, p)] })

/-! ### A REDUCE packet arrives (R324, R326, R327) -/

/-- The context exists and has not been torn down. -/
def Ctx.takesPackets (x : Ctx) : Bool := decide (x.st ≠ .empty) && decide (x.st ≠ .dead)

/-- A packet of the open step reaches the node that takes it. -/
def State.redConsume (s : State) (c k die : Nat) (q : RedSlot) (r : RedRun) (p : Pkt) : State :=
  let seg := p.redSeg q
  let (level, idx) := (p.redLevel, p.redIdx)
  match r.node seg (level + 1) (idx / 2) with
  | none => s
  | some n =>
    if n.done || n.missing.contains idx then
      if n.missing.contains idx ∧ r.policy = 1 then s.redLate c k q r p else s
    else
      let leaves := fld (p.w 3) 0 15
      let s1 := s.redInput c k die seg level idx (if p.redEnd then [] else p.redBlocks q) (if p.redEnd then some leaves else none)
      let s2 := if p.redEnd ∧ q.owner seg = q.rank ∧ leaves < (q.span level idx).length then
          s1.modSeg c k seg (fun g => { g with short := g.short ++ [(level, idx)] }) else s1
      State.redTry 15 s2 c k seg (level + 1) (idx / 2)

/-- A late partial of a completed step: under FOLD it goes to the owner, which drops it; else it is discarded. -/
def State.latePast (s : State) (k die : Nat) (q : RedSlot) (policy : Nat) (p : Pkt) : State :=
  let o := q.owner (p.redSeg q)
  if p.redLate ∨ o = q.rank then s.lateDrop die
  else if policy = 1 then
    let (e, cx) := q.place o
    (s.send ⟨s.header 4 false e p.ndata (p.w 1 ||| at_ 1 29) (redWord2 k cx p.redStep) (p.w 3), p.data⟩ none).getD s
  else s

/-- A REDUCE packet by its STEP. -/
def State.redPacket (s : State) (port : Nat) (p : Pkt) : State :=
  let c := p.destCtx
  let k := p.redSlotNo
  let die := dieOf port
  let q := (s.ctx c).redSlot k
  let seg := p.redSeg q
  if !(s.ctx c).takesPackets || !q.valid || decide (q.nseg ≤ seg) then s.earlyDrop die
  else
    let running : Bool := match q.run with
      | some r => s.redOpen c r
      | none => false
    let next := match q.run with
      | some r => r.step + 1
      | none => q.expect
    let past (s : State) : State :=
      match (match q.run with
        | some r => if p.redStep = r.step then some r.policy else (q.history.find? (fun h => h.1 == p.redStep)).map (·.2)
        | none => (q.history.find? (fun h => h.1 == p.redStep)).map (·.2)) with
      | some pol => s.latePast k die q pol p
      | none => s.earlyDrop die
    match q.run with
    | some r =>
      if running ∧ p.redStep = r.step then
        if p.redLate then
          if q.owner seg = q.rank ∧ r.policy = 1 ∧ r.foldOver = false then (s.redLate c k q r p).redSettle c k else s.lateDrop die
        else (s.redConsume c k die q r p).redSettle c k
      else if p.redStep = next then s.holdPkt port p
      else past s
    | none => if p.redStep = next then s.holdPkt port p else past s

/-- The SLOW flag of a partial is its rank's last one (R325); that of a late partial is its forwarder's. -/
def State.rankSlow (s : State) (p : Pkt) : State :=
  let c := p.destCtx
  if p.redLate ∨ ((s.ctx c).redSlot p.redSlotNo).valid = false then s
  else s.modRed c p.redSlotNo (fun q => { q with slow := (p.redRank, p.slow) :: q.slow.filter (fun e => e.1 != p.redRank) })

/-- The oldest VC3 packet of a port is a REDUCE packet for this module: it is consumed, held, folded or dropped. -/
def execReduce (port : Nat) (s : State) : Host.Outcome State Fault Refusal :=
  .next (match s.rxHead port 3 with
    | some p =>
      if p.type = 4 ∧ s.route p.dst = .local_ then State.fitStore s (((s.takeRx port 3).rankSlow p).redPacket port p) (dieOf port) else s
    | none => s)

/-! ### RED_SET (R316) -/

/-- Why a reduction record is refused: word and lowest bit. A record that empties the slot is judged for its reserved fields alone. -/
def redBad (ws : List DWord) : Option (Nat × Nat) :=
  let w := wrd ws
  let seg := fld (w 0) 36 4
  let nseg := fld (w 1) 0 24
  let f (word lo n : Nat) : Bool × (Nat × Nat) := (decide (fld (w word) lo n ≠ 0), (word, lo))
  let l : List (Bool × (Nat × Nat)) :=
    [ f 0 1 7, f 0 57 7, f 1 24 8, f 4 0 64, f 5 0 64, f 6 0 64, f 7 0 64 ]
    ++ (if bit (w 0) 0 then
      [ (decide (fld (w 0) 22 14 + 1 ≤ fld (w 0) 8 14), (0, 8)), (decide (seg < 9) || decide (12 < seg), (0, 36)),
        (decide (fld (w 0) 40 13 = 0), (0, 40)), (decide (2 ^ seg < fld (w 0) 40 13), (0, 36)), (decide (1 < fld (w 0) 53 4), (0, 53)),
        (decide (nseg = 0), (1, 0)), (decide (2 ^ 30 / 2 ^ seg < nseg), (0, 36)),
        (decide ((w 2).toNat % 64 ≠ 0), (2, 0)), (decide ((w 3).toNat % 64 ≠ 0), (3, 0)) ]
      else [])
  (l.find? (·.1)).map (·.2)

/-- The slot that a record sets. -/
def redOfRecord (ws : List DWord) : RedSlot :=
  let w := wrd ws
  { RedSlot.reset with
    valid := true, rank := fld (w 0) 8 14, ranks := fld (w 0) 22 14 + 1, segLog2 := fld (w 0) 36 4, k := fld (w 0) 40 13
    gFmt := fld (w 0) 53 4, nseg := fld (w 1) 0 24, rankVa := (w 2).toNat, gVa := (w 3).toNat
    expect := BitVec.ofNat 32 (fld (w 1) 32 32) }

/-- Packets held for a slot whose tag is not the next one now are dropped (R324). -/
def State.purgeRed (s : State) (c k : Nat) : State :=
  let q := (s.ctx c).redSlot k
  let stale (p : Pkt) : Bool := decide (p.type = 4) && decide (p.destCtx = c) && decide (p.redSlotNo = k)
    && (!q.valid || p.redStep != q.expect)
  [0, 1].foldl (fun s die =>
    let n := ((s.store die).held.filter (fun e => stale e.2)).length
    if n = 0 then s
    else s.modStore die (fun t => { t with held := t.held.filter (fun e => !stale e.2), drop := true, earlyCnt := satAdd t.earlyCnt n })) s

def unitRedSet (c : Nat) (d : Desc) : Act (Option Stop) := do
  let k := fld (d.word 2) 0 3
  checks ([(decide ((d.word 1).toNat % 64 ≠ 0), badDesc 1 0 9), rsv d 2 3 61] ++ rsvWords d [3, 4, 5, 6, 7])
  let bs ← rdVa (d.who c) (d.word 1).toNat 64
  let ws := bytesWords 8 bs
  match redBad ws with
  | some (a, b) => throw (badRecord a b)
  | none => pure ()
  modify (fun s => (s.modRed c k (fun _ => if bit (wrd ws 0) 0 then redOfRecord ws else RedSlot.reset)).purgeRed c k)
  okResult 0

def execRedSet (d : DescRef) (s : State) : Host.Outcome State Fault Refusal := .next (issue 0x711 d (unitRedSet d.ctx) s)

/-! ### RED_RUN (R323, R324) -/

def Desc.redSlotNo (d : Desc) : Nat := fld (d.word 1) 0 3
def Desc.redPolicy (d : Desc) : Nat := fld (d.word 1) 3 2

def redChecks (d : Desc) : List (Bool × Stop) :=
  let p := d.redPolicy
  [ (decide (p = 3), badDesc 1 3 9), (decide (p ≠ 0) && decide (fld (d.word 4) 0 24 = 0), badDesc 1 3 9),
    (decide (p = 1) && decide (fld (d.word 4) 24 24 = 0), badDesc 1 3 9), (decide ((d.word 5).toNat % 64 ≠ 0), badDesc 5 0 9),
    rsv d 1 9 23 ] ++ rsvWords d [6, 7, 8, 9, 10, 11, 12, 13, 14]

/-- This rank's level-0 partial of a segment: the blocks that SMAP marks, in SEND's order (R314, R320). -/
def redLeaf (w : Who) (q : RedSlot) (sendVa smapVa seg : Nat) : Act (List (Nat × List Word)) := do
  let map ← rdVa w (smapVa + seg * (q.blocks / 8)) (q.blocks / 8)
  let bits := leNat map
  let sel := (List.range q.blocks).filter (fun b => bits.testBit b)
  let bs ← rdVa w (sendVa + seg * q.k * 256) (sel.length * 256)
  pure ((List.range sel.length).map (fun i =>
    (sel.getD i 0, (List.range 64).map (fun e => BitVec.ofNat 32 (elemBits ((bs.drop (256 * i)).take 256) 32 e)))))

/-- The nodes of a segment that this module evaluates. -/
def RedSlot.nodesOf (q : RedSlot) (seg : Nat) : List RedNode :=
  ((List.range q.top).map (· + 1)).filterMap (fun j =>
    let i := q.rank / 2 ^ j
    if q.desig seg j i = q.rank then some ⟨seg, j, i, 0, false, []⟩ else none)

/-- The level-0 partial of a segment sets out. -/
def State.redStart (s : State) (c k : Nat) (q : RedSlot) (r : RedRun) (seg : Nat) (blocks : List (Nat × List Word)) : State :=
  if q.top = 0 then s.deliver c k q r seg (blocks.map (fun b => (b.1, b.2.map SV.of))) 1
  else
    let dst0 := q.desig seg 1 (q.rank / 2)
    if dst0 = q.rank then State.redTry 15 (s.redInput c k 0 seg 0 q.rank blocks (some 1)) c k seg 1 (q.rank / 2)
    else s.sendPart c k q r dst0 seg 0 q.rank blocks 1

/-- The packets of the step that the stores held are consumed, oldest first. -/
def State.redRelease (s : State) (c k : Nat) (step : Word) : State :=
  [0, 1].foldl (fun s die =>
    let mine (p : Pkt) : Bool := decide (p.type = 4) && decide (p.destCtx = c) && decide (p.redSlotNo = k) && p.redStep == step
    let ps := (s.store die).held.filter (fun e => mine e.2)
    ps.foldl (fun s e => s.redPacket e.1 e.2)
      (s.modStore die (fun t => { t with held := t.held.filter (fun e => !mine e.2) }))) s

def unitRedRun (c : Nat) (d : Desc) : Act (Option Stop) := do
  let w := d.who c
  let k := d.redSlotNo
  let step := BitVec.ofNat 32 (fld (d.word 1) 32 32)
  let x ← getCtx c
  let q0 := x.redSlot k
  checks (redChecks d)
  checks [phaseCheck x d.opcode, (!q0.valid, badState x 0x0711), (decide (q0.expect ≠ step), badState x 0x0712)]
  let tb ← rdVa w q0.rankVa (4 * q0.ranks)
  let q := { q0 with table := (List.range q0.ranks).map (fun i => elemBits ((tb.drop (4 * i)).take 4) 32 0) }
  let leaves ← (List.range q.nseg).mapM (redLeaf w q (d.word 2).toNat (d.word 3).toNat)
  let policy := if d.redPolicy = 1 ∧ x.cfg.strictSum = true then 2 else d.redPolicy
  let run : RedRun := {
    ring := d.ring, index := d.index, step := step, policy := policy, slowExt := fld (d.word 1) 5 4, reportVa := (d.word 5).toNat
    parts := [], nodes := ((List.range q.nseg).map q.nodesOf).flatten
    segs := ((List.range q.nseg).filter (fun g => q.owner g = q.rank)).map (fun g => ⟨g, false, 0, 0, [], [], [], [], false⟩)
    opened := [], outs := [], dold := false, lost := none, bad := none, blocks := [], flags := 0, foldOver := false }
  modify (fun s => (s.modRed c k (fun _ => { q with run := some run })).setProg c d.ring d.index (.red k))
  modify (fun s => (List.range q.nseg).foldl (fun s g => s.redStart c k q run g (leaves.getD g [])) s)
  modify (fun s => (s.redRelease c k step).redSettle c k)
  pure none

def execRedRun (d : DescRef) (s : State) : Host.Outcome State Fault Refusal := .next (issue 0x712 d (unitRedRun d.ctx) s)

/-! ### Windows, fold limit, Doldrums (R325, R327, R328) -/

/-- The running step of a descriptor: its slot number, slot and step. -/
def State.runOf (s : State) (ref : DescRef) : Option (Desc × Nat × RedSlot × RedRun) :=
  match s.desc ref with
  | some d =>
    match d.prog with
    | .red k =>
      let q := (s.ctx ref.ctx).redSlot k
      match q.run with
      | some r => if d.st = .executing then some (d, k, q, r) else none
      | none => none
    | _ => none
  | none => none

/-- The window of a node ends DEADLINE units after it opened or was extended; under WAIT it never does. -/
def execReductionWindowClose (ref : DescRef) (seg level idx : Nat) (s : State) : Host.Outcome State Fault Refusal :=
  .next (match s.runOf ref with
    | some (_, k, q, r) =>
      match r.node seg level idx with
      | some n => if r.policy = 0 ∨ r.windowOpen n = false then s else (s.closeWindow ref.ctx k q r n).redSettle ref.ctx k
      | none => s
    | none => s)

/-- FOLD_LIMIT has passed since the last root was written. -/
def execFoldLimitExpiry (ref : DescRef) (s : State) : Host.Outcome State Fault Refusal :=
  .next (match s.runOf ref with
    | some (_, k, _, r) =>
      if r.policy = 1 ∧ r.segs.all RedSeg.ended = true then
        (s.modRun ref.ctx k (fun r => { r with foldOver := true })).redSettle ref.ctx k
      else s
    | none => s)

/-- A window has stayed open for DOLD, the one open longest: the duties of its node are abandoned, and the step ends with 0x41 once its other
duties have ended (R328). -/
def execRedDoldrums (ref : DescRef) (s : State) : Host.Outcome State Fault Refusal :=
  .next (match s.runOf ref with
    | some (d, k, q, r) =>
      match r.oldest with
      | some n => if fld (d.word 4) 48 16 = 0 then s else (s.abandonNode ref.ctx k q n).redSettle ref.ctx k
      | none => s
    | none => s)

end Sys2Proof.Machine
end

