-- ==== Sys2Proof/Machine/RegRead.lean ====
section
/-! DEFINITION. RegRead.lean: what a read of each register returns: the setup windows (R40, R232, R390), the domain control page (R425), the
register address space (R470, R471) and the capability DVSEC (R469). -/
namespace Sys2Proof.Machine

/-! ### Setup windows (R40, R41, R59, R232, R390, R391) -/

def CtxCfg.reg (k : CtxCfg) : DWord :=
  at_ k.tag.toNat 0 ||| at_ k.verMax.toNat 16 ||| at_ (b2n k.strictCmd) 20 ||| at_ (b2n k.strictSum) 21 ||| at_ k.cls.toNat 22
    ||| at_ (b2n k.resumable) 24 ||| at_ (b2n k.debug) 25

/-- HST_CTX_STATE. -/
def Ctx.stateReg (x : Ctx) : DWord := at_ x.stateByte 0 ||| at_ x.descs.length 8 ||| at_ x.ctrlIgnored.toNat 32

def KillReg.reg (k : KillReg) : DWord := at_ k.status.toNat 0 ||| at_ k.seq.toNat 8 ||| at_ k.ring.toNat 24 ||| at_ (b2n k.cmd) 30

/-- HST_CTX_XFAULT_INFO. -/
def CtxXlate.info (k : CtxXlate) : DWord :=
  at_ (b2n k.valid) 0 ||| at_ (b2n k.write) 1 ||| at_ k.level.toNat 2 ||| at_ k.cause.toNat 4 ||| at_ k.seq.toNat 16 ||| at_ k.faultCnt.toNat 32

/-- HST_RING_STATUS (R41). CQ_STALL reads 1 whenever no completion entry is free, whether or not something else holds admission as well
(log entry 66). -/
def Ctx.ringStatus (x : Ctx) (k : Nat) : DWord :=
  let r := x.ring k
  at_ (b2n r.dbViol) 0 ||| at_ (b2n r.cqViol) 1 ||| at_ (b2n r.cfgViol) 2 ||| at_ (b2n r.fetchErr) 3 ||| at_ (b2n r.writeErr) 4
    ||| at_ (b2n (!(x.ringDescs k).isEmpty)) 8 ||| at_ (b2n (decide (x.freeEntries k = 0))) 9

/-- A register of a ring block (R41), by its number. -/
def Ctx.ringReg (x : Ctx) (k i : Nat) : DWord :=
  let r := x.ring k
  match i with
  | 0 => r.sqBase
  | 1 => r.cqBase
  | 2 => at_ r.sizeLog2.toNat 0 ||| at_ (b2n r.enable) 5 ||| at_ (b2n r.irqEn) 7 ||| at_ r.vector.toNat 8 ||| at_ r.priority.toNat 16
  | 3 => x.ringStatus k
  | 4 => at_ r.sqHead.toNat 0 ||| at_ r.sqTail.toNat 32
  | 5 => at_ r.cqHead.toNat 0 ||| at_ r.cqTail.toNat 32
  | 6 => at_ r.dbViolCnt.toNat 0 ||| at_ r.cqViolCnt.toNat 16 ||| at_ r.cfgViolCnt.toNat 32 ||| at_ r.fetchErrCnt.toNat 48
          ||| at_ r.writeErrCnt.toNat 56
  | _ => at_ r.dbStaleCnt.toNat 0 ||| at_ r.recDropCnt.toNat 32

/-- HST_CTX_SCHED_STAT. -/
def CtxSched.stat (q : CtxSched) : DWord :=
  at_ (b2n q.placed) 0 ||| at_ (b2n q.queued) 1 ||| at_ (b2n q.suspended) 2 ||| at_ (b2n q.seatLost) 3 ||| at_ (b2n q.overrun) 4
    ||| at_ q.preemptCnt.toNat 16 ||| at_ q.overrunCnt.toNat 32 ||| at_ q.seatLostCnt.toNat 48

/-- HST_CTX_ALLOT. -/
def CtxSched.allot (q : CtxSched) : DWord :=
  at_ q.tileMask.toNat 0 ||| at_ q.seatsLeft 12 ||| at_ q.rings.toNat 17 ||| at_ q.wc.toNat 24 ||| at_ q.fronts.toNat 32 ||| at_ q.pool.toNat 39
    ||| at_ q.domain.toNat 46 ||| at_ (b2n q.modelWin) 50

/-- HST_CTX_WIN_BASE and HST_CTX_WIN_SIZE. -/
def Window.baseReg (w : Window) : DWord := at_ (b2n w.r) 0 ||| at_ (b2n w.w) 1 ||| at_ (w.base / 65536 % 2 ^ 32) 16

/-- The 64-bit register at an offset of a context's setup window. -/
def Ctx.windowReg (x : Ctx) (off : Nat) : DWord :=
  if 0x1000 ≤ off then
    let k := (off - 0x1000) / 0x40
    if x.hasRing k then x.ringReg k (off % 0x40 / 8) else 0
  else if 0x600 ≤ off ∧ off < 0x800 then
    let k := (off - 0x600) / 8
    if x.hasRing k then at_ (x.ring k).tile.toNat 0 ||| at_ (x.ring k).seat.toNat 4 else 0
  else if 0x480 ≤ off ∧ off < 0x4E0 then
    let t := (off - 0x480) / 8
    if x.sched.tileMask.getLsbD t then at_ (tget 0 x.sched.frontFirst t) 0 ||| at_ x.sched.fronts.toNat 16 else 0
  else if 0x280 ≤ off ∧ off < 0x300 then
    let p := tget ActPool.reset x.actPools ((off - 0x280) / 8)
    at_ p.saves.length 0 ||| at_ (b2n p.valid) 24
  else if 0x200 ≤ off ∧ off < 0x260 then
    let p := tget (0, 0) x.xl.poolWin ((off - 0x200) / 8)
    at_ p.1 0 ||| at_ p.2 6
  else if 0x100 ≤ off ∧ off < 0x200 then
    let w := x.win ((off - 0x100) / 16)
    if off % 16 < 8 then w.baseReg else BitVec.ofNat 64 w.size
  else
    match off / 8 * 8 with
    | 0x00 => x.cfg.reg
    | 0x08 => x.stateReg
    | 0x18 => x.kill.reg
    | 0x20 => x.admitted
    | 0x28 => x.completed
    | 0x40 => at_ x.xl.ptRoot.toNat 12
    | 0x48 => x.xl.faultVa
    | 0x50 => x.xl.info
    | 0x400 => at_ x.sched.priority.toNat 0
    | 0x408 => x.sched.stat
    | 0x410 => x.sched.allot
    | _ => 0

/-! ### Domains, scheduling, attachments (R363, R365, R376, R378, R424, R426, R428) -/

def Dom.policy (d : Dom) : DWord :=
  at_ (b2n d.en) 0 ||| at_ (b2n d.external) 1 ||| at_ (b2n d.homeIo) 2 ||| at_ (b2n d.debugOk) 3 ||| at_ (b2n d.class2Ok) 4
    ||| at_ (b2n d.modelOk) 5 ||| at_ (b2n d.shareOk) 6 ||| at_ d.weight.toNat 8 ||| at_ d.ctxMax.toNat 16 ||| at_ d.pinMax.toNat 32
def Dom.quota (d : Dom) : DWord :=
  at_ d.wcMax.toNat 0 ||| at_ d.frontMax.toNat 8 ||| at_ d.poolMax.toNat 15 ||| at_ d.seatMax.toNat 22 ||| at_ d.ringMax.toNat 27
def Dom.mapReg (d : Dom) : DWord :=
  at_ d.attach.toNat 0 ||| at_ d.index.toNat 3 ||| at_ d.pwinGib.toNat 8 ||| at_ d.pwinBase.toNat 48
def Dom.rsp (d : Dom) : DWord :=
  at_ (b2n d.busy) 0 ||| at_ (b2n d.done) 1 ||| at_ d.code.toNat 2 ||| at_ d.ctx.toNat 6 ||| at_ d.doneCnt.toNat 32 ||| at_ d.reqIgnoredCnt.toNat 48
/-- HST_DOM_HWIN: a host-die partition's reads 0. -/
def Dom.hwin (d : Dom) : DWord := if d.external then at_ d.hbase.toNat 12 else 0

def Attach.reg (a : Attach) : DWord :=
  at_ a.state.toNat 0 ||| at_ a.width.toNat 3 ||| at_ (b2n a.degraded) 7 ||| at_ (b2n a.viol) 8 ||| at_ (b2n a.down) 9 ||| at_ (b2n a.foreign) 10
    ||| at_ a.violCnt.toNat 16 ||| at_ a.downCnt.toNat 32 ||| at_ a.foreignCnt.toNat 48

def Cyclic.cfg (c : Cyclic) : DWord :=
  at_ (b2n c.en) 0 ||| at_ (b2n c.commitPend) 2 ||| at_ c.owner.toNat 4 ||| at_ c.periodUs.toNat 8 ||| at_ c.leadUs.toNat 25
def Cyclic.stat (c : Cyclic) : DWord :=
  at_ (b2n c.err) 0 ||| at_ (b2n c.overrun) 1 ||| at_ (b2n c.late) 2 ||| at_ c.errCode.toNat 4 ||| at_ c.overrunCnt.toNat 8 ||| at_ c.lateCnt.toNat 24
    ||| at_ c.periodCnt.toNat 40
def CycSlot.reg (k : CycSlot) : DWord :=
  at_ (b2n k.valid) 0 ||| at_ k.context.toNat 1 ||| at_ k.tileMask.toNat 11 ||| at_ k.startUs.toNat 23 ||| at_ k.lenUs.toNat 40

def State.schedCfg (s : State) : DWord :=
  at_ s.sched.quantumJobs.toNat 0 ||| at_ s.sched.idleLimit.toNat 16 ||| at_ s.sched.holdLimit.toNat 32 ||| at_ s.sched.savePerTile.toNat 48

/-- A word of a circular log of entries of n words. -/
def EvLog.word (l : EvLog) (n i : Nat) : DWord := wrd (tget [] l.entries (i / n)) (i % n)

/-! ### The module block (R28, R87, R414, R441, R447, R459, R467, R468) -/

def State.familyReg (s : State) : DWord :=
  at_ 0x96 0 ||| at_ s.nStacks 8 ||| at_ 4 12 ||| at_ (s.nStacks / 4) 15 ||| at_ 18 18 ||| at_ 16 23 ||| at_ 5 28 ||| at_ 7 32 ||| at_ s.nStacks 36
    ||| at_ s.variant.ports 40 ||| at_ 1 44 ||| at_ 0xE 48

def numcapReg : DWord := at_ 0x7F 0 ||| at_ 1 8 ||| at_ 1 12

def Boot.reg (b : Boot) : DWord := at_ b.phase.toNat 0 ||| at_ b.stepMs.toNat 4 ||| at_ b.failCnt.toNat 16

def ErrMod.reg (e : ErrMod) : DWord :=
  at_ (b2n e.internal) 0 ||| at_ (b2n e.fatal) 1 ||| at_ (b2n e.wrap) 2 ||| at_ (e.log.ptr 1024) 8 ||| at_ e.internalCnt.toNat 32 ||| at_ e.wrapCnt.toNat 48

/-- SEC_STAT (R447): UNOWNED and SVN come from OTP. -/
def State.secStat (s : State) : DWord :=
  let k := s.sec
  at_ k.bootSlot.toNat 0 ||| at_ (b2n k.unowned) 2 ||| at_ k.debugStat.toNat 3 ||| at_ (b2n k.done) 5 ||| at_ (b2n k.slotFallback) 6
    ||| at_ (b2n k.configOk) 7 ||| at_ (svnOf s.blu.otp) 8 ||| at_ k.recoveryCause.toNat 16 ||| at_ k.wdogCnt.toNat 32
    ||| at_ k.fenceRefusedCnt.toNat 40 ||| at_ k.fallbackCnt.toNat 56
def SecRegs.lockCtl (k : SecRegs) : DWord := at_ (b2n k.done) 0 ||| at_ k.locksUsed.toNat 16
def SecRegs.otpStat (k : SecRegs) : DWord :=
  at_ k.ownerGen.toNat 0 ||| at_ k.pwrGen.toNat 2 ||| at_ (b2n k.redGen) 4 ||| at_ (b2n k.crcBad) 5 ||| at_ k.applied.toNat 8 ||| at_ k.refused.toNat 12
    ||| at_ k.lastCode.toNat 16 ||| at_ k.crcBadCnt.toNat 32

def Links.cfgReg (l : Links) : DWord :=
  at_ l.epid.toNat 0 ||| at_ l.hopMax.toNat 14 ||| at_ l.qThresh.toNat 18 ||| at_ l.refusedCnt.toNat 32

/-- PMT_TIER (R258). -/
def State.pmtTier (s : State) : DWord :=
  if !s.variant.full then 0
  else at_ 1 0 ||| at_ (b2n s.pmt.formatted) 1 ||| at_ (b2n s.pmt.ilv) 2 ||| at_ (b2n (s.pmt.inService && s.tierUp)) 3
    ||| at_ (b2n ((List.range 8).any (fun n => (s.pdev n).urgent))) 4
    ||| at_ (((List.range 8).filter (fun n => decide ((s.pdev n).state = 2))).map (2 ^ ·)).sum 8

/-- The registers at 0x0000 (R471). -/
def State.moduleReg (s : State) (i : Nat) : DWord :=
  match i with
  | 0 => s.familyReg
  | 1 => numcapReg
  | 2 => s.boot.cap
  | 3 => s.boot.reg
  | 4 => s.schedCfg
  | 5 => at_ s.boot.stkGib.toNat 0
  | 6 => s.err.reg
  | 7 => if s.variant.cyclic then s.sched.cyc.cfg else 0
  | 8 => if s.variant.cyclic then s.sched.cyc.stat else 0
  | _ => 0

/-- The registers of a domain at 0x0100 + 0x40 × h. -/
def State.domReg (s : State) (h i : Nat) : DWord :=
  let d := s.dom h
  match i with
  | 0 => d.policy
  | 1 => d.quota
  | 2 => d.mapReg
  | 3 => d.req
  | 4 => d.rsp
  | 5 => d.hwin
  | _ => 0

/-- The power registers at 0x1000. -/
def State.pwrReg (s : State) (i : Nat) : DWord :=
  match i with
  | 0 => s.pwrLimits
  | 1 => s.pwrCfg
  | 2 => s.pwrStat
  | 3 => s.pwrEvcnt
  | 4 => s.pwrIn
  | 5 => s.pwr.energy
  | 6 => s.pwr.unattr
  | 7 => at_ (s.pwr.log.ptr 32) 0
  | _ => 0

/-- The factory block in OTP_SENSE, an 8 B word of it (R442, R471): the serial, the device secret as 0, and the root hash where log entry 21
places them; the rest, the part code and the absent-unit fuses among it, is free. -/
def State.factoryReg (s : State) (off : Nat) : DWord :=
  if off = 0x08 then s.blu.serial
  else if 0x20 ≤ off ∧ off < 0x40 then 0
  else if 0x40 ≤ off ∧ off < 0x60 then BitVec.ofNat 64 (leNat ((s.blu.rootHash.drop (off - 0x40)).take 8))
  else Config.factoryWord (off / 8)

/-- The module block. -/
def State.lowReg (s : State) (a : Nat) : DWord :=
  if a < 0x100 then s.moduleReg (a / 8)
  else if a < 0x500 then s.domReg ((a - 0x100) / 0x40) (a % 0x40 / 8)
  else if 0x800 ≤ a ∧ a < 0xA00 then (if s.variant.cyclic then (tget CycSlot.reset s.sched.cyc.shadow ((a - 0x800) / 8)).reg else 0)
  else if 0xA00 ≤ a ∧ a < 0xC00 then (if s.variant.cyclic then (tget CycSlot.reset s.sched.cyc.live ((a - 0xA00) / 8)).reg else 0)
  else if 0xC00 ≤ a ∧ a < 0xC40 then (s.model ((a - 0xC00) / 8)).reg
  else if 0xC40 ≤ a ∧ a < 0xC80 then (s.model ((a - 0xC40) / 8)).idReg
  else if 0x1000 ≤ a ∧ a < 0x1040 then s.pwrReg ((a - 0x1000) / 8)
  else if 0x1080 ≤ a ∧ a < 0x10E0 then (if (a - 0x1080) / 8 < s.nTiles then s.pwrTileStat ((a - 0x1080) / 8) else 0)
  else if 0x1200 ≤ a ∧ a < 0x1400 then s.pwr.log.word 2 ((a - 0x1200) / 8)
  else if a = 0x2000 then s.secStat
  else if a = 0x2008 then s.sec.lockCtl
  else if 0x2080 ≤ a ∧ a < 0x2100 then tget 0 s.sec.locks ((a - 0x2080) / 8)
  else if a = 0x2100 then s.sec.otpStat
  else if a = 0x3000 then s.lnk.cfgReg
  else if a = 0x3008 then at_ s.lnk.routeIdx.toNat 0
  else if a = 0x3010 then at_ (tget 0 s.lnk.routes s.lnk.routeIdx.toNat).toNat 0
  else if a = 0x3100 then s.pmtTier
  else if 0x10000 ≤ a ∧ a < 0x10100 then s.factoryReg (a - 0x10000)
  else if 0x10100 ≤ a ∧ a < 0x18000 then mword s.blu.sensed (a - 0x10000)
  else if 0x20000 ≤ a ∧ a < 0x28000 then s.err.log.word 4 ((a - 0x20000) / 8)
  else 0

/-! ### Tiles, cores, stacks (R15, R112, R165, R205, R282, R359, R459, R472) -/

def Tile.coreMap (t : Tile) : DWord := at_ t.enabled.toNat 0 ||| at_ t.narrowed.toNat 18 ||| at_ t.spare.toNat 36

/-- COR_ARRAY_MAP: NARROWED with one quarter out of service. -/
def Core.reg (k : Core) : DWord :=
  let b (q : Nat) : Nat := (k.bypass.getD q 0).toNat
  let out := ((List.range 4).filter (fun q => !k.quarterEn.getLsbD q)).length
  at_ (b 0) 0 ||| at_ (b 1) 6 ||| at_ (b 2) 12 ||| at_ (b 3) 18 ||| at_ k.quarterEn.toNat 24 ||| at_ (b2n (decide (out = 1))) 28
    ||| at_ k.faultCnt.toNat 32

/-- The registers of a tile, by number. -/
def State.tileReg (s : State) (t i : Nat) : DWord :=
  let k := s.tile t
  match i with
  | 0 => k.coreMap
  | 1 => at_ k.sliceWaitCnt.toNat 0 ||| at_ (b2n k.sliceFull) 16 ||| at_ (64 - ((s.poolUsed t).map (·.2)).sum) 17
  | 2 => at_ k.dupCnt.toNat 0 ||| at_ k.redoCnt.toNat 16 ||| at_ k.bmapWaitCnt.toNat 32 ||| at_ (b2n k.bmapFull) 48
  | 3 => at_ (b2n k.fViol) 0 ||| at_ (b2n k.fHoldFull) 1 ||| at_ (b2n k.fRdrop) 2 ||| at_ (b2n k.fSlotWait) 3 ||| at_ k.fViolCnt.toNat 8
          ||| at_ k.fRdropCnt.toNat 24 ||| at_ k.fHoldFullCnt.toNat 40 ||| at_ k.fSlotWaitCnt.toNat 48 ||| at_ k.fDoldCnt.toNat 56
  | 4 => at_ ((k.fronts.filter (fun e => e.2.valid)).length) 0 ||| at_ (s.slotsUsed t) 10 ||| at_ k.holdQ.length 21 ||| at_ (k.fLog.ptr 64) 28
  | 5 => at_ (b2n k.ce) 0 ||| at_ (b2n k.ue) 1 ||| at_ (b2n k.array) 2 ||| at_ (b2n k.held) 3 ||| at_ k.ceCnt.toNat 8 ||| at_ k.ueCnt.toNat 32
          ||| at_ k.arrayCnt.toNat 48 ||| at_ k.retiredCnt.toNat 56
  | _ => 0

/-- The registers of a stack. -/
def Stack.reg (k : Stack) (i : Nat) : DWord :=
  match i with
  | 0 => at_ k.rsvGib.toNat 0
  | 1 => at_ k.guardCnt.toNat 0 ||| at_ (b2n k.guard) 16 ||| at_ k.commitCnt.toNat 32 ||| at_ k.hailUeCnt.toNat 48
  | 2 => at_ (b2n k.ce) 0 ||| at_ (b2n k.ue) 1 ||| at_ (b2n k.pinSuspect) 2 ||| at_ k.ceCnt.toNat 8 ||| at_ k.ueCnt.toNat 32 ||| at_ k.scrubCnt.toNat 48
  | _ => 0

/-- The block of tile t. -/
def State.tileBlock (s : State) (t o : Nat) : DWord :=
  if s.nTiles ≤ t then 0
  else if o < 0x30 then s.tileReg t (o / 8)
  else if 0x1000 ≤ o ∧ o < 0x1400 then (s.tile t).fLog.word 2 ((o - 0x1000) / 8)
  else if 0x80000 ≤ o ∧ o < 0x81200 ∧ o % 0x100 = 0 then ((s.tile t).core ((o - 0x80000) / 0x100)).reg
  else if 0xC0000 ≤ o ∧ o < 0xC0018 then (s.stack t).reg ((o - 0xC0000) / 8)
  else 0

/-! ### I/O dies (R217, R258, R259, R308, R309, R339, R428, R472) -/

/-- DIM_CFG of a die. -/
def Boot.dimCfg (b : Boot) (die : Nat) : DWord :=
  at_ (b2n b.ilv) 0 ||| at_ (b2n b.rdimm) 1 ||| at_ b.dimSpeed.toNat 2 ||| at_ (tget (0 : BitVec 14) b.dimCap die).toNat 4

def Dimm.reg (k : Dimm) : DWord :=
  at_ k.state.toNat 0 ||| at_ k.cause.toNat 2 ||| at_ k.cap.toNat 8 ||| at_ k.speed.toNat 16 ||| at_ k.ceCnt.toNat 32 ||| at_ k.ueCnt.toNat 48

def Port.limitsReg (k : Port) : DWord :=
  at_ (k.credLim.getD 0 0) 0 ||| at_ (k.credLim.getD 1 0) 9 ||| at_ (k.credLim.getD 2 0) 18 ||| at_ (k.credLim.getD 3 0) 27 |||
    at_ k.ceilCnt.toNat 48

/-- The registers of a port. -/
def Port.reg (k : Port) (i : Nat) : DWord :=
  match i with
  | 0 => at_ k.state.toNat 0 ||| at_ k.lanes.toNat 3 ||| at_ (b2n k.spareHeld) 8 ||| at_ k.ver.toNat 9 ||| at_ (b2n k.viol) 13 ||| at_ (b2n k.quar) 14
          ||| at_ (b2n k.swap) 15 ||| at_ k.violCnt.toNat 32 ||| at_ k.retrainCnt.toNat 48 ||| at_ k.swapCnt.toNat 56
  | 1 => at_ (b2n k.disable) 1
  | 2 => k.limitsReg
  | 3 => at_ k.peerEpid.toNat 0 ||| at_ k.peerPort.toNat 14 ||| at_ (b2n k.peerSlow) 18 ||| at_ k.hbCount.toNat 32
  | 4 => at_ k.expectEpid.toNat 0 ||| at_ (b2n k.expectEn) 14
  | 5 => at_ (k.log.ptr 64) 0
  | _ => 0

/-- LNK_RED_STAT: occupancy in units of 32 KiB. -/
def State.redStat (s : State) (die : Nat) : DWord :=
  let k := s.store die
  at_ (min (cdiv (s.storeUse die) 128) 1024) 0 ||| at_ (b2n k.spill) 11 ||| at_ (b2n k.drop) 12 ||| at_ k.spillCnt.toNat 16 ||| at_ k.earlyCnt.toNat 32
    ||| at_ k.lateCnt.toNat 48

/-- Line writes of a wear of 2×10⁷ per line over one region. -/
def ratedWrites : Nat := 262144 * 20000000

/-- PMT_LIFE (R251, R252). -/
def PmtDev.life (d : PmtDev) : DWord :=
  let inUse := (d.wear.filter (fun e => (d.holder e.1).isSome)).map (·.2)
  at_ (min (1000 * inUse.sum / (ratedWrites * 28672)) 1023) 0 ||| at_ (min (1000 * inUse.foldl max 0 / ratedWrites) 1023) 10
    ||| at_ d.reserveLeft 20 ||| at_ (d.sparesLeft * 1000 / spareLines) 32 ||| at_ d.level 42

/-- The registers of a Permafrost device. -/
def PmtDev.reg (d : PmtDev) (i : Nat) : DWord :=
  match i with
  | 0 => at_ d.state.toNat 0 ||| at_ (b2n d.uncorr) 3 ||| at_ (b2n d.proto) 4 ||| at_ (b2n d.therm) 5 ||| at_ d.temp.toNat 8 ||| at_ d.uncorrCnt.toNat 16
          ||| at_ d.protoCnt.toNat 32 ||| at_ d.thermCnt.toNat 48 ||| at_ d.retrainCnt.toNat 56
  | 1 => at_ d.corrCnt.toNat 0 ||| at_ d.retryCnt.toNat 32 ||| at_ d.grownCnt.toNat 48
  | 2 => d.life
  | 3 => at_ (d.log.ptr 32) 0
  | _ => 0

def PmtDie.wlReg (k : PmtDie) : DWord := at_ k.psi.toNat 0 ||| at_ k.swapDelta.toNat 6 ||| at_ k.wrCap.toNat 32 ||| at_ k.capCnt.toNat 48
def PmtDie.dewReg (k : PmtDie) : DWord :=
  at_ k.dewBits.toNat 0 ||| at_ k.dewMargin.toNat 8 ||| at_ k.canary.toNat 16 ||| at_ k.passCnt.toNat 32 ||| at_ (min (k.rewrites / 1024) 65535) 48

/-- The Permafrost part of a die's block. -/
def State.pmtBlock (s : State) (i o : Nat) : DWord :=
  if !s.variant.full then 0
  else if o = 0x8000 then (s.pdie (4 * i)).wlReg
  else if o = 0x8008 then (s.pdie (4 * i)).dewReg
  else if 0x8100 ≤ o ∧ o < 0x9100 then
    let k := (o - 0x8100) / 0x400
    let r := (o - 0x8100) % 0x400
    let d := s.pdev (4 * i + k)
    if r < 0x20 then d.reg (r / 8) else if 0x200 ≤ r then d.log.word 2 ((r - 0x200) / 8) else 0
  else 0

/-- The block of I/O die i. -/
def State.dieBlock (s : State) (i o : Nat) : DWord :=
  if o = 0 then s.boot.dimCfg i
  else if 0x100 ≤ o ∧ o < 0x140 then (s.dimm (8 * i + (o - 0x100) / 8)).reg
  else if 0x2000 ≤ o ∧ o < 0x5000 then
    let p := 6 * i + (o - 0x2000) / 0x800
    let r := (o - 0x2000) % 0x800
    if !s.hasPort p then 0
    else if r < 0x30 then (s.port p).reg (r / 8)
    else if 0x400 ≤ r then (s.port p).log.word 2 ((r - 0x400) / 8)
    else 0
  else if o = 0x6000 then s.redStat i
  else if o = 0x6008 then at_ s.lnk.spillGib.toNat 0
  else if o = 0x7000 then (s.att i).reg
  else if o = 0x7008 then (s.att (2 + i)).reg
  else if 0x7400 ≤ o ∧ o < 0x7600 then (s.att i).log.word 2 ((o - 0x7400) / 8)
  else if 0x7600 ≤ o ∧ o < 0x7800 then (s.att (2 + i)).log.word 2 ((o - 0x7600) / 8)
  else s.pmtBlock i o

/-- The register at an address of the register address space (R470, R471); 0 where there is none. -/
def State.spaceReg (s : State) (addr : Nat) : DWord :=
  let a := addr / 8 * 8
  if a < 0x1000000 then s.lowReg a
  else if a < 0x2000000 then s.tileBlock ((a - 0x1000000) / 0x100000) (a % 0x100000)
  else if a < 0x2200000 then s.dieBlock ((a - 0x2000000) / 0x100000) (a % 0x100000)
  else 0

/-! ### The domain control page (R425) -/

/-- The register at an offset of a domain's control page; `owner` domains see the cyclic table, and the model slots that are theirs or shared
read (R386). -/
def State.pageReg (s : State) (h off : Nat) : DWord :=
  let d := s.dom h
  let mine := s.variant.cyclic && decide (s.sched.cyc.owner.toNat = h)
  let sees (i : Nat) : Bool := decide ((s.model i).owner.toNat = h) || (s.model i).share
  if off = 0x000 then d.req
  else if off = 0x008 then d.rsp
  else if off = 0x010 then d.policy
  else if off = 0x018 then d.quota
  else if off = 0x020 then d.mapReg
  else if off = 0x028 then d.hwin
  else if off = 0x030 then (if d.attach = 0 then 0 else (s.att (d.attach.toNat - 1)).reg)
  else if off = 0x100 then (if mine then s.sched.cyc.cfg else 0)
  else if off = 0x108 then (if mine then s.sched.cyc.stat else 0)
  else if 0x200 ≤ off ∧ off < 0x400 then (if mine then (tget CycSlot.reset s.sched.cyc.shadow ((off - 0x200) / 8)).reg else 0)
  else if 0x400 ≤ off ∧ off < 0x600 then (if mine then (tget CycSlot.reset s.sched.cyc.live ((off - 0x400) / 8)).reg else 0)
  else if 0x600 ≤ off ∧ off < 0x640 then (if sees ((off - 0x600) / 8) then (s.model ((off - 0x600) / 8)).reg else 0)
  else if 0x640 ≤ off ∧ off < 0x680 then (if sees ((off - 0x640) / 8) then (s.model ((off - 0x640) / 8)).idReg else 0)
  else if 0x800 ≤ off ∧ off < 0x838 then s.pwrReg ((off - 0x800) / 8)
  else if 0x880 ≤ off ∧ off < 0x8E0 then (if (off - 0x880) / 8 < s.nTiles then s.pwrTileStat ((off - 0x880) / 8) else 0)
  else 0

/-! ### The capability DVSEC (R469) -/

/-- The capability register at an 8 B offset of the DVSEC. -/
def State.dvsecReg (s : State) (off : Nat) : DWord :=
  match off with
  | 0x10 => s.boot.cap
  | 0x18 => s.familyReg
  | 0x20 => numcapReg
  | 0x28 => s.boot.reg
  | _ => if (off - 0x30) / 8 < s.nTiles then (s.tile ((off - 0x30) / 8)).coreMap else 0

end Sys2Proof.Machine
end

