-- ==== Sys2Proof/Machine/Tokens.lean ====
section
/-! DEFINITION. Tokens.lean: the writing of OTP from staged tokens (R442 to R445). What the spec leaves open of a token's layout: log entry 28. -/
namespace Sys2Proof.Machine

/-- n bytes of a byte list from an offset on, as a number. -/
def leField (b : List Byte) (off n : Nat) : Nat := leNat ((b.drop off).take n)
/-- n bytes of a byte list from an offset on. -/
def slice (b : List Byte) (off n : Nat) : List Byte := (b.drop off).take n

/-! ### Fields of a token (R443) -/

def tokOp (t : List Byte) : Nat := leField t 3 1
def tokBlock (t : List Byte) : Nat := leField t 4 1
def tokGen (t : List Byte) : Nat := leField t 5 1
def tokSigner (t : List Byte) : Nat := leField t 6 1
def tokLength (t : List Byte) : Nat := leField t 48 4
def tokPk (t : List Byte) : List Byte := slice t 56 64
def tokPayload (t : List Byte) : List Byte := slice t 120 (tokLength t)
def tokSig (t : List Byte) : List Byte := t.drop (t.length - 64)
def tokSigned (t : List Byte) : List Byte := t.take (t.length - 64)

/-- The block that a token names; the debug lock is one generation of 16 B without payload (log entry 28). -/
def tokTarget (t : List Byte) : OtpBlock :=
  match tokBlock t with
  | 1 => otpOwner
  | 2 => otpPower
  | 3 => otpRedundancy
  | _ => ⟨0x110, 1, 16, 0⟩

/-! ### The checks (R444) -/

/-- Check 1; every operation carries a payload of its block's size. -/
def tokFormed (t : List Byte) : Bool :=
  let op := tokOp t
  let blk := tokBlock t
  leField t 0 2 == 0x4F54 && leField t 2 1 == 1 && decide (1 ≤ op) && decide (op ≤ 4)
    && (if op ≤ 2 then decide (1 ≤ blk) && decide (blk ≤ 3) else blk == 4)
    && leField t 7 1 == 0 && leField t 52 4 == 0
    && tokLength t == (tokTarget t).payload && t.length == 184 + tokLength t

/-- Check 4: the signer may do this (table of permitted signers), and its key is the one that OTP names. -/
def State.tokSignerOk (s : State) (t : List Byte) : Bool :=
  let vendor := tokSigner t == 0
  let owner := tokSigner t == 1
  let may := match tokBlock t, tokOp t with
    | 1, 1 => owner || (vendor && (otpOwner.active s.blu.otp).isNone)
    | 1, _ => vendor || owner
    | 2, 1 => vendor || owner
    | 2, _ => vendor
    | 3, _ => vendor
    | _, 3 => owner
    | _, _ => vendor || owner
  may && (if vendor then Config.sm3 (tokPk t) == s.blu.rootHash
    else (otpOwner.active s.blu.otp).isSome && Config.sm3 (tokPk t) == otpOwner.inForce s.blu.otp)

/-- Check 6: the generation is in the block and no factory generation, and blank for PROGRAM. -/
def State.tokGenOk (s : State) (t : List Byte) : Bool :=
  let k := tokTarget t
  decide (tokGen t < k.gens) && !((tokBlock t == 2 || tokBlock t == 3) && tokGen t == 0)
    && (tokOp t != 1 || k.blank s.blu.otp (tokGen t))

/-- Check 7: the limits of a power-limit token, laid out as PWR_LIMITS. -/
def State.tokPowerOk (s : State) (t : List Byte) : Bool :=
  if tokBlock t ≠ 2 ∨ tokOp t ≠ 1 then true
  else
    let v := BitVec.ofNat 64 (leNat (tokPayload t))
    let gen0 := BitVec.ofNat 64 (leNat (otpPower.content s.blu.otp 0))
    let ceil := fld v 0 13
    let design := fld v 13 13
    decide (fld v 39 8 = ceil / 50) && decide (ceil ≤ fld gen0 0 13) && decide (fld v 26 13 ≤ design) && decide (design ≤ ceil)
      && (tokSigner t != 1 || (decide (ceil ≤ s.ceilW) && decide (design ≤ s.designW)))

/-- The checks that come before programming, in order: the code of the first that fails, or 0. -/
def State.tokCode (s : State) (t : List Byte) : Nat :=
  if !tokFormed t then 1
  else if BitVec.ofNat 64 (leField t 8 8) ≠ s.blu.serial then 2
  else if slice t 16 32 ≠ Config.sm3 ((tokTarget t).bytes s.blu.otp) then 3
  else if !s.tokSignerOk t then 4
  else if !Config.sm2Verify "XR96-OTP" (tokPk t) (tokSigned t) (tokSig t) then 5
  else if !s.tokGenOk t then 6
  else if !s.tokPowerOk t then 7
  else if tokOp t = 4 ∧ debugLocked s.blu.otp then 9
  else 0

/-! ### Programming -/

/-- Fuses are set; none is ever cleared. -/
def burn (m : Memory) (a : Nat) : List Byte → Memory
  | [] => m
  | b :: r => burn (mput m a (mget m a ||| b)) (a + 1) r

/-- The generations that INVALIDATE marks: GEN, and every lower one whose VALID is set, but no factory generation. -/
def State.tokMarks (s : State) (t : List Byte) : List Nat :=
  (List.range (tokGen t + 1)).filter (fun g => (g == tokGen t || (tokTarget t).valid s.blu.otp g) && !(g == 0 && tokBlock t != 1))

/-- What a token that has passed its checks sets: PROGRAM the payload, the CRC and last VALID; INVALIDATE the INVALID fuses; DEBUG_DISABLE the
debug lock. -/
def State.program (s : State) (t : List Byte) : Memory :=
  let k := tokTarget t
  let m := s.blu.otp
  match tokOp t with
  | 1 =>
    let a := k.gen (tokGen t)
    burn (burn (burn m (a + 8) (tokPayload t)) (a + 4) (leBytes 4 (crc32 (tokPayload t)).toNat)) a [0xFF]
  | 2 => (s.tokMarks t).foldl (fun m g => burn m (k.gen g + 1) [0xFF]) m
  | 3 => burn m 0x110 [0xFF]
  | _ => m

/-- The fuses of a token's block that programming leaves set where only those among `part` take, byte for byte. -/
def State.programPart (s : State) (t : List Byte) (part : List Byte) : Memory :=
  let k := tokTarget t
  let m := s.program t
  burn s.blu.otp k.base ((List.range (k.gens * k.size)).map (fun i => mget m (k.base + i) &&& part.getD i 0))

/-- One token is taken. `bad` is, of the block, the fuses that take where not all do: what is sensed then differs from what was programmed
(check 9). The token's code. -/
def State.takeToken (s : State) (t : List Byte) (bad : Option (List Byte)) : State × Nat :=
  let code := s.tokCode t
  if code ≠ 0 then (s, code)
  else
    let m := match bad with
      | some bs => s.programPart t bs
      | none => s.program t
    if m = s.program t then ({ s with blu := { s.blu with otp := m, unlock := s.blu.unlock || tokOp t == 4 } }, 0)
    else ({ s with blu := { s.blu with otp := m } }, 8)

/-- The input is lost while a token programs (R448): the fuses of `part` have taken, of PROGRAM all but VALID, which comes last. -/
def State.cutToken (s : State) (t : List Byte) (part : List Byte) : State :=
  if s.tokCode t ≠ 0 then s
  else
    let k := tokTarget t
    let valid := if tokOp t = 1 then k.gen (tokGen t) - k.base else k.gens * k.size
    { s with blu := { s.blu with otp := s.programPart t ((List.range part.length).map (fun i => if i = valid then 0 else part.getD i 0)) } }

/-- The staged tokens in staging order, each with its number; their codes. -/
def State.takeTokens (s : State) (bad : List (Nat × List Byte)) : List (Nat × List Byte) → State × List Nat
  | [] => (s, [])
  | (n, t) :: r =>
    let a := s.takeToken t ((bad.find? (fun e => e.1 == n)).map (·.2))
    let b := a.1.takeTokens bad r
    (b.1, a.2 :: b.2)

/-- OTP_STAT's account of the tokens taken last (R447). -/
def SecRegs.tokens (k : SecRegs) (codes : List Nat) : SecRegs :=
  { k with
    applied := BitVec.ofNat 4 (codes.filter (· == 0)).length, refused := BitVec.ofNat 4 (codes.filter (· != 0)).length
    lastCode := BitVec.ofNat 4 (codes.getLast?.getD 0) }

end Sys2Proof.Machine
end

