-- ==== Sys2Proof/Machine/Bluone.lean ====
section
/-! DEFINITION. Bluone.lean: the boot chain, recovery and the watchdog (R433 to R437, R446), the owner commands (R440) and attestation (R438). -/
namespace Sys2Proof.Machine

/-! ### Progress and failures (R464, R467) -/

/-- PHASE rises; STEP_MS takes the time, in units of 4 ms. -/
def State.setPhase (s : State) (p ms : Nat) : State :=
  if s.boot.phase.toNat < p then
    { s with boot := { s.boot with phase := BitVec.ofNat 4 p, stepMs := BitVec.ofNat 12 (min (ms / 4) 4095) } }
  else s

def State.stepDone (s : State) (n : Nat) : State :=
  { s with boot := { s.boot with steps := if s.boot.steps.contains n then s.boot.steps else s.boot.steps ++ [n] } }

/-- A failure during bring-up: counted, and one entry of the module error log (its class: log entry 29). -/
def State.bootFail (s : State) (source unit : Nat) : State :=
  ({ s with boot := { s.boot with failCnt := satInc s.boot.failCnt } }).errLog 3 source unit 0x1F 0 LogWho.none

/-- The rails of the PCIe ports are off: neither trains. -/
def State.dropPorts (s : State) : State :=
  { s with attaches := s.attaches.map (fun e => (e.1, { e.2 with state := 0, width := 0 })) }

/-- Recovery (R436): every rail but Bluone's and IO0's is off. -/
def State.enterRecovery (s : State) (cause ms : Nat) : State :=
  let s0 := if s.boot.steps.contains 1 then { s.moduleReset with blu := { s.moduleReset.blu with waiting := s.blu.waiting } } else s.dropPorts
  let s1 := ({ s0 with sec := { s0.sec with recoveryCause := BitVec.ofNat 4 cause, bootSlot := 2 } }).bootFail 12 0
  s1.setPhase 7 ms

/-! ### Bundles (R434, R435) -/

/-- The manifest of a slot: everything before its images' bytes. -/
def bundleCount (b : List Byte) : Nat := leField b 9 1
def bundleSvn (b : List Byte) : Nat := leField b 6 2
def bundleManifest (b : List Byte) : List Byte := b.take (216 + 48 * bundleCount b + 64)
/-- The entry of an image: OFFSET, LENGTH and digest. -/
def bundleEntry (b : List Byte) (id : Nat) : Option (Nat × Nat × List Byte) :=
  ((List.range (bundleCount b)).find? (fun i => leField b (216 + 48 * i) 4 == id)).map (fun i =>
    (leField b (216 + 48 * i + 4) 4, leField b (216 + 48 * i + 8) 4, slice b (216 + 48 * i + 16) 32))
/-- An image's SM3 equals its entry. -/
def imageOk (b : List Byte) (id : Nat) : Bool :=
  match bundleEntry b id with
  | some (o, n, h) => decide (o + n ≤ b.length) && Config.sm3 (slice b o n) == h
  | none => false
def imageDigest (b : List Byte) (id : Nat) : List Byte := ((bundleEntry b id).map (·.2.2)).getD []

/-- A slot opens with a manifest (R434), and passes step 4 of R435. -/
def State.bundleOk (s : State) (b : List Byte) : Bool :=
  let n := 216 + 48 * bundleCount b
  leField b 0 4 == 0x4D465258 && leField b 4 2 == 1 && decide (1 ≤ bundleSvn b) && decide (bundleSvn b ≤ 127)
    && decide (leField b 8 1 < 4) && decide (5 ≤ bundleCount b) && decide (bundleCount b ≤ 15) && leField b 10 6 == 0 && leField b 146 6 == 0
    && Config.sm3 (slice b 16 64) == s.blu.rootHash
    && Config.sm2Verify "XR96-DLG" (slice b 16 64) (slice b 80 72) (slice b 152 64)
    && decide (leField b 144 2 ≤ bundleSvn b) && decide (svnOf s.blu.otp ≤ bundleSvn b)
    && Config.sm2Verify "XR96-FW" (slice b 80 64) (b.take n) (slice b n 64)
    && imageOk b 1

/-- The bytes of a slot: 0 A, 1 B. -/
def Bluone.slot (k : Bluone) (i : Nat) : List Byte := if i = 0 then k.slotA else k.slotB
/-- A slot that the ROM may start from. -/
def State.slotOk (s : State) (i : Nat) : Bool := s.bundleOk (s.blu.slot i) && !s.blu.badSlots.contains i

/-! ### The owner configuration (R439) -/

/-- The bytes of an owner configuration that its signature covers: every setting of it. The spec gives no layout (log entry 22). -/
def cfgBody (k : OwnerCfg) : List Byte :=
  let opt (v : Option DWord) : List Byte := match v with
    | some v => 1 :: leBytes 8 v.toNat
    | none => [0]
  leBytes 8 k.seq.toNat
    ++ ((List.range 16).map (fun h =>
      let (m, p, q) := tget (0, 0, 0) k.domains h
      leBytes 8 m.toNat ++ leBytes 8 p.toNat ++ leBytes 8 q.toNat)).flatten
    ++ leBytes 2 k.locks.length ++ (k.locks.map (fun e => leBytes 8 e.1 ++ leBytes 8 e.2)).flatten
    ++ leBytes 8 k.lnkCfg.toNat
    ++ leBytes 2 k.peerExpect.length ++ (k.peerExpect.map (fun e => leBytes 8 e.1 ++ leBytes 8 e.2.toNat)).flatten
    ++ leBytes 4 k.routes.length ++ (k.routes.map (fun e => leBytes 8 e.1 ++ leBytes 2 e.2.toNat)).flatten
    ++ opt k.pwrCfg ++ opt k.schedCfg ++ leBytes 8 k.stkGib ++ leBytes 8 k.spillGib ++ leBytes 8 k.cycOwner ++ [BitVec.ofNat 8 (b2n k.preferB)]

/-- A copy verifies under the active owner key. -/
def State.cfgOk (s : State) (k : OwnerCfg) : Bool := s.ownerKey k.pk && Config.sm2Verify "XR96-CFG" k.pk (cfgBody k) k.sig

/-- The copy with the highest sequence number whose signature verifies. -/
def State.bestCfg (s : State) : Option OwnerCfg :=
  match s.blu.cfgA.filter s.cfgOk, s.blu.cfgB.filter s.cfgOk with
  | some a, some b => some (if a.seq.toNat < b.seq.toNat then b else a)
  | some a, none => some a
  | none, b => b

/-! ### Measurements and keys (R437, R438) -/

/-- Measurement 10: 0 debug permanently disabled, 1 closed, 2 open this boot, which it is once stage 1 starts (R445). -/
def State.debugState (s : State) : Nat := if debugLocked s.blu.otp then 0 else if s.blu.unlock && decide (1 ≤ s.blu.stage) then 2 else 1

/-- The module's I²C address (R483). -/
def Pins.mgtAddress (k : Pins) : Nat := 0x40 + k.mgtAddr.toNat

/-- READY is high while PHASE is 6 (R483). -/
def State.readyPin (s : State) : Bool := s.boot.phase == 6

/-- The debug port's TDO is driven: the port is open (R445, R483). -/
def State.tdoDriven (s : State) : Bool := s.debugState == 2

def genBytes (k : OtpBlock) (m : Memory) : List Byte :=
  match k.active m with
  | some g => mread m (k.gen g) k.size
  | none => []

/-- What measurement 9 covers, in OTP offset order. -/
def otpMeasured (m : Memory) : List Byte :=
  mread m 0x100 32 ++ genBytes otpOwner m ++ genBytes otpPower m ++ genBytes otpRedundancy m

def State.measure (s : State) (i : Nat) (d : List Byte) : State :=
  { s with blu := { s.blu with measures := tput s.blu.measures i d } }
def Bluone.measured (k : Bluone) (i : Nat) : List Byte := tget [] k.measures i

/-- The order n of the SM2 curve (PRESUMED, GB/T 32918.5; log entry 7). -/
def sm2Order : Nat := 0xFFFFFFFEFFFFFFFFFFFFFFFFFFFFFFFF7203DF6B21C6052B53BBF40939D54123

/-- KDF(Z, 256) of GB/T 32918.4: one block, SM3 of Z and the 32-bit counter 1, as a number, most significant byte first (PRESUMED, log entry 7). -/
def kdf256 (z : List Byte) : Nat := leNat (Config.sm3 (z ++ [0, 0, 0, 1])).reverse

/-- The private key of R437: d = 1 + (KDF(Z, 256) mod (n − 1)). -/
def deriveKey (z : List Byte) : List Byte := (leBytes 32 (1 + kdf256 z % (sm2Order - 1))).reverse

/-- The alias certificate before its signature: the attestation public key, the two times of a module without a clock, and H2 and H9 in a
private extension (R437). -/
def aliasBody (k : Bluone) (attKey : List Byte) : List Byte :=
  Config.x509 (Config.sm2Public attKey) "19700101000000Z" "99991231235959Z" (k.measured 2 ++ k.measured 9)

/-- The ROM derives the keys; stage 1 signs the alias certificate with slot 0, which then closes, and slot 1 stays. -/
def State.deriveKeys (s : State) : State :=
  let k := s.blu
  let idKey := deriveKey (k.secret ++ [0x58, 0x52, 0x39, 0x36, 0x2D, 0x49, 0x44])
  let attKey := deriveKey (k.secret ++ k.measured 2 ++ k.measured 9 ++ k.measured 10 ++ [0x58, 0x52, 0x39, 0x36, 0x2D, 0x41, 0x4B])
  let body := aliasBody k attKey
  { s.tick with blu := { k with keys := [(1, attKey)], alias_ := body ++ Config.sm2Sign s.free idKey body } }

/-! ### The boot chain -/

/-- OTP is sensed (R435 step 1, R447); the factory block's one generation counts among those with a bad CRC (R442). -/
def State.senseOtp (s : State) : State :=
  let m := s.blu.otp
  let bad := otpOwner.crcBad m + otpPower.crcBad m + otpRedundancy.crcBad m + b2n (!s.blu.factoryOk)
  { s with
    blu := { s.blu with sensed := m }
    sec := { s.sec.tokens s.blu.tokenCodes with
      unowned := s.unowned, ownerGen := BitVec.ofNat 2 ((otpOwner.active m).getD 0), pwrGen := BitVec.ofNat 2 ((otpPower.active m).getD 0)
      redGen := (otpRedundancy.active m).getD 0 == 1, crcBad := s.sec.crcBad || decide (0 < bad)
      crcBadCnt := satAdd s.sec.crcBadCnt bad, debugStat := BitVec.ofNat 2 s.debugState } }

/-- Fuses of the SVN counter burn up to SVN (R435 step 6, R436). -/
def State.commitSvn (s : State) (b : List Byte) : State :=
  let svn := bundleSvn b
  let now := svnOf s.blu.otp
  if bit (b.getD 8 0) 0 ∧ now < svn ∧ now < 127 then
    { s with blu := { s.blu with otp := burn s.blu.otp 0x100 (leBytes 16 (2 ^ svn - 1)) } }
  else s

/-- Steps 6 and 7 of R435 on the slot chosen: the loader starts. -/
def State.startLoader (s : State) (slot ms : Nat) : State :=
  let b := s.blu.slot slot
  let s1 := s.commitSvn b
  let s2 := { s1 with
    blu := { s1.blu with stage := 1, manifest := bundleManifest b, sensed := s1.blu.otp } }
  let s2 := { s2 with sec := { s2.sec with bootSlot := BitVec.ofNat 2 slot, recoveryCause := 0, debugStat := BitVec.ofNat 2 s2.debugState } }
  let s3 := ((((((s2.measure 1 Config.romDigest).measure 2 (Config.sm3 (bundleManifest b))).measure 3 (imageDigest b 1)).measure 8
    (match s2.blu.cfg with
      | some k => Config.sm3 (cfgBody k ++ k.sig)
      | none => List.replicate 32 0)).measure 9 (Config.sm3 (otpMeasured s2.blu.otp))).measure 10 (Config.sm3 [BitVec.ofNat 8 s2.debugState]))
  (s3.deriveKeys.stepDone 1).setPhase 1 ms

/-- Steps 3 to 7 of R435. -/
def State.chooseSlot (s : State) (ms : Nat) : State :=
  if (otpPower.active s.blu.otp).isNone then s.enterRecovery 3 ms
  else if (otpRedundancy.active s.blu.otp).isNone then s.enterRecovery 4 ms
  else
    let first := if (s.bestCfg.map (·.preferB)).getD false then 1 else 0
    if s.slotOk first then s.startLoader first ms
    else
      let s1 := { s with sec := { s.sec with slotFallback := true, fallbackCnt := satInc s.sec.fallbackCnt } }
      if s.slotOk (1 - first) then s1.startLoader (1 - first) ms else s1.enterRecovery 2 ms

/-- The ROM applies the staged tokens. A boot that takes tokens resets the module; what a DEBUG_UNLOCK has opened stays for the boot that follows
(log entry 28). Where the input is lost while a token programs, that token and those after it stay staged (R448). -/
def State.applyTokens (s : State) (fuses : RomFuses) : State :=
  let ts := (List.range s.blu.tokens.length).zip s.blu.tokens
  let n := (fuses.cut.map (·.1)).getD ts.length
  let r := s.takeTokens fuses.bad (ts.take n)
  let t := { r.1 with blu := { r.1.blu with tokens := s.blu.tokens.drop n, tokenCodes := r.2 } }
  match fuses.cut with
  | some (_, part) => (t.cutToken (t.blu.tokens.headD []) part).reboot (s.pins.switch && s.pins.inPrsnt) false
  | none =>
    let u := t.moduleReset
    { u with blu := { u.blu with unlock := t.blu.unlock } }

/-- The ROM runs (R435): after a cold or module reset, or after a reset of Bluone alone, when it takes no token (R446). -/
def State.runRom (s : State) (ms : Nat) (fuses : RomFuses) : State :=
  if s.blu.stage ≠ 0 ∨ s.blu.halted ∨ s.inRecovery ∨ ¬ s.pins.inputGood then s
  else if !s.blu.factoryOk then
    let t := s.dropPorts.senseOtp
    { t with blu := { t.blu with halted := true, waiting := [] }, sec := { t.sec with recoveryCause := 1 } }
  else
    let s1 := s.senseOtp
    if s1.blu.tokens.isEmpty ∨ s1.blu.warm then s1.chooseSlot ms else s1.applyTokens fuses

/-- An image fails its digest: its slot has failed, and the module resets (R435). -/
def State.imageFails (s : State) : State :=
  let i := s.sec.bootSlot.toNat
  ({ s with blu := { s.blu with badSlots := if s.blu.badSlots.contains i then s.blu.badSlots else s.blu.badSlots ++ [i] } }).moduleReset

/-! ### The watchdog (R446) -/

/-- A service write restarts the watchdog: its time starts again, and nothing else changes. -/
def execWatchdogService (s : State) : Host.Outcome State Fault Refusal := .next s

/-- What a reset of Bluone alone leaves of it. -/
def State.resetBluone (s : State) : State :=
  { s with
    blu := { s.blu with stage := 0, nonce := none, spdm := 0, unlock := false, keys := [], alias_ := [], warm := true } }

/-- Bluone alone is reset, and boots from ROM again; in recovery PHASE is 0 until the ROM has judged the slots. -/
def State.restartBluone (s : State) : State := if s.inRecovery then s.resetBluone.enterPhase 0 else s.resetBluone

def execWatchdogExpiry (s : State) : Host.Outcome State Fault Refusal :=
  .next (if s.blu.halted ∨ ¬ s.pins.inputGood then s
    else
      let s1 := s.restartBluone
      { s1 with sec := { s1.sec with wdogCnt := satInc s1.sec.wdogCnt } })

/-! ### Owner commands (R440): what each does once Bluone hears it -/

def State.giveNonce (s : State) : State :=
  let n := Config.nonce s.free
  ({ s.tick with blu := { s.blu with nonce := some n } }).answer 0x01 0 n

def execGetNonce (s : State) : Host.Outcome State Fault Refusal := .next (s.ask .getNonce State.giveNonce)

/-- READ_REG: an aligned address of the register address space. -/
def State.giveReg (addr : Nat) (s : State) : State :=
  if addr % 8 ≠ 0 ∨ 2 ^ 32 ≤ addr then s.answer 0x02 4 [] else s.answer 0x02 0 (leBytes 8 (s.spaceReg addr).toNat)

def execReadReg (addr : Nat) (s : State) : Host.Outcome State Fault Refusal := .next (s.ask (.readReg addr) (State.giveReg addr))

/-- RECOVERY_BUNDLE (R436). The answer to a bundle that fails its checks is 1, to one past a slot's 24 MiB 4 (log entry 22). -/
def State.takeBundle (bundle : List Byte) (s : State) : State :=
  if !s.inRecovery then s.answer 0x03 3 []
  else if 24 * 1048576 < bundle.length then s.answer 0x03 4 []
  else if s.bundleOk bundle && bit (bundle.getD 8 0) 1 then
    (({ s with blu := { s.blu with slotA := bundle, badSlots := s.blu.badSlots.filter (· != 0) } }).moduleReset).answer 0x03 0 []
  else s.answer 0x03 1 []

def execRecoveryBundle (bundle : List Byte) (s : State) : Host.Outcome State Fault Refusal :=
  .next (s.ask (.recoveryBundle bundle) (State.takeBundle bundle))

/-- The older flash copy of the owner configuration is written; it acts at the next reset. -/
def State.stageCfg (s : State) (k : OwnerCfg) : State :=
  let older := match s.blu.cfgA, s.blu.cfgB with
    | none, _ => true
    | some _, none => false
    | some a, some b => decide (a.seq.toNat ≤ b.seq.toNat)
  if older then { s with blu := { s.blu with cfgA := some k } } else { s with blu := { s.blu with cfgB := some k } }

/-- CONFIG_STAGE: a copy of at most 1 MiB. -/
def State.takeCfg (cfg : OwnerCfg) (proof : OwnerProof) (s : State) : State :=
  s.ownerCmd 0x10 (cfgBody cfg ++ cfg.sig) proof (fun s =>
    if 1048576 < (cfgBody cfg).length + cfg.sig.length then (s, 4) else (s.stageCfg cfg, 0))

def execConfigStage (cfg : OwnerCfg) (proof : OwnerProof) (s : State) : Host.Outcome State Fault Refusal :=
  .next (s.ask (.configStage cfg proof) (State.takeCfg cfg proof))

def State.stageToken (token : List Byte) (s : State) : State :=
  if 8 ≤ s.blu.tokens.length then s.answer 0x11 4 []
  else ({ s with blu := { s.blu with tokens := s.blu.tokens ++ [token] } }).answer 0x11 0 []

/-- TOKEN_STAGE: one that comes while stage 2 does not run yet is staged once it does (R446, R466). -/
def execTokenStage (token : List Byte) (s : State) : Host.Outcome State Fault Refusal := .next (s.ask (.tokenStage token) (State.stageToken token))

/-- RESET: the module resets from the start of R430; the next Bluone reset has killed every nonce. -/
def State.ownerReset (proof : OwnerProof) (s : State) : State := s.ownerCmd 0x12 [] proof (fun s => (s.moduleReset, 0))

def execReset (proof : OwnerProof) (s : State) : Host.Outcome State Fault Refusal := .next (s.ask (.reset proof) (State.ownerReset proof))

/-- ROUTE_WRITE: up to 64 entries, each judged as R295 does. -/
def State.takeRoutes (entries : List (Nat × Half)) (proof : OwnerProof) (s : State) : State :=
  s.ownerCmd 0x21 ((entries.map (fun e => leBytes 2 e.1 ++ leBytes 2 e.2.toNat)).flatten) proof (fun s =>
    if 64 < entries.length ∨ entries.any (fun e => decide (16384 ≤ e.1)) then (s, 4)
    else (entries.foldl (fun s e => s.writeRoute e.1 e.2) s, 0))

def execRouteWrite (entries : List (Nat × Half)) (proof : OwnerProof) (s : State) : Host.Outcome State Fault Refusal :=
  .next (s.ask (.routeWrite entries proof) (State.takeRoutes entries proof))

/-- PORT_CTL: LNK_PORT_CTL of one port. -/
def State.takePortCtl (port : Nat) (v : DWord) (proof : OwnerProof) (s : State) : State :=
  s.ownerCmd 0x22 (leBytes 1 port ++ leBytes 8 v.toNat) proof (fun s =>
    if s.hasPort port then (s.writePortCtl port v, 0) else (s, 4))

def execPortCtl (port : Nat) (v : DWord) (proof : OwnerProof) (s : State) : Host.Outcome State Fault Refusal :=
  .next (s.ask (.portCtl port v proof) (State.takePortCtl port v proof))

/-- PMT_FORMAT (R440): refused unless the tier is present and every context is EMPTY. -/
def State.startFormat (proof : OwnerProof) (s : State) : State :=
  s.ownerCmd 0x30 [] proof (fun s =>
    if !s.variant.full || s.formatting || s.ctxs.any (fun e => decide (e.2.st ≠ .empty)) then (s, 3)
    else ({ s with formatting := true }.modPmt (fun p => { p with inService := false }), 0))

def execPmtFormat (proof : OwnerProof) (s : State) : Host.Outcome State Fault Refusal := .next (s.ask (.pmtFormat proof) (State.startFormat proof))

/-- An owner command that has waited is served. -/
def State.serveOwner (i : Instr) (s : State) : State :=
  match i with
  | .getNonce => s.giveNonce
  | .readReg a => s.giveReg a
  | .recoveryBundle b => s.takeBundle b
  | .configStage k p => s.takeCfg k p
  | .tokenStage t => s.stageToken t
  | .reset p => s.ownerReset p
  | .pwrSet v p => s.pwrSet v p
  | .routeWrite es p => s.takeRoutes es p
  | .portCtl n v p => s.takePortCtl n v p
  | .pmtFormat p => s.startFormat p
  | _ => s

/-- The commands that have waited are served in their order; one that a RESET among them leaves unheard waits again. -/
def State.serveWaiting (s : State) : State :=
  s.blu.waiting.foldl (fun s i => s.ask i (State.serveOwner i)) { s with blu := { s.blu with waiting := [] } }

/-! ### The ROM and the stages after it -/

/-- The ROM boots; in recovery too Bluone hears the commands that have waited. -/
def execRomBoot (ms : Nat) (bad : RomFuses) (s : State) : Host.Outcome State Fault Refusal :=
  let t := s.runRom ms bad
  .next (if t.inRecovery && !s.inRecovery then t.serveWaiting else t)

/-- Stage 2 is loaded by stage 1, and the training images by stage 2 (R433); the commands that have waited are then served (R446). -/
def execStageLoaded (stage ms : Nat) (s : State) : Host.Outcome State Fault Refusal :=
  let b := s.blu.slot s.sec.bootSlot.toNat
  .next (if stage = 2 ∧ s.blu.stage = 1 then
      if imageOk b 2 then
        (((({ s with blu := { s.blu with stage := 2 } }).measure 4 (imageDigest b 2)).stepDone 2).setPhase 2 ms).serveWaiting
      else s.imageFails
    else if stage = 3 ∧ s.blu.stage = 2 then
      if imageOk b 3 && imageOk b 4 && imageOk b 5 then
        (((({ s with blu := { s.blu with stage := 3 } }).measure 5 (imageDigest b 3)).measure 6 (imageDigest b 4)).measure 7
          (imageDigest b 5) |>.stepDone 5).setPhase 3 ms
      else s.imageFails
    else s)

/-- The region that stands for a physical region in the end: the i-th that was retired was moved to the i-th wear-reserve region (R251). -/
def PmtDev.heir (d : PmtDev) : Nat → Nat → Nat
  | 0, p => p
  | fuel + 1, p => if d.retired.contains p then d.heir fuel (reserveFirst + d.retired.idxOf p) else p

/-- A factory defect is entered in the remap table with the next spare line, unless its slot has one (R250). -/
def PmtDev.enterDefect (d : PmtDev) (slot : Nat) : PmtDev :=
  if (tkeys d.remap).contains slot then d
  else if d.spares < spareLines then { d with remap := tput d.remap slot (spareFirst * regionLines + d.spares), spares := d.spares + 1 }
  else { d with exhausted := true }

/-- A device as the format leaves it: erased, the factory defects spared in order, and what wear has taken from it, worn regions and spare lines,
as it is, since the conditions of wear never clear (R234, R250, R252; log entry 30). -/
def PmtDev.format (d : PmtDev) (defects : List Nat) : PmtDev :=
  defects.foldl PmtDev.enterDefect { d with
    map := (d.retired.filter (fun p => decide (p < spareFirst))).foldl (fun t p => tput t p (d.heir d.retired.length p)) []
    regions := [], bad := [], written := [], swap := none, swapPtr := 0, dew := false, dewNext := 0, retryLast := [], retryNow := [], rewriteQ := []
    urgent := false }

/-- The format ends (R234): the tier is erased, the layout is chosen, and the tier is in service. `defects` are the slots that each device's
factory defect list names (mode register 0x02). -/
def execPmtFormatEnd (defects : List (List Nat)) (s : State) : Host.Outcome State Fault Refusal :=
  .next (if !s.formatting then s
    else
      let ilv := (List.range 8).all (fun n => (s.pdev n).state == 2)
      let s1 : State := { s with formatting := false, mem := s.mem.filter (fun c => decide (c.1 < pmtBase) || decide (0x800000000000 ≤ c.1)) }
      let s2 := s1.modPmt (fun p => { p with formatted := true, ilv := ilv })
      let s3 := (List.range 8).foldl (fun s n => s.modPdev n (fun d => d.format (defects.getD n []))) s2
      s3.modPmt (fun p => { p with inService := s3.tierUp }))

/-! ### SPDM (R438): the codes are those of DSP0274 (PRESUMED, log entry 7) -/

/-- The slot-0 chain. -/
def Bluone.chain (k : Bluone) : List Byte := k.certs ++ k.alias_

/-- A response over the management interface: MGT_ALERT_N goes low (R483). -/
def State.spdmOut (s : State) (code : Nat) (data : List Byte) : State :=
  ({ s with pins := { s.pins with alert := true } }).emit (.spdm code data)

/-- An SPDM request is answered once stage 2 runs, in the order of the connection; one out of order gets ERROR. -/
def State.spdmReply (s : State) (need code : Nat) (data : List Byte) (next : Nat) : State :=
  if s.blu.stage < 2 then s
  else if s.blu.spdm < need then s.spdmOut 0x7F [4]
  else ({ s with blu := { s.blu with spdm := next } }).spdmOut code data

/-- A reply signed with the attestation key of slot 1. -/
def State.spdmSigned (s : State) (code : Nat) (data : List Byte) : State :=
  (s.spdmReply 3 code (data ++ Config.sm2Sign s.free (tget [] s.blu.keys 1) data) s.blu.spdm).tick

def execGetVersion (s : State) : Host.Outcome State Fault Refusal := .next (s.spdmReply 0 0x04 [0x12] 1)
def execGetCapabilities (s : State) : Host.Outcome State Fault Refusal := .next (s.spdmReply 1 0x61 (Config.spdmBody 0x61 []) 2)
/-- SM2 and SM3 are selected where the requester offers them. -/
def execNegotiateAlgorithms (sm2 sm3 : Bool) (s : State) : Host.Outcome State Fault Refusal :=
  .next (s.spdmReply 2 0x63 (Config.spdmBody 0x63 [BitVec.ofNat 8 (b2n sm2), BitVec.ofNat 8 (b2n sm3)]) (if sm2 && sm3 then 3 else 2))
def execGetDigests (s : State) : Host.Outcome State Fault Refusal := .next (s.spdmReply 3 0x01 (Config.sm3 s.blu.chain) s.blu.spdm)
/-- Part of the chain of a slot; slot 0 alone is there. -/
def execGetCertificate (slot off len : Nat) (s : State) : Host.Outcome State Fault Refusal :=
  .next (if slot = 0 ∧ off ≤ s.blu.chain.length then s.spdmReply 3 0x02 (slice s.blu.chain off len) s.blu.spdm
    else if s.blu.stage < 2 then s else s.spdmOut 0x7F [1])
def execChallenge (slot : Nat) (nonce : List Byte) (s : State) : Host.Outcome State Fault Refusal :=
  .next (if slot = 0 then s.spdmSigned 0x03 (Config.spdmBody 0x03 (Config.sm3 s.blu.chain ++ (s.blu.measures.map (·.2)).flatten ++ nonce))
    else if s.blu.stage < 2 then s else s.spdmOut 0x7F [1])
/-- One measurement by index, or every one with index 0xFF; index 0 asks for their number. -/
def execGetMeasurements (index : Nat) (nonce : List Byte) (s : State) : Host.Outcome State Fault Refusal :=
  .next (if index = 0 then s.spdmSigned 0x60 (Config.spdmBody 0x60 (BitVec.ofNat 8 s.blu.measures.length :: nonce))
    else if index = 0xFF then s.spdmSigned 0x60 (Config.spdmBody 0x60 ((s.blu.measures.map (fun e => BitVec.ofNat 8 e.1 :: e.2)).flatten ++ nonce))
    else if index ≤ 10 then s.spdmSigned 0x60 (Config.spdmBody 0x60 (BitVec.ofNat 8 index :: s.blu.measured index ++ nonce))
    else if s.blu.stage < 2 then s else s.spdmOut 0x7F [1])

end Sys2Proof.Machine
end

