-- ==== Sys2Proof/Machine/RegWrite.lean ====
section
/-! DEFINITION. RegWrite.lean: what a write of each register does, whole or in halves (R10, R43, R425): setup windows, the domain control page and
the register address space. -/
namespace Sys2Proof.Machine

/-- A write: its value, and which halves it covers (R425). -/
structure Wr where
  v : DWord
  lo : Bool
  hi : Bool
  deriving DecidableEq, Repr

/-- A write of all eight bytes. -/
def Wr.whole (v : DWord) : Wr := ⟨v, true, true⟩

/-- The word that stands after the write of a register that held `cur`. -/
def Wr.merge (w : Wr) (cur : DWord) : DWord :=
  (if w.lo then w.v &&& 0xFFFFFFFF else cur &&& 0xFFFFFFFF) ||| (if w.hi then w.v &&& 0xFFFFFFFF00000000 else cur &&& 0xFFFFFFFF00000000)

/-- The write covers bit b with 1: an RW1C, RW1S or WO field acts. -/
def Wr.on (w : Wr) (b : Nat) : Bool := (if b < 32 then w.lo else w.hi) && bit w.v b

/-- An RW1C flag after the write. -/
def Wr.clear (w : Wr) (b : Nat) (f : Bool) : Bool := f && !w.on b

/-- The state that an outcome leaves. -/
def State.after (s : State) (o : Host.Outcome State Fault Refusal) : State :=
  match o with
  | .next t => t
  | _ => s

/-! ### Setup windows -/

/-- HST_CTX_CTRL: a command, or anything else, which is counted (R59). -/
def State.ctxCmd (s : State) (c cmd : Nat) : State :=
  match cmd with
  | 1 => s.after (execStart c s)
  | 2 => s.after (execSuspend c s)
  | 3 => s.after (execResume c s)
  | 4 => s.after (execClose c s)
  | 5 => s.after (execKill c s)
  | _ => s.ctrlIgnored c

/-- A write at an offset of a context's setup window; EMPTY contexts have none (R40). -/
def State.windowWrite (s : State) (c off : Nat) (w : Wr) : State :=
  let x := s.ctx c
  let m := w.merge (x.windowReg off)
  if !x.live then s
  else if 0x1000 ≤ off then
    let k := (off - 0x1000) / 0x40
    if !x.hasRing k then s
    else
      match off % 0x40 / 8 with
      | 0 => s.writeRingBase c k false m
      | 1 => s.writeRingBase c k true m
      | 2 => if w.lo then s.ringCfg c k m else s
      | 3 => s.modRing c k (fun r => { r with
          dbViol := w.clear 0 r.dbViol, cqViol := w.clear 1 r.cqViol, cfgViol := w.clear 2 r.cfgViol, fetchErr := w.clear 3 r.fetchErr
          writeErr := w.clear 4 r.writeErr })
      | _ => s
  else if 0x600 ≤ off ∧ off < 0x800 then
    let k := (off - 0x600) / 8
    if x.hasRing k ∧ w.lo then s.writeRingSeat c k m else s
  else
    match off / 8 * 8 with
    | 0x00 => if w.lo then s.after (execCtxCfgWrite c m s) else s
    | 0x10 => if w.lo then s.ctxCmd c (fld w.v 0 4) else s
    | 0x40 => s.after (execPtRootWrite c m s)
    | 0x50 => s.modCtx c (fun x => { x with xl := { x.xl with valid := w.clear 0 x.xl.valid } })
    | 0x400 => if w.lo ∧ x.st ≠ .dead then s.modCtx c (fun x => x.modSched (fun q => { q with priority := BitVec.ofNat 2 (fld m 0 2) })) else s
    | 0x408 => s.modCtx c (fun x => x.modSched (fun q => { q with seatLost := w.clear 3 q.seatLost, overrun := w.clear 4 q.overrun }))
    | _ => s

/-! ### Domains, the cyclic table -/

/-- HST_DOM_REQ (R365, R425): a write that covers OP acts, with the high half as it stands. -/
def State.writeDomReq (s : State) (h : Nat) (w : Wr) : State :=
  let s1 := if w.hi then s.modDom h (fun d => { d with reqHi := BitVec.ofNat 32 (fld w.v 32 32) }) else s
  if w.lo then s1.after (execCreate h (at_ (fld w.v 0 32) 0 ||| at_ (s1.dom h).reqHi.toNat 32) s1) else s1

/-- MOD_CYC_CFG (R376): PERIOD_US and LEAD_US are the shadow's; COMMIT is judged after the fields of the same write. -/
def State.writeCycCfg (s : State) (w : Wr) : State :=
  let m := w.merge s.sched.cyc.cfg
  let s1 := (s.runTable (bit m 0)).modCyc (fun c => { c with
    periodUs := BitVec.ofNat 17 (fld m 8 17), leadUs := BitVec.ofNat 11 (fld m 25 11)
    trim := if w.hi then BitVec.ofNat 16 (fld w.v 36 16) else c.trim })
  if w.on 1 then s1.after (execCyclicCommit s1) else s1

/-- MOD_CYC_STAT: its flags clear. -/
def State.writeCycStat (s : State) (w : Wr) : State :=
  s.modCyc (fun c => { c with err := w.clear 0 c.err, overrun := w.clear 1 c.overrun, late := w.clear 2 c.late })

/-- MOD_CYC_SLOT(n): the shadow. -/
def State.writeCycSlot (s : State) (n : Nat) (w : Wr) : State :=
  let m := w.merge (tget CycSlot.reset s.sched.cyc.shadow n).reg
  let k : CycSlot := ⟨bit m 0, BitVec.ofNat 10 (fld m 1 10), BitVec.ofNat 12 (fld m 11 12), BitVec.ofNat 17 (fld m 23 17), BitVec.ofNat 17 (fld m 40 17)⟩
  s.modCyc (fun c => { c with shadow := tput c.shadow n k })

/-- HST_DOM_RSP.DONE clears. -/
def State.writeDomRsp (s : State) (h : Nat) (w : Wr) : State := s.modDom h (fun d => { d with done := w.clear 1 d.done })

/-- The flags of HST_LINK_STAT clear. -/
def Attach.clear (a : Attach) (w : Wr) : Attach :=
  { a with degraded := w.clear 7 a.degraded, viol := w.clear 8 a.viol, down := w.clear 9 a.down, foreign := w.clear 10 a.foreign }

/-- A write at an offset of a domain's control page (R425); the cyclic table is its owner domain's. -/
def State.pageWrite (s : State) (h off : Nat) (w : Wr) : State :=
  let mine := s.variant.cyclic && decide (s.sched.cyc.owner.toNat = h)
  if off = 0x000 then s.writeDomReq h w
  else if off = 0x008 then s.writeDomRsp h w
  else if off = 0x028 then s.after (execHbaseWrite h (w.merge (s.dom h).hwin) s)
  else if off = 0x030 then s.modAtt (s.attOf h) (fun a => a.clear w)
  else if off = 0x100 then (if mine then s.writeCycCfg w else s)
  else if off = 0x108 then (if mine then s.writeCycStat w else s)
  else if 0x200 ≤ off ∧ off < 0x400 then (if mine then s.writeCycSlot ((off - 0x200) / 8) w else s)
  else s

/-! ### The register address space: Bluone's writes -/

/-- MOD_SCHED_CFG (R374): 0 leaves QUANTUM_JOBS; SAVE_PER_TILE acts at boot, before DONE. What a SAVE_PER_TILE outside 16 to 768 does R374 does
not say: the field stays (DESIGN CHOICE, log entry 24). -/
def State.writeSchedCfg (s : State) (v : DWord) : State :=
  let q := fld v 0 16
  let n := fld v 48 10
  { s with sched := { s.sched with
    quantumJobs := if q = 0 then s.sched.quantumJobs else BitVec.ofNat 16 q
    idleLimit := BitVec.ofNat 16 (fld v 16 16), holdLimit := BitVec.ofNat 16 (fld v 32 16)
    savePerTile := if s.sec.done ∨ n < 16 ∨ 768 < n then s.sched.savePerTile else BitVec.ofNat 10 n } }

/-- SEC_LOCK_CTL.DONE is set: the locked ranges, STK_GIB and RSV_GIB freeze, the fence comparators are armed, and LOCKS takes the ranges in
use (R441, R467). -/
def State.lockDone (s : State) : State :=
  if s.sec.done then s
  else
    let used := ((List.range 16).filter (fun r => decide (fld (tget 0 s.sec.locks r) 48 16 ≠ 0))).map (2 ^ ·)
    let s1 := { s with sec := { s.sec with done := true, locksUsed := BitVec.ofNat 16 used.sum } }
    if s.boot.phase.toNat < 4 then s1.enterPhase 4 else s1

/-- The module block. -/
def State.lowWrite (s : State) (a : Nat) (w : Wr) : State :=
  let m := w.merge (s.lowReg a)
  if a = 0x20 then s.writeSchedCfg m
  else if a = 0x28 then
    (if s.sec.done ∨ 48 < fld m 0 6 then s else { s with boot := { s.boot with stkGib := BitVec.ofNat 6 (fld m 0 6) } })
  else if a = 0x30 then
    { s with err := { s.err with internal := w.clear 0 s.err.internal, fatal := w.clear 1 s.err.fatal, wrap := w.clear 2 s.err.wrap } }
  else if a = 0x38 then (if s.variant.cyclic then s.writeCycCfg w else s)
  else if a = 0x40 then (if s.variant.cyclic then s.writeCycStat w else s)
  else if 0x100 ≤ a ∧ a < 0x500 then
    let h := (a - 0x100) / 0x40
    match a % 0x40 / 8 with
    | 3 => s.writeDomReq h w
    | 4 => s.writeDomRsp h w
    | 5 => s.after (execHbaseWrite h m s)
    | _ => s
  else if 0x800 ≤ a ∧ a < 0xA00 then (if s.variant.cyclic then s.writeCycSlot ((a - 0x800) / 8) w else s)
  else if a = 0x1008 then s.writePwrCfg m
  else if a = 0x1010 then s.modPwr (fun p => { p with
    clamp := w.clear 0 p.clamp, therm := w.clear 1 p.therm, cap := w.clear 2 p.cap, conflict := w.clear 3 p.conflict, lowIn := w.clear 4 p.lowIn
    highIn := w.clear 5 p.highIn, miss := w.clear 7 p.miss })
  else if a = 0x2000 then { s with sec := { s.sec with slotFallback := w.clear 6 s.sec.slotFallback } }
  else if a = 0x2008 then (if w.on 0 then s.lockDone else s)
  else if 0x2080 ≤ a ∧ a < 0x2100 then
    (if s.sec.done then s else { s with sec := { s.sec with locks := tput s.sec.locks ((a - 0x2080) / 8) (m &&& ~~~0xFFFF) } })
  else if a = 0x2100 then { s with sec := { s.sec with crcBad := w.clear 5 s.sec.crcBad } }
  else if a = 0x3000 then s.writeLnkCfg m
  else if a = 0x3008 then s.modLnk (fun l => { l with routeIdx := BitVec.ofNat 14 (fld m 0 14) })
  else if a = 0x3010 then (if w.lo then s.writeRoute s.lnk.routeIdx.toNat (BitVec.ofNat 16 (fld m 0 16)) else s)
  else s

/-- The block of tile t. -/
def State.tileWrite (s : State) (t o : Nat) (w : Wr) : State :=
  if s.nTiles ≤ t then s
  else
    match o with
    | 0x08 => s.modTile t (fun k => { k with sliceFull := w.clear 16 k.sliceFull })
    | 0x10 => s.modTile t (fun k => { k with bmapFull := w.clear 48 k.bmapFull })
    | 0x18 => s.modTile t (fun k => { k with
        fViol := w.clear 0 k.fViol, fHoldFull := w.clear 1 k.fHoldFull, fRdrop := w.clear 2 k.fRdrop, fSlotWait := w.clear 3 k.fSlotWait })
    | 0x28 => s.modTile t (fun k => { k with ce := w.clear 0 k.ce, ue := w.clear 1 k.ue, array := w.clear 2 k.array, held := w.clear 3 k.held })
    | 0xC0000 => if s.sec.done ∨ ¬ w.lo then s else s.modStack t (fun k => { k with rsvGib := BitVec.ofNat 8 (fld w.v 0 8) })
    | 0xC0008 => s.modStack t (fun k => { k with guard := w.clear 16 k.guard })
    | 0xC0010 => s.modStack t (fun k => { k with ce := w.clear 0 k.ce, ue := w.clear 1 k.ue, pinSuspect := w.clear 2 k.pinSuspect })
    | _ => s

/-- PMT_WL_CFG of a die (R253, R258): PSI from 4 to 32; a WR_CAP above the level's rate is a conflict of each device, once per change. -/
def State.writeWlCfg (s : State) (i : Nat) (m : DWord) : State :=
  let psi := fld m 0 6
  let was := (s.pdie (4 * i)).wrCap
  let s1 := s.modPdie (4 * i) (fun k => { k with
    psi := if 4 ≤ psi ∧ psi ≤ 32 then BitVec.ofNat 6 psi else k.psi, swapDelta := BitVec.ofNat 16 (fld m 6 16), wrCap := BitVec.ofNat 16 (fld m 32 16) })
  if (s1.pdie (4 * i)).wrCap = was then s1 else (List.range 4).foldl (fun s k => s.capConflict (4 * i + k)) s1

/-- PMT_DEW_CFG of a die: DEW_BITS from 1 to 13. What a value outside does R258 does not say: the field stays (DESIGN CHOICE, log entry 78). -/
def State.writeDewCfg (s : State) (i : Nat) (m : DWord) : State :=
  let b := fld m 0 8
  s.modPdie (4 * i) (fun k => { k with
    dewBits := if 1 ≤ b ∧ b ≤ 13 then BitVec.ofNat 8 b else k.dewBits, dewMargin := BitVec.ofNat 8 (fld m 8 8), canary := BitVec.ofNat 8 (fld m 16 8) })

/-- The registers of a port. -/
def State.portWrite (s : State) (p i : Nat) (w : Wr) : State :=
  let m := w.merge ((s.port p).reg i)
  if !s.hasPort p then s
  else
    match i with
    | 0 => s.modPort p (fun k => { k with viol := w.clear 13 k.viol, quar := w.clear 14 k.quar, swap := w.clear 15 k.swap })
    | 1 => if w.lo then s.writePortCtl p m else s
    | 2 => s.writeTxCfg p m
    | 4 => s.modPort p (fun k => { k with expectEpid := BitVec.ofNat 14 (fld m 0 14), expectEn := bit m 14 })
    | _ => s

/-- The block of I/O die i. -/
def State.dieWrite (s : State) (i o : Nat) (w : Wr) : State :=
  let m := w.merge (s.dieBlock i o)
  if 0x2000 ≤ o ∧ o < 0x5000 then
    let r := (o - 0x2000) % 0x800
    if r < 0x30 then s.portWrite (6 * i + (o - 0x2000) / 0x800) (r / 8) w else s
  else if o = 0x6000 then s.modStore i (fun k => { k with spill := w.clear 11 k.spill, drop := w.clear 12 k.drop })
  else if o = 0x6008 then (if s.sec.done then s else s.modLnk (fun l => { l with spillGib := BitVec.ofNat 8 (fld m 0 8) }))
  else if o = 0x7000 then s.modAtt i (fun a => a.clear w)
  else if o = 0x7008 then s.modAtt (2 + i) (fun a => a.clear w)
  else if !s.variant.full then s
  else if o = 0x8000 then s.writeWlCfg i m
  else if o = 0x8008 then s.writeDewCfg i m
  else if 0x8100 ≤ o ∧ o < 0x9100 ∧ (o - 0x8100) % 0x400 = 0 then
    s.modPdev (4 * i + (o - 0x8100) / 0x400) (fun d => { d with uncorr := w.clear 3 d.uncorr, proto := w.clear 4 d.proto, therm := w.clear 5 d.therm })
  else s

/-- A write in the register address space; an address that names no register ignores it (R470). -/
def State.spaceWrite (s : State) (addr : Nat) (w : Wr) : State :=
  if addr % 8 ≠ 0 then s
  else if addr < 0x1000000 then s.lowWrite addr w
  else if addr < 0x2000000 then s.tileWrite ((addr - 0x1000000) / 0x100000) (addr % 0x100000) w
  else if addr < 0x2200000 then s.dieWrite ((addr - 0x2000000) / 0x100000) (addr % 0x100000) w
  else s

/-- A write of a register whole. -/
def execRegisterWrite (target : RegTarget) (v : DWord) (s : State) : Host.Outcome State Fault Refusal :=
  .next (match target with
    | .space a => s.spaceWrite a (Wr.whole v)
    | .window c off => if off % 8 = 0 then s.windowWrite c off (Wr.whole v) else s)

/-- SEC_LOCK_CTL.DONE (R441). -/
def execSecLockDone (s : State) : Host.Outcome State Fault Refusal := .next s.lockDone

end Sys2Proof.Machine
end

