-- ==== Sys2Proof/Machine/HostSide.lean ====
section
/-! DEFINITION. HostSide.lean: what meets the module at its host attachments (R416 to R431): HMS, snoops, register accesses, the answers to the
module's own requests, links that come and go, and the loss of a domain. -/
namespace Sys2Proof.Machine

/-! ### The log and the flags of an attachment (R428) -/

/-- An entry of an attachment's log. -/
def Attach.note (a : Attach) (cls dom detail : Nat) : Attach :=
  { a with log := a.log.add 32 (fun o => [at_ cls 0 ||| at_ (dom % 16) 4 ||| at_ (detail % 2 ^ 56) 8, at_ o.toNat 0]) }

/-- A violation of R427: VIOL, its count, and an entry. -/
def State.hostViolation (s : State) (i cls dom detail : Nat) : State :=
  s.modAtt i (fun a => { a.note cls dom detail with viol := true, violCnt := satInc a.violCnt })

/-- An access to a context that the domain does not own (R425): a violation of R427, with FOREIGN and its count. -/
def State.foreignAccess (s : State) (i dom detail : Nat) : State :=
  (s.hostViolation i 8 dom detail).modAtt i (fun a => { a with foreign := true, foreignCnt := satInc a.foreignCnt })

/-- The link is up: active or degraded. -/
def Attach.active (a : Attach) : Bool := a.state == 3 || a.state == 4

/-- Domains that MOD_DOM_MAP places on attachment i. -/
def State.domsOf (s : State) (i : Nat) : List Nat := (List.range 16).filter (fun h => decide ((s.dom h).attach.toNat = i + 1))

/-- The domain of a function of an attachment. -/
def State.domAt (s : State) (i fn : Nat) : Option Nat := (s.domsOf i).find? (fun h => decide ((s.dom h).index.toNat = fn))

/-! ### The host memory stream (R421, R422) -/

/-- Bits [63:0] of an HMS header; bits [127:64] are BEN (R421). -/
def hmsHeader (op tag dom line : Nat) : DWord := at_ op 0 ||| at_ tag 4 ||| at_ dom 16 ||| at_ line 24

/-- The command that a message of the host spells: a read, a write, or a header that R422 drops for its OP or its reserved field. The module
reads nothing of the host die's over HMS, so a completion answers nothing. -/
def hmsCommand (i : Nat) (lo hi : DWord) (data : List Byte) : Option Instr :=
  let op := fld lo 0 4
  let dom := fld lo 16 4
  if fld lo 20 4 ≠ 0 ∨ op = 0 ∨ 5 ≤ op then some (.hmsBadHeader i dom)
  else if op = 1 then some (.hmsRd i (fld lo 4 12) dom (fld lo 24 40))
  else if op = 2 then some (.hmsWr i dom (fld lo 24 40) hi data)
  else none

/-- The request passes the first check of R422: the domain is a partition homed on the attach's I/O die whose window has been placed, and the
line lies in it. -/
def State.hmsOk (s : State) (i dom line : Nat) : Bool :=
  let d := s.dom dom
  !d.external && !d.noWindow && decide (d.attach ≠ 0) && decide (b2n d.homeIo = i) && decide (line * 64 + 64 ≤ d.pwinBytes)

/-- Physical address of a line of a partition window (R426). -/
def State.hmsPa (s : State) (dom line : Nat) : Nat := mrdimmBase + (s.dom dom).pwinBase.toNat * gib + line * 64

/-- The host die meets an uncorrectable line: counted at the channel and logged; no descriptor asks for it (R449, R458). -/
def State.hmsUncorr (s : State) (pa : Nat) : State :=
  let ch := match s.backing pa with
    | .dimm n => n
    | _ => 0
  (s.modDimm ch (fun k => { k with ueCnt := satInc k.ueCnt })).errLog 3 4 ch 0x1F (BitVec.ofNat 64 pa) LogWho.none

def execHmsRd (i tag dom line : Nat) (s : State) : Host.Outcome State Fault Refusal :=
  let pa := s.hmsPa dom line
  .next (if 2 ≤ i ∨ ¬ (s.att i).active then s
    else if !s.hmsOk i dom line then (s.hostViolation i 7 dom (line * 64)).emit (.cple i (hmsHeader 4 tag dom line) 0)
    else if s.lineBad (pa / 64) then ((s.hmsUncorr pa).hostViolation i 7 dom (line * 64)).emit (.cple i (hmsHeader 4 tag dom line) 0)
    else s.emit (.cpld i (hmsHeader 3 tag dom line) 0 (s.peek pa 64)))

/-- The bytes of a line after a write of those that BEN enables. -/
def mergeBen (ben : DWord) (old data : List Byte) : List Byte :=
  (List.range 64).map (fun k => if bit ben k then data.getD k 0 else old.getD k 0)

/-- A write of part of an uncorrectable line is not made (R217, R214); one of the whole line replaces it. -/
def execHmsWr (i dom line : Nat) (ben : DWord) (data : List Byte) (s : State) : Host.Outcome State Fault Refusal :=
  let pa := s.hmsPa dom line
  let whole := decide (ben = BitVec.allOnes 64)
  .next (if 2 ≤ i ∨ ¬ (s.att i).active then s
    else if !s.hmsOk i dom line then s.hostViolation i 7 dom (line * 64)
    else if s.lineLost (pa / 64) || (!whole && s.lineBad (pa / 64)) then s.hmsUncorr pa
    else
      let s1 := s.poke pa (mergeBen ben (s.peek pa 64) data)
      if whole then { s1 with ueLines := s1.ueLines.filter (· != pa / 64) } else s1)

def execHmsBadHeader (i dom : Nat) (s : State) : Host.Outcome State Fault Refusal :=
  .next (if i < 2 ∧ (s.att i).active then s.hostViolation i 7 dom 0 else s)

/-! ### Snoops (R420, R427) -/

def execH2dSnoop (i cacheId addr : Nat) (s : State) : Host.Outcome State Fault Refusal :=
  .next (if 2 ≤ i ∨ ¬ (s.att i).active then s
    else
      let s1 := if (s.domAt i cacheId).isSome then s else s.hostViolation i 6 0 addr
      s1.emit (.rspIHitI i cacheId))

/-! ### Register accesses (R425, R427, R469, R490) -/

def bar0Bytes : Nat := 0x2000000

/-- A register access is of 4 B or 8 B, naturally aligned. -/
def sizeOk (off size : Nat) : Bool := (size == 4 || size == 8) && off % size == 0

/-- The half, or the whole, of a register that an access covers. -/
def takePart (v : DWord) (off size : Nat) : Nat :=
  if size = 8 then v.toNat else if off % 8 = 0 then fld v 0 32 else fld v 32 32

/-- The write that an access makes. -/
def partWr (off size : Nat) (data : DWord) : Wr :=
  if size = 8 then Wr.whole data else if off % 8 = 0 then ⟨data &&& 0xFFFFFFFF, true, false⟩ else ⟨data <<< 32, false, true⟩

/-- The context whose page holds an offset of BAR0, and the offset in its page: doorbell pages, then setup windows. -/
def doorbellOf (off : Nat) : Option (Nat × Nat) :=
  if 0x400000 ≤ off ∧ off < 0x800000 then some ((off - 0x400000) / 0x1000, off % 0x1000) else none
def windowOf (off : Nat) : Option (Nat × Nat) :=
  if 0x800000 ≤ off ∧ off < 0x1000000 then some ((off - 0x800000) / 0x2000, (off - 0x800000) % 0x2000) else none

/-- The domain owns the context. -/
def State.owns (s : State) (h c : Nat) : Bool := (s.ctx c).live && decide (s.ctxDom c = h)

/-- The MSI-X words of a domain (R425). -/
def Dom.msixReg (d : Dom) (off : Nat) : DWord :=
  let e := tget msixReset d.msix (off / 16)
  if off % 16 < 8 then e.1 else e.2
def Dom.pbaReg (d : Dom) (i : Nat) : DWord :=
  BitVec.ofNat 64 (((List.range 64).filter (fun b => d.pba.contains (64 * i + b))).map (2 ^ ·)).sum

/-- A pending vector that is masked no more sends its message. -/
def State.sendPending (s : State) (h v : Nat) : State :=
  if (s.dom h).pba.contains v ∧ ¬ (s.dom h).vectorMasked v then
    (s.modDom h (fun d => { d with pba := d.pba.filter (· != v) })).emit (.irq h v)
  else s

/-- A write of an MSI-X entry; a vector that is unmasked while it is pending sends its message. -/
def State.writeMsix (s : State) (h off : Nat) (w : Wr) : State :=
  let v := off / 16
  let s1 := s.modDom h (fun d =>
    let e := tget msixReset d.msix v
    let m := w.merge (d.msixReg off)
    { d with msix := tput d.msix v (if off % 16 < 8 then (m, e.2) else (e.1, m &&& 0x1FFFFFFFF)) })
  s1.sendPending h v

/-- MSI-X's enable and function mask: the pending vectors that are masked no more send their messages. -/
def State.writeMsixCtl (s : State) (h : Nat) (enable mask : Bool) : State :=
  (List.range 256).foldl (fun s v => s.sendPending h v) (s.modDom h (fun d => { d with msixEn := enable, msixMask := mask }))

/-- A register of an enabled domain's BAR0 outside the doorbell pages. -/
def State.barReg (s : State) (h off : Nat) : DWord :=
  match windowOf off with
  | some (c, o) => if s.owns h c then (s.ctx c).windowReg o else 0
  | none =>
    if off < 0x1000 then s.pageReg h (off / 8 * 8)
    else if 0x40000 ≤ off ∧ off < 0x41000 then (s.dom h).msixReg (off - 0x40000)
    else if 0x41000 ≤ off ∧ off < 0x41020 then (s.dom h).pbaReg ((off - 0x41000) / 8)
    else 0

/-- A write of a register of an enabled domain's BAR0 outside the doorbell pages. -/
def State.barWrite (s : State) (h off : Nat) (w : Wr) : State :=
  match windowOf off with
  | some (c, o) => if s.owns h c then s.windowWrite c o w else s
  | none =>
    if off < 0x1000 then s.pageWrite h (off / 8 * 8) w
    else if 0x40000 ≤ off ∧ off < 0x41000 then s.writeMsix h (off - 0x40000) w
    else s

/-- A write in a doorbell page (R36). -/
def State.doorbellWrite (s : State) (c o size : Nat) (data : DWord) : State :=
  let k := o / 0x40
  let v := BitVec.ofNat 32 (fld data 0 32)
  if size ≠ 4 then s.after (execDoorbellStrayWrite c o s)
  else
    match o % 0x40 with
    | 0x00 => s.after (execSqTailWrite c k v s)
    | 0x08 => s.after (execCqHeadWrite c k v s)
    | 0x10 => s.after (execIrqArm c k s)
    | _ => s.after (execDoorbellStrayWrite c o s)

/-- A context named by an access that is not the domain's (R425). -/
def State.foreignCtx (s : State) (h off : Nat) : Bool :=
  match doorbellOf off with
  | some (c, _) => !s.owns h c
  | none =>
    match windowOf off with
    | some (c, _) => !s.owns h c
    | none => false

/-- A read of BAR0: the state that it leaves, and the data. A domain that is not enabled answers so too, with all but its page reading 0 (R490). -/
def State.barRead (s : State) (i h off size : Nat) : State × Nat :=
  let s1 := if s.foreignCtx h off then s.foreignAccess i h off else s
  if (doorbellOf off).isSome || (!(s.dom h).en && decide (0x1000 ≤ off)) then (s1, 0)
  else (s1, takePart (s.barReg h off) off size)

/-- A write to BAR0. -/
def State.barStore (s : State) (i h off size : Nat) (data : DWord) : State :=
  if s.foreignCtx h off then s.foreignAccess i h off
  else if !(s.dom h).en && decide (0x1000 ≤ off) then s
  else
    match doorbellOf off with
    | some (c, o) => s.doorbellWrite c o size data
    | none => s.barWrite h off (partWr off size data)

/-- A read of 4 B of the capability DVSEC (R469): the low dword of a register latches it whole. The headers but for the vendor's numbers are the
PCIe standard's layout (log entry 20). -/
def State.dvsecRead (s : State) (i fn off : Nat) : State × Nat :=
  if off < 0x10 then
    (s, match off with
      | 0x00 => 0x0023 + 0x10000 + Config.dvsecNext.toNat * 0x100000
      | 0x04 => Config.vendorId.toNat + 0x10000 + 0x90 * 0x100000
      | 0x08 => 0x0001
      | _ => 0)
  else if 0x90 ≤ off then (s, 0)
  else
    let reg := off / 8 * 8
    if off % 8 = 0 then
      let v := s.dvsecReg reg
      (s.modAtt i (fun a => { a with latch := tput a.latch fn (tput (tget [] a.latch fn) reg v) }), fld v 0 32)
    else (s, fld (tget (s.dvsecReg reg) (tget [] (s.att i).latch fn) reg) 32 32)

/-- The Device ID (R490). -/
def State.deviceId (s : State) : Nat := if s.variant = .ms08 then 0x9608 else 0x9612

/-- A dword of a function's configuration header: Vendor ID and Device ID, Revision ID, and the one BAR, 64-bit, non-prefetchable and of
32 MiB, where the PCIe standard has them (R425, R490, log entry 20); the others are free. -/
def State.headerRead (s : State) (i fn off : Nat) : Nat :=
  let bar : DWord := tget 0 (s.att i).bar fn
  if off = 0 then Config.vendorId.toNat + s.deviceId * 2 ^ 16
  else if off = 8 then Config.revisionId.toNat + Config.classCode.toNat * 2 ^ 8
  else if off = 0x10 then fld bar 0 32 + 4
  else if off = 0x14 then fld bar 32 32
  else if 0x18 ≤ off ∧ off < 0x28 then 0
  else (Config.cfgWord off).toNat

/-- A write of the low or the high dword of BAR0's address: the bits below its 32 MiB stay 0. -/
def State.writeBar (s : State) (i fn : Nat) (high : Bool) (v : Word) : State :=
  s.modAtt i (fun a =>
    let was : DWord := tget 0 a.bar fn
    { a with bar := tput a.bar fn (if high then at_ (fld was 0 32) 0 ||| at_ v.toNat 32
                                   else at_ (v.toNat / bar0Bytes * bar0Bytes) 0 ||| at_ (fld was 32 32) 32) })

/-- MSI-X's Message Control: 256 vectors, the function mask and the enable (PRESUMED, the PCIe standard's; log entry 20). -/
def msixControl (m : Bool × Bool) : Nat := 255 + b2n m.2 * 2 ^ 14 + b2n m.1 * 2 ^ 15

/-- Bits of AER's uncorrectable-error status (PRESUMED, the PCIe standard's; log entry 20). -/
def aerPoisoned : Nat := 12
def aerMalformed : Nat := 18
def aerEcrc : Nat := 19
/-- An error is reported through AER of the receiving function (R427). -/
def State.aerReport (s : State) (i fn b : Nat) : State :=
  s.modAtt i (fun a => { a with aer := tput a.aer fn (tget 0 a.aer fn ||| (1#32 <<< b)) })

/-- A write of a function's power state: PCIe functions have D0 and D3hot (R423). -/
def Attach.setPower (a : Attach) (fn : Nat) (d3 : Bool) : Attach :=
  { a with d3 := (a.d3.filter (· != fn)) ++ (if d3 then [fn] else []) }

/-- An access to a function's configuration space beside its DVSEC (R419, R423, R490). -/
def State.cfgAccess (s : State) (i fn off : Nat) (kind : TlpKind) : State :=
  match kind with
  | .header => s.emit (.tlpData i (s.headerRead i fn off))
  | .bar high v => s.writeBar i fn high v
  | .aer => s.emit (.tlpData i (tget 0 (s.att i).aer fn).toNat)
  | .aerClear v => s.modAtt i (fun a => { a with aer := tput a.aer fn (tget 0 a.aer fn &&& ~~~v) })
  | .power d3 => if 2 ≤ i then s.modAtt i (fun a => a.setPower fn d3) else s
  | .msix enable mask =>
    match s.domAt i fn with
    | some h => s.writeMsixCtl h enable mask
    | none => s.modAtt i (fun a => { a with loneMsix := (enable, mask) })
  | .msixRead =>
    s.emit (.tlpData i (msixControl (match s.domAt i fn with
      | some h => ((s.dom h).msixEn, (s.dom h).msixMask)
      | none => (s.att i).loneMsix)))
  | _ => s

/-- The functions that an attachment presents: those of its domains, and on a PCIe port with none function 0 alone (R419, R490). -/
def State.hasFunction (s : State) (i fn : Nat) : Bool :=
  (s.domAt i fn).isSome || (decide (2 ≤ i) && (s.domsOf i).isEmpty && fn == 0)

/-- Configuration requests are answered: the owner configuration has been loaded; without one the steps that answer them do not run (R430
step 3, R463, R464). -/
def State.answersCfg (s : State) : Bool := s.boot.steps.contains 10 && s.sec.configOk

/-- A configuration request (R427, R430): Request Retry Status of every function until step 3 of R430 has ended, Unsupported Request of one that
is not there. -/
def State.cfgRequest (s : State) (i fn h off : Nat) (kind : TlpKind) : State :=
  if !s.answersCfg then s.emit (.tlpRrs i)
  else if !s.hasFunction i fn then (s.hostViolation i 2 h off).emit (.tlpUr i)
  else s.cfgAccess i fn off kind

/-- A host access to a function of an attachment (R425, R427); in D3hot a function answers configuration requests alone (PRESUMED, the PCIe
standard's; log entry 20). -/
def execHostRegisterTlp (i fn off : Nat) (kind : TlpKind) (s : State) : Host.Outcome State Fault Refusal :=
  let h := (s.domAt i fn).getD 0
  let lone := (s.domAt i fn).isNone
  .next (if 4 ≤ i ∨ ¬ (s.att i).active then s
    else
      match kind with
      | .malformed => (s.hostViolation i 1 h off).aerReport i fn aerMalformed
      | .ecrc => (s.hostViolation i 1 h off).aerReport i fn aerEcrc
      | .poisoned => (s.hostViolation i 3 h off).aerReport i fn aerPoisoned
      | .config =>
        if !s.answersCfg then s.emit (.tlpRrs i)
        else if !s.hasFunction i fn then (s.hostViolation i 2 h off).emit (.tlpUr i)
        else if off % 4 ≠ 0 then (s.hostViolation i 2 h off).emit (.tlpUr i)
        else
          let r := s.dvsecRead i fn off
          r.1.emit (.tlpData i r.2)
      | .header => s.cfgRequest i fn h off .header
      | .bar high v => s.cfgRequest i fn h off (.bar high v)
      | .aer => s.cfgRequest i fn h off .aer
      | .aerClear v => s.cfgRequest i fn h off (.aerClear v)
      | .power d3 => s.cfgRequest i fn h off (.power d3)
      | .msix enable mask => s.cfgRequest i fn h off (.msix enable mask)
      | .msixRead => s.cfgRequest i fn h off .msixRead
      | .read size =>
        if !s.hasFunction i fn || decide (bar0Bytes < off + size) || (s.att i).d3.contains fn then (s.hostViolation i 2 h off).emit (.tlpUr i)
        else if lone then s.emit (.tlpData i 0)
        else if (doorbellOf off).isNone && !sizeOk off size then (s.hostViolation i 2 h off).emit (.tlpUr i)
        else
          let r := s.barRead i h off size
          r.1.emit (.tlpData i r.2)
      | .write size data =>
        if !s.hasFunction i fn || decide (bar0Bytes < off + size) || (s.att i).d3.contains fn then s.hostViolation i 2 h off
        else if lone then s
        else if (doorbellOf off).isNone && !sizeOk off size then s.hostViolation i 2 h off
        else s.barStore i h off size data)

/-! ### Answers to the module's own requests (R427, R488) -/

/-- The class of an error that answers a request of the domain: a GO-Err over CXL.cache, a read error over PCIe. -/
def State.errClass (s : State) (h : Nat) : Nat := if s.attOf h < 2 then 5 else 4

/-- A request of the domain has been answered with an error. -/
def State.hostError (s : State) (h addr : Nat) : State := s.hostViolation (s.attOf h) (s.errClass h) h addr

/-- The host address that a context virtual address stands for, where it lies in host memory. -/
def State.hostAddr (s : State) (w : Who) (va : Nat) (write : Bool) : Nat :=
  let c := w.ctx
  match s.xlate c (s.unitOf w) va 1 write with
  | .ok (pa, _) => s.hostX (s.ctxDom c) pa
  | .error _ => 0

/-- The host refuses a request of the module: a fetch, a completion record, or a descriptor's data. -/
def State.hostRefuses (s : State) (r : HostResp) : State :=
  match r with
  | .fetchErr c k =>
    let q := (s.ctx c).ring k
    if q.fetched = 0 then s
    else (s.hostError (s.ctxDom c) (q.sqBase.toNat + q.sqHead.toNat % q.slots * 64)).fetchError c k
  | .recordErr c k j =>
    let q := (s.ctx c).ring k
    if !q.pendingRecord j then s
    else (s.hostError (s.ctxDom c) (q.cqBase.toNat + j.toNat % q.slots * 32)).writeError c k j
  | .dataErr ref va write =>
    match s.desc ref with
    | some d =>
      if d.issued ∧ d.st ≠ .waiting then
        ((s.hostError (s.ctxDom ref.ctx) (s.hostAddr (d.who ref.ctx) va.toNat write)).recordFault ref.ctx va write 0 9 d.seq).finish ref.ctx ref.ring
          ref.index ⟨0x21, va⟩
      else s
    | none => s
  | _ => s

/-- A fetch read is answered with an error (R44), and the violation is logged (R427, R428). -/
def execFetchErr (c k : Nat) (s : State) : Host.Outcome State Fault Refusal := .next (s.hostRefuses (.fetchErr c k))

/-- The write of the record at CQ index j is refused (R44), and the violation is logged (R427, R428). -/
def execWriteErr (c k : Nat) (j : Word) (s : State) : Host.Outcome State Fault Refusal := .next (s.hostRefuses (.recordErr c k j))

/-- A host's answer: data for the module's view of its memory, an error, or an answer to nothing. -/
def execHostReadResponse (r : HostResp) (s : State) : Host.Outcome State Fault Refusal :=
  .next (match r with
    | .data h addr bytes =>
      if (s.dom h).en ∧ ((s.dom h).hostOffset addr).isSome ∧ ((s.dom h).hostOffset (addr + bytes.length - 1)).isSome then
        s.poke (s.hostPa h addr) bytes
      else s
    | .unknown i => if i < 4 ∧ (s.att i).active then s.hostViolation i 6 0 0 else s
    | _ => s.hostRefuses r)

/-- The domain that a response concerns. -/
def State.respDom (s : State) (r : HostResp) : Option Nat :=
  match r with
  | .fetchErr c _ => some (s.ctxDom c)
  | .recordErr c _ _ => some (s.ctxDom c)
  | .dataErr d _ _ => some (s.ctxDom d.ctx)
  | _ => none

/-- A read on a PCIe port has had no completion for 50 ms (R423). -/
def execPcieCompletionTimeout (r : HostResp) (s : State) : Host.Outcome State Fault Refusal :=
  .next (match s.respDom r with
    | some h => if (s.dom h).attach.toNat = 3 ∨ (s.dom h).attach.toNat = 4 then s.hostRefuses r else s
    | none => s)

/-! ### Loss of a domain (R429) -/

/-- A context of a lost domain: killed, no record written, and EMPTY. -/
def State.loseCtx (s : State) (c : Nat) : State :=
  if (s.ctx c).st = .empty then s
  else (((s.teardown c (killReg none 0x71)).modCtx c (fun x => { x with silent := true })).stopAll c).toEmpty c

def State.loseDomain (s : State) (h : Nat) : State :=
  let cs := (tkeys s.ctxs).filter (fun c => decide ((s.ctx c).st ≠ .empty) && decide (s.ctxDom c = h))
  let s1 := (cs.foldl State.loseCtx s).modDom h (fun d => { d with lostWhileBusy := d.busy })
  State.track s (s1.modAtt (s.attOf h) (fun a => a.note 10 h 0))

/-- A function after a reset of its own: in D0, BAR0's address 0 (PRESUMED, the PCIe standard's; log entry 20). -/
def Attach.resetFunction (a : Attach) (fn : Nat) : Attach := { a.setPower fn false with bar := a.bar.filter (fun e => e.1 != fn) }

/-- A function-level reset (R429): of a function that carries a domain its loss; a lone function 0 has none (R490). -/
def execFlr (i fn : Nat) (s : State) : Host.Outcome State Fault Refusal :=
  .next (if i < 4 ∧ (s.att i).active ∧ s.hasFunction i fn then
      (match s.domAt i fn with
        | some h => s.loseDomain h
        | none => s.modAtt i (fun a => { a with loneMsix := (false, false) })).modAtt i (fun a => a.resetFunction fn)
    else s)

/-- The link of an attachment goes down: its domains are lost (R429); their policies, EN among them, survive. -/
def State.attachDown (s : State) (i : Nat) : State :=
  let s1 := s.modAtt i (fun a => { a.note 9 0 0 with
    state := 1, width := 0, down := true, downCnt := satInc a.downCnt, latch := [], d3 := [], bar := [], loneMsix := (false, false) })
  (s.domsOf i).foldl State.loseDomain s1

def execDomainLoss (i : Nat) (s : State) : Host.Outcome State Fault Refusal :=
  .next (if i < 4 ∧ (s.att i).active then s.attachDown i else s)

/-- The owner configuration enables the domain, its window is placed, and its attachment is there and active (R424, R463, R464). -/
def State.mayEnable (s : State) (h : Nat) : Bool :=
  let want := match s.blu.cfg with
    | some k => bit (tget (0, 0, 0) k.domains h).2.1 0
    | none => false
  want && !(s.dom h).noWindow && decide (1 ≤ (s.dom h).attach.toNat) && decide ((s.dom h).attach.toNat ≤ 4) && (s.att (s.attOf h)).active

/-- Once bring-up has enabled the domains, an attachment that becomes active enables its own (R463 step 13, R464). -/
def State.enableDoms (s : State) (i : Nat) : State :=
  if s.boot.steps.contains 13 then
    (s.domsOf i).foldl (fun s h => if s.mayEnable h then s.modDom h (fun d => { d with en := true }) else s) s
  else s

/-- A UCIe attach has trained or retrained, with so many modules in service (R417); one that fails is logged (R464). -/
def execUcieRetrain (i modules : Nat) (s : State) : Host.Outcome State Fault Refusal :=
  let a := s.att i
  let n := if a.active then min modules a.width.toNat else min modules 4
  .next (if 2 ≤ i ∨ a.state = 0 then s
    else if n < 2 then
      (let s1 := s.modAtt i (fun a => { a with degraded := true })
       if a.active then s1.attachDown i else (s1.modAtt i (fun a => { a with state := 1, width := 0 })).bootFail 15 i)
    else
      let left := decide (n < if a.active then a.width.toNat else 4)
      (s.modAtt i (fun a => { a with state := if n = 4 then 3 else 4, width := BitVec.ofNat 4 n, degraded := a.degraded || left })).enableDoms i)

/-- No PCIe port trains: Bluone has halted with its own rail alone, or the module is in recovery (R435, R436). -/
def State.portsOff (s : State) : Bool := s.blu.halted || s.inRecovery

/-- A present PCIe port trains when PERST# deasserts (R430, R490). -/
def execPerstDeassert (port : Nat) (s : State) : Host.Outcome State Fault Refusal :=
  .next (if 2 ≤ port ∨ ¬ s.variant.full ∨ ¬ (s.att (2 + port)).perst then s
    else s.modAtt (2 + port) (fun a => { a with perst := false, state := if s.pins.inputGood && !s.portsOff then 2 else a.state }))

/-- PERST# is asserted: a fundamental reset of the port (R429, R466). -/
def execPerstAssert (port : Nat) (s : State) : Host.Outcome State Fault Refusal :=
  .next (if 2 ≤ port ∨ ¬ s.variant.full then s
    else
      let i := 2 + port
      let s1 := s.modAtt i (fun a => { a with perst := true })
      if (s.att i).active then s1.attachDown i
      else if (s.att i).state = 2 then s1.modAtt i (fun a => { a with state := 1 })
      else s1)

/-- A PCIe port's link has trained: the code of its width, and whether it runs at 64 GT/s (R428); width 0, its training has failed, which is
logged (R464). -/
def execPcieLinkTrained (port : Nat) (width : BitVec 4) (fast : Bool) (s : State) : Host.Outcome State Fault Refusal :=
  let i := 2 + port
  let a := s.att i
  .next (if 2 ≤ port ∨ ¬ s.variant.full ∨ a.perst ∨ a.state = 0 ∨ 5 < width.toNat ∨ s.portsOff then s
    else if width = 0 then (if a.active then s else (s.modAtt i (fun a => { a with state := 1 })).bootFail 15 i)
    else
      let whole := decide (width = 5) && fast
      (s.modAtt i (fun a => { a with state := if whole then 3 else 4, width := width, degraded := a.degraded || !whole })).enableDoms i)

end Sys2Proof.Machine
end

