-- ==== Sys2Proof/Machine/Bringup.lean ====
section
/-! DEFINITION. Bringup.lean: input good, the steps of power-up and their failures (R455, R462 to R468, R473), module reset, and the connectors'
presence pins (R476, R478). -/
namespace Sys2Proof.Machine

/-! ### Input (R462, R465, R476) -/

/-- Input good: the switch closes on a mated module, and MGT_ADDR is sampled (R462, R476, R483). -/
def execInputGood (addr : BitVec 3) (s : State) : Host.Outcome State Fault Refusal :=
  .next (if !s.pins.inPrsnt || s.pins.inputGood || s.pins.trip then s
    else { s with pins := { s.pins with switch := true, inputGood := true, mgtAddr := addr } })

/-- IN_PRSNT_N has been low for 20 ms, or has gone high: on a closed switch a power-fail event, after a trip the removal of the input. -/
def execInPrsntChange (low : Bool) (s : State) : Host.Outcome State Fault Refusal :=
  let s1 := { s with pins := { s.pins with inPrsnt := low } }
  .next (if low then (if s.pins.trip then s1 else { s1 with pins := { s1.pins with switch := true } })
    else if s.pins.trip then s1.openSwitch
    else if s.pins.switch then s1.powerFail
    else s1)

def execModuleReset (s : State) : Host.Outcome State Fault Refusal := .next (if s.pins.inputGood then s.moduleReset else s)

/-! ### Redundancy (R455, R456) -/

/-- n bytes of the active redundancy generation; zeros where none is active. -/
def State.redBytes (s : State) (off n : Nat) : List Byte :=
  match otpRedundancy.active s.blu.otp with
  | some g => mread s.blu.otp (otpRedundancy.gen g + off) n
  | none => List.replicate n 0

/-- The word of a core in the active redundancy generation. -/
def State.coreWord (s : State) (t c : Nat) : DWord :=
  match otpRedundancy.active s.blu.otp with
  | some g => mword s.blu.otp (otpRedundancy.gen g + 0x40 + 0x200 * t + 8 * c)
  | none => 0

/-- A tile's row repairs: unit, bank or bank group, row and spare row of each entry in use (R456). -/
def State.rowRepairs (s : State) (t : Nat) : List (Nat × Nat × Nat × Nat) :=
  let bs := s.redBytes (0x40 + 0x200 * t + 144) 256
  (List.range 64).filterMap (fun e =>
    let w := leNat (slice bs (4 * e) 4)
    if w.testBit 31 then some (w % 32, w / 32 % 128, w / 4096 % 32768, w / 2 ^ 27 % 16) else none)

/-- The pins of a stack that its record has HBM4 lane repair remap, 64 times the pseudo-channel and the pin (R456). -/
def State.recordPins (s : State) (n : Nat) : List Nat :=
  let bs := s.redBytes (0x1840 + 0x40 * n) 64
  (List.range 64).filterMap (fun k =>
    let b := bs.getD k 0
    if b.getLsbD 7 then some (64 * k + b.toNat % 64) else none)

/-- Quarters of a core that are in service. -/
def quarterMask (bypass : List (BitVec 6)) : BitVec 4 :=
  BitVec.ofNat 4 (((List.range 4).filter (fun q => bypass.getD q 0 != 0x3F)).map (2 ^ ·)).sum

/-- One quarter of a core is out of service. -/
def Core.narrow (k : Core) : Bool := ((List.range 4).filter (fun q => !k.quarterEn.getLsbD q)).length == 1

/-- Two quarters of a core are out of service: it is not enabled (R112). -/
def Core.crippled (k : Core) : Bool := decide (2 ≤ ((List.range 4).filter (fun q => !k.quarterEn.getLsbD q)).length)

/-- A tile applies the map; a core with two quarters out of service is not enabled, whatever the map's STATE says (R112). -/
def State.applyMap (s : State) (t : Nat) : State :=
  let w (c : Nat) : DWord := s.coreWord t c
  let mask (f : Nat → Bool) : BitVec 18 := BitVec.ofNat 18 (((List.range 18).filter f).map (2 ^ ·)).sum
  let core (c : Nat) : Core :=
    let b := (List.range 4).map (fun q => BitVec.ofNat 6 (fld (w c) (2 + 6 * q) 6))
    { Core.reset with bypass := b, quarterEn := quarterMask b }
  s.modTile t (fun k => { k with
    enabled := mask (fun c => fld (w c) 0 2 == 1 && !(core c).crippled), spare := mask (fun c => fld (w c) 0 2 == 2 && !(core c).crippled)
    narrowed := mask (fun c => fld (w c) 0 2 == 1 && (core c).narrow)
    rowSpares := s.rowRepairs t
    cores := (List.range 18).map (fun c => (c, core c)) })

/-- A quarter whose bad columns the self-test found: its bypass, or none where it leaves service. -/
def quarterTest (bypass : BitVec 6) (bad : List Nat) : BitVec 6 :=
  match bad.filter (fun n => n != bypass.toNat) with
  | [] => bypass
  | [n] => if bypass = 32 ∧ ¬ bad.contains 32 then BitVec.ofNat 6 n else 0x3F
  | _ => 0x3F

/-- A failing row takes the lowest free spare of its bank, 8 of a scratchpad bank and 16 of a pool bank group; none where no spare is free (R455). -/
def Tile.spareRow (k : Tile) (unit bank row : Nat) : Option Tile :=
  let used := (k.rowSpares.filter (fun e => e.1 == unit && e.2.1 == bank)).map (·.2.2.2)
  ((List.range (if unit = 31 then 16 else 8)).find? (fun n => !used.contains n)).map (fun n =>
    { k with rowSpares := (unit, bank, row, n) :: k.rowSpares })

/-- The failing rows of a unit, in order: the tile, and whether a bank was left without a free spare. -/
def Tile.spareRows (k : Tile) (unit : Nat) (rows : List (Nat × Nat)) : Tile × Bool :=
  rows.foldl (fun a e =>
    match a.1.spareRow unit e.1 e.2 with
    | some k => (k, a.2)
    | none => (a.1, true)) (k, false)

/-- A core after its findings, `full` where a bank of its scratchpad has no free spare row; none where it is retired. -/
def Core.test (k : Core) (x : CoreTest) (full : Bool) : Option Core :=
  let b := (List.range 4).map (fun q =>
    let was := k.bypass.getD q 0
    if was = 0x3F then was else quarterTest was ((x.badCols.filter (fun n => n / 33 == q)).map (· % 33)))
  let k1 := { k with bypass := b, quarterEn := quarterMask b }
  if x.badRow || full || k1.crippled then none else some k1

/-- One core's findings: a core that is retired leaves ENABLED or SPARE. -/
def State.testCore (s0 : State) (t : Nat) (x : CoreTest) : State :=
  let bitOf : BitVec 18 := 1#18 <<< x.core
  let (tl, full) := (s0.tile t).spareRows x.core x.badRows
  let s := s0.modTile t (fun _ => tl)
  match (tl.core x.core).test x full with
  | some k => s.modTile t (fun e => { e.modCore x.core (fun _ => k) with
      narrowed := if e.enabled.getLsbD x.core && k.narrow then e.narrowed ||| bitOf else e.narrowed &&& ~~~bitOf })
  | none =>
    if tl.enabled.getLsbD x.core ∨ tl.spare.getLsbD x.core then
      (s.modTile t (fun e => { e with
        enabled := e.enabled &&& ~~~bitOf, narrowed := e.narrowed &&& ~~~bitOf, spare := e.spare &&& ~~~bitOf
        retiredCnt := satInc e.retiredCnt })).errLog 9 7 t x.core 0 LogWho.none
    else s

/-- Spares are enabled, lowest number first, up to the number of cores that the map enables. -/
def Tile.useSpares : Nat → Nat → Tile → Tile
  | 0, _, t => t
  | f + 1, want, t =>
    if want ≤ ((List.range 18).filter (fun c => t.enabled.getLsbD c)).length then t
    else
      match (List.range 18).find? (fun c => t.spare.getLsbD c) with
      | none => t
      | some c =>
        let bitOf : BitVec 18 := 1#18 <<< c
        Tile.useSpares f want { t with
          enabled := t.enabled ||| bitOf, spare := t.spare &&& ~~~bitOf
          narrowed := if (t.core c).narrow then t.narrowed ||| bitOf else t.narrowed }

/-- The findings of a tile (R455): a pool that cannot be repaired leaves it with no enabled core. -/
def State.testTile (s : State) (x : TileTest) : State :=
  let want := ((List.range 18).filter (fun c => (s.tile x.tile).enabled.getLsbD c)).length
  let s1 := (x.cores.foldl (fun s c => s.testCore x.tile c) s).modTile x.tile (fun t => t.useSpares 18 want)
  s1.modTile x.tile (fun t =>
    let (t, full) := t.spareRows 31 x.badRows
    if full then { t with enabled := 0, narrowed := 0 } else t)

/-- Step 7: every tile's findings; a fitted tile with no enabled core leaves service, a failure of its own whatever took the cores (R464). -/
def State.selfTests (s : State) (tiles : List TileTest) : State :=
  let s1 := (tiles.filter (fun x => decide (x.tile < s.nTiles))).foldl State.testTile s
  ((List.range s.nTiles).filter (fun t => (s1.tile t).enabled == 0)).foldl (fun s t => s.bootFail 7 t) s1

/-! ### Memories (R207, R216, R464) -/

/-- The type of the lowest-numbered populated channel that holds one of the two types. -/
def dimmType (l : List Spd) : Nat := ((l.find? (fun d => d.kind == 1 || d.kind == 2)).map (·.kind)).getD 1

/-- DIM_CH_STAT.CAUSE of a populated channel; 0 where the DIMM is accepted. -/
def dimmCause (d : Spd) (kind : Nat) : Nat :=
  if d.kind ≠ 1 ∧ d.kind ≠ 2 then 1
  else if d.kind ≠ kind then 2
  else if d.kind = 1 ∧ ¬ d.speedOk then 3
  else if d.gib < 32 ∨ 256 < d.gib ∨ d.ranks ∉ [1, 2, 4] ∨ d.width ∉ [4, 8] then 4
  else if !d.ecc then 6
  else if !d.trains then 5
  else 0

/-- DIMM training: acceptance, speed and layout. -/
def State.trainDimms (s : State) (l : List Spd) : State :=
  let kind := dimmType l
  let ok (d : Spd) : Bool := d.kind != 0 && dimmCause d kind == 0
  let accepted := l.filter ok
  let speed := if kind = 2 then 0 else if accepted.all (·.fast) then 2 else 1
  let ilv := decide (l.length = 16) && l.all ok && l.all (fun d => d.gib == (l.headD ⟨0, false, false, false, 0, 0, 0, false⟩).gib
    && d.ranks == (l.headD ⟨0, false, false, false, 0, 0, 0, false⟩).ranks)
  let cap (die : Nat) : Nat := ((((l.drop (8 * die)).take 8).filter ok).map (·.gib)).sum
  let s1 := ((List.range 16).zip l).foldl (fun s e =>
    let d := e.2
    if d.kind = 0 then s
    else if ok d then s.modDimm e.1 (fun k => { k with state := 1, cause := 0, cap := BitVec.ofNat 8 (d.gib / 4), speed := BitVec.ofNat 2 speed })
    else (s.modDimm e.1 (fun k => { k with state := 2, cause := BitVec.ofNat 3 (dimmCause d kind) })).bootFail 4 e.1) s
  { s1 with boot := { s1.boot with
    ilv := ilv, rdimm := kind == 2, dimSpeed := BitVec.ofNat 2 speed
    dimCap := [(0, BitVec.ofNat 14 (cap 0)), (1, BitVec.ofNat 14 (cap 1))] } }

/-- The Permafrost devices leave reset, are identified and train; their mode registers are asked for (log entry 76), journal and canaries are
read, a canary of CANARY_LIMIT or that needs a retry asks for an urgent pass, and the tier enters service (R236, R238, R249, R257). -/
def State.trainPmt (s : State) (devs : List (Nat × List (Nat × Bool))) : State :=
  if !s.variant.full then s
  else
    let s1 := (List.range 8).foldl (fun s n =>
      let e := devs.getD n (4, [])
      let urgent := (e.1 == 2 || e.1 == 3) && e.2.any (fun c => decide ((s.pdie n).canary.toNat ≤ c.1) || c.2)
      let t := s.modPdev n (fun d =>
        let d1 := { d with state := BitVec.ofNat 3 e.1, urgent := urgent, rdonly := e.1 == 3, rstN := true, identified := e.1 != 0 }
        if urgent then d1.note n 12 0 0 else d1)
      (if e.1 = 2 ∨ e.1 = 3 then [0, 1, 2, 0x10].foldl (fun t r => t.pmtSend n 4 [r] []) t else t.bootFail 14 n).frostLevel n) s
    let active := ((List.range 8).filter (fun n => (s1.pdev n).up)).map (2 ^ ·)
    ({ s1 with boot := { s1.boot with pmtActive := BitVec.ofNat 8 active.sum } }).modPmt (fun p => { p with inService := s1.tierUp })

/-! ### The owner configuration (R424, R426, R439, R441, R473) -/

/-- A domain's registers as the configuration writes them: not enabled yet, HOME_IO the die of its attachment. -/
def Dom.configure (d : Dom) (c : DWord × DWord × DWord) : Dom :=
  let (map, p, q) := c
  let ext := bit p 1
  { d with
    en := false, external := ext, homeIo := decide (fld map 0 3 = 2 ∨ fld map 0 3 = 4), debugOk := bit p 3, class2Ok := bit p 4
    modelOk := bit p 5, shareOk := bit p 6, weight := BitVec.ofNat 8 (if fld p 8 8 = 0 then 1 else fld p 8 8), ctxMax := BitVec.ofNat 11 (fld p 16 11)
    pinMax := BitVec.ofNat 4 (fld p 32 4)
    wcMax := BitVec.ofNat 8 (fld q 0 8), frontMax := BitVec.ofNat 7 (fld q 8 7), poolMax := BitVec.ofNat 7 (fld q 15 7)
    seatMax := BitVec.ofNat 5 (fld q 22 5), ringMax := BitVec.ofNat 13 (fld q 27 13)
    attach := BitVec.ofNat 3 (fld map 0 3), index := BitVec.ofNat 4 (fld map 3 4)
    pwinGib := if ext then 0 else BitVec.ofNat 40 (fld map 8 40), pwinBase := 0, noWindow := false }

/-- Free GiB below the windows placed so far: of the whole tier, or of each channel. -/
def State.freeRuns (s : State) : Tbl Nat :=
  if s.boot.ilv then [(0, s.dimmTotal / gib)]
  else (List.range 16).map (fun n => (n, if (s.dimm n).state = 1 then (s.dimm n).cap.toNat * 4 else 0))

/-- The windows of the partitions, in ascending domain number, each at the top of what is left (R426); channels are 256 GiB apart. -/
def State.placeWindows (s : State) : Tbl Nat → List Nat → State
  | _, [] => s
  | free, h :: r =>
    let size := (s.dom h).pwinGib.toNat
    if (s.dom h).external ∨ size = 0 then s.placeWindows free r
    else
      match ((tkeys free).filter (fun n => decide (size ≤ tget 0 free n))).getLast? with
      | some n =>
        let top := tget 0 free n - size
        (s.modDom h (fun d => { d with pwinBase := BitVec.ofNat 12 (256 * n + top) })).placeWindows (tput free n top) r
      | none => ((s.modDom h (fun d => { d with noWindow := true })).bootFail 4 0).placeWindows free r

/-- A locked range as SEC_LOCK holds it: 16 bits of 64 KiB units (a longer window is locked whole: log entry 31). -/
def lockReg (base size : Nat) : DWord := at_ (base / 65536 % 2 ^ 32) 16 ||| at_ (min (cdiv size 65536) 65535) 48

/-- SEC_LOCK(r): the owner's ranges, then the windows; once DONE is set they stand (R441). -/
def State.writeLocks (s : State) (own : List (Nat × Nat)) : State :=
  if s.sec.done then s else
  let wins := ((List.range 16).filter (fun h => decide (0 < (s.dom h).pwinBytes) && !(s.dom h).noWindow)).map
    (fun h => (mrdimmBase + (s.dom h).pwinBase.toNat * gib, (s.dom h).pwinBytes))
  let all := (own ++ wins).take 16
  { s with sec := { s.sec with locks := (List.range all.length).zip (all.map (fun e => lockReg e.1 e.2)) } }

/-- The formula of R473. -/
def rsvGib (save spill n : Nat) : Nat := cdiv (save * 52690944) gib + 1 + cdiv spill n

/-- Bluone sets RSV_GIB on every stack in service; SAVE_PER_TILE is lowered where it must be, and the change logged (R473). Where no value of it
gives 24 or less, RSV_GIB is 24 (log entry 91). Once DONE is set RSV_GIB stands (R441). -/
def State.reserve (s : State) : State :=
  if s.sec.done then s else
  let up := (List.range s.nStacks).filter (fun n => (s.stack n).inService)
  let spill := s.lnk.spillGib.toNat
  let save := s.sched.savePerTile.toNat
  let best := ((List.range (save + 1)).reverse.find? (fun v => decide (rsvGib v spill up.length ≤ 24))).getD 0
  let s1 := if best = save then s
    else { s with sched := { s.sched with savePerTile := BitVec.ofNat 10 best } }.errLog 11 12 0 0x1F (at_ 0x20 0 ||| at_ best 32) LogWho.none
  up.foldl (fun s n => s.modStack n (fun k => { k with rsvGib := BitVec.ofNat 8 (min 24 (rsvGib best spill up.length)) })) s1

/-- The settings of the configuration, but for the domains (R439). -/
def State.applyCfg (s : State) (k : OwnerCfg) : State :=
  let s1 := { s with
    boot := { s.boot with stkGib := if k.stkGib ≤ 48 ∧ ¬ s.sec.done then BitVec.ofNat 6 k.stkGib else s.boot.stkGib }
    lnk := { s.lnk with spillGib := if s.sec.done then s.lnk.spillGib else BitVec.ofNat 8 k.spillGib }
    sched := { s.sched with cyc := { s.sched.cyc with owner := BitVec.ofNat 4 k.cycOwner } } }
  let s2 := match k.schedCfg with
    | some v => s1.writeSchedCfg v
    | none => s1
  let s3 := s2.writeLnkCfg k.lnkCfg
  let s4 := k.peerExpect.foldl (fun s e => s.modPort e.1 (fun p => { p with expectEpid := BitVec.ofNat 14 (fld e.2 0 14), expectEn := bit e.2 14 })) s3
  let s5 := k.routes.foldl (fun s e => s.writeRoute e.1 e.2) s4
  match k.pwrCfg with
  | some v => s5.writePwrCfg v
  | none => s5

/-- MOD_CAP (R468). -/
def State.capReg (s : State) : DWord :=
  let mask (n : Nat) (f : Nat → Bool) : Nat := (((List.range n).filter f).map (2 ^ ·)).sum
  let full := s.variant.full
  at_ (b2n (full && s.pmt.formatted)) 0 ||| at_ (b2n full) 1 ||| at_ (b2n full) 2 ||| at_ (b2n s.variant.cyclic) 3 ||| at_ 1 4 ||| at_ 1 5
    ||| at_ (2 ^ s.variant.ports - 1) 8 ||| at_ (mask s.nTiles (fun t => (s.tile t).inService)) 20
    ||| at_ (mask s.nStacks (fun n => (s.stack n).inService)) 32 ||| at_ s.boot.pmtActive.toNat 44

/-- A tile is in service with its stack and an enabled core (R464). -/
def State.settleTiles (s : State) : State :=
  (List.range s.nTiles).foldl (fun s t => s.modTile t (fun k => { k with inService := (s.stack t).inService && k.enabled != 0 })) s

/-! ### Cables (R478) -/

/-- A refused cable: one entry in the port's log, VIOL and its count; no LINK_ERR, and nothing toward quarantine. -/
def State.refuseCable (s : State) (p cause : Nat) : State :=
  (s.portLog p 0x22 0 0 (s.port p).peerEpid.toNat cause).modPort p (fun k => { k with viol := true, violCnt := satInc k.violCnt })

/-- Bluone refuses the port's cable, if it must. -/
def State.judgeCable (s : State) (p : Nat) : State :=
  match cableCause (s.port p).cable with
  | some cause => s.refuseCable p cause
  | none => s

/-- Vexja ports may train: the configuration of step 10 is in force (R463, R464). -/
def State.linksUp (s : State) : Bool := s.sec.configOk && s.boot.steps.contains 10

/-- A port that trains, or that its cable or DISABLE keeps down. -/
def State.startPort (s : State) (p : Nat) : State :=
  let s1 := s.judgeCable p
  if (s1.port p).disable then s1.modPort p (fun k => { k with state := 6 }) else s1.startTraining p

/-- A cable is pulled, or plugged and read: a port that trained or was active with another goes down first. -/
def execCablePresenceChange (p : Nat) (cable : Cable) (s : State) : Host.Outcome State Fault Refusal :=
  let k := s.port p
  let s0 := if k.state = 2 ∨ k.state = 3 then s.pullPort p else s
  let s1 := s0.modPort p (fun k => { k with cable := cable })
  .next (if !s.hasPort p then s
    else if cable = .none ∨ ¬ s.linksUp then s1
    else if ((s1.port p).state = 1 ∨ (s1.port p).state = 5) ∧ ¬ k.verRefused then s1.startPort p
    else s1.judgeCable p)

/-! ### The steps (R463, R464) -/

/-- The steps that must have completed before a step can. -/
def stepNeeds : BringUp → Nat × List Nat
  | .rails => (3, [2])
  | .redundancy => (4, [3])
  | .stks _ _ => (6, [3, 5])
  | .selfTest _ => (7, [4, 5])
  | .pmt _ => (8, [3, 5])
  | .dimms _ => (9, [3, 5])
  | .config => (10, [4, 6, 7, 8, 9])
  | .ports => (11, [10])
  | .attach _ _ => (12, [10])
  | .enable => (13, [12])

/-- Step 3: present ports and attachments are powered; a PCIe port whose PERST# has been deasserted trains. -/
def State.railsUp (s : State) : State :=
  let s1 := (List.range s.variant.ports).foldl (fun s p => s.modPort p (fun k => { k with state := if k.disable then 6 else 1 })) s
  let s2 := [0, 1].foldl (fun s i => s.modAtt i (fun a => { a with state := 1 })) s1
  if !s.variant.full then s2
  else
    let s3 := [2, 3].foldl (fun s i => s.modAtt i (fun a => { a with state := if a.state = 0 then (if a.perst then 1 else 2) else a.state })) s2
    (List.range 8).foldl (fun s n => s.modPdev n (fun d => { d with state := 1 })) s3

/-- Step 6: every stack trains; HBM4 lane repair remaps the pins of its record, and those that were suspect and those that this training finds
bad (`remaps`), each with an entry of the log (R456, R457). -/
def State.trainStacks (s : State) (failed : List Nat) (remaps : List (Nat × Nat)) : State :=
  let s1 := (List.range s.nStacks).foldl (fun s n =>
    if failed.contains n then s.bootFail 3 n
    else s.modStack n (fun k => { k with inService := true, remapped := s.recordPins n })) s
  let now := s.blu.suspects ++ remaps.filter (fun e => !s.blu.suspects.contains e)
  (now.filter (fun e => decide (e.1 < s.nStacks) && !failed.contains e.1)).foldl (fun s e =>
    ({ s with blu := { s.blu with suspects := s.blu.suspects.filter (· != e) } }.modStack e.1 (fun k => { k with remapped := e.2 :: k.remapped })).errLog
      10 3 e.1 0x1F (at_ e.2 0) LogWho.none) s1

/-- Step 10. -/
def State.loadConfig (s : State) (ms : Nat) : State :=
  let s1 := match s.bestCfg with
    | none => s.bootFail 12 0
    | some k =>
      let a := ({ s with blu := { s.blu with cfg := some k }, sec := { s.sec with configOk := true } }).applyCfg k
      let b : State := (List.range 16).foldl (fun s h => State.modDom s h (fun d => d.configure (tget (0, 0, 0) k.domains h))) a
      ((b.placeWindows b.freeRuns (List.range 16)).writeLocks k.locks).measure 8 (Config.sm3 (cfgBody k ++ k.sig))
  let s2 := (s1.settleTiles.reserve.setPhase 4 ms).lockDone
  let s3 := { s2 with boot := { s2.boot with cap := s2.capReg } }
  if s3.sec.configOk then (List.range s3.variant.ports).foldl (fun s p => s.startPort p) s3 else s3

/-- Step 12: the host die leaves reset. -/
def State.attachHosts (s : State) (io0 io1 : Nat) : State :=
  let one (s : State) (i n : Nat) : State :=
    if n < 2 then s.bootFail 15 i
    else s.modAtt i (fun a => { a with
      state := if 4 ≤ n then 3 else 4, width := BitVec.ofNat 4 (min n 4), degraded := a.degraded || decide (n < 4)
      laneRepair := s.redBytes (0x1C00 + 0x40 * i) 64 })
  let s1 := one (one s 0 io0) 1 io1
  { s1 with boot := { s1.boot with hostDie := true } }

/-- The effect of a step. -/
def State.runStep (s : State) (ms : Nat) : BringUp → State
  | .rails => s.railsUp
  | .redundancy => (List.range s.nTiles).foldl State.applyMap s
  | .stks failed remaps => s.trainStacks failed remaps
  | .selfTest tiles => s.selfTests tiles
  | .pmt devs => s.trainPmt devs
  | .dimms spd => s.trainDimms spd
  | .config => s.loadConfig ms
  | .ports => s
  | .attach io0 io1 => (s.attachHosts io0 io1).setPhase 5 ms
  | .enable =>
    ((List.range 16).foldl (fun s h => if State.mayEnable s h then s.modDom h (fun d => { d with en := true }) else s) s).setPhase 6 ms

/-- A step completes, at a time in ms: once, while stage 2 runs, after the steps that it needs; without a configuration steps 11 to 13 do not run. -/
def execBringupStepDone (step : BringUp) (ms : Nat) (s : State) : Host.Outcome State Fault Refusal :=
  let n := (stepNeeds step).1
  .next (if s.blu.stage < 2 ∨ s.inRecovery ∨ s.boot.steps.contains n ∨ ¬ (stepNeeds step).2.all s.boot.steps.contains
      ∨ (11 ≤ n ∧ ¬ s.sec.configOk) then s
    else (s.runStep ms step).stepDone n)

end Sys2Proof.Machine
end

