-- ==== Sys2Proof/Machine/Fronts.lean ====
section
/-! DEFINITION. Fronts.lean: group 0x8: setting entries, arriving, waiting, tallies, and the events that end a wait
(R343 to R345, R351 to R358, R361). -/
namespace Sys2Proof.Machine

/-! ### Identifiers, entries, wait fields (R342, R351) -/

/-- A front identifier in a descriptor: bit [31], KIND and GEN must be 0. -/
def frontIdBad (d : Desc) (word : Nat) : Bool × Stop :=
  (bit (d.word word) 31 || decide (fld (d.word word) 16 4 ≠ 0), badDesc word 0 9)

/-- The identifier in the low half of a word. -/
def Desc.frontId (d : Desc) (word : Nat) : Word := BitVec.ofNat 32 (fld (d.word word) 0 32)
def frontTile (f : Word) : Nat := fld f 12 4
def frontIndex (f : Word) : Nat := fld f 0 12

/-- The entry that an identifier names. -/
def State.frontOf (s : State) (f : Word) : FrontEntry := s.front (frontTile f) (frontIndex f)

/-- Reason 0x0801: the entry is empty, its KEY differs, or it is another context's. -/
def State.frontUnset (s : State) (c : Nat) (f : Word) : Bool :=
  let e := s.frontOf f
  !e.valid || decide (511 < frontIndex f) || decide (e.key ≠ fld f 20 11) || decide (e.owner ≠ c)

/-- The participant that a ring of the owning context is. -/
def FrontEntry.local (e : FrontEntry) (ring : Nat) : Option Nat := e.parts.findIdx? (fun p => !p.remote && p.ring == ring)

/-- Check 11 of R351 on a front that the ring takes part in. -/
def State.frontChecks (s : State) (c ring : Nat) (f : Word) : List (Bool × Stop) :=
  let x := s.ctx c
  [ (s.frontUnset c f, badState x 0x0801), (((s.frontOf f).local ring).isNone, badState x 0x0802),
    ((s.frontOf f).mode, badState x 0x0803) ]

/-- Check 11 of R357 on a tally. -/
def State.tallyChecks (s : State) (c : Nat) (f : Word) : List (Bool × Stop) :=
  let x := s.ctx c
  [ (s.frontUnset c f, badState x 0x0801), (!(s.frontOf f).mode, badState x 0x0803) ]

/-- The wait fields of a word (R351): check 9, and its reserved bits; bit [4] is TAKE_LOW of TALLY_ALIGN. -/
def waitChecks (d : Desc) (word : Nat) (mayWait takeLow : Bool) : List (Bool × Stop) :=
  let w := d.word word
  let policy := fld w 1 2
  let use := bit w 3
  [ (!mayWait && bit w 0, badDesc word 0 9), (decide (policy = 3), badDesc word 1 9),
    (use && decide (policy ≠ 0), badDesc word 1 9), (use && decide (fld w 8 8 ≠ 0), badDesc word 3 9),
    (use && decide (fld w 32 16 ≠ 0), badDesc word 3 9),
    (!use && decide (policy = 2) && decide (fld w 8 8 = 0), badDesc word 1 9) ]
  ++ (if takeLow then [] else [rsv d word 4 1]) ++ [rsv d word 5 3, rsv d word 16 16, rsv d word 48 16]

/-- POLICY, SPIN and DOLD in force: the descriptor's, or with USE_DEF the record's. -/
def FrontEntry.waitOf (e : FrontEntry) (w : DWord) : Nat × Nat × Nat :=
  if bit w 3 then (e.defPolicy, e.defSpin, e.defDold) else (fld w 1 2, fld w 8 8, fld w 32 16)

/-! ### FRONT_SET (R344, R345) -/

def partOf (w : DWord) : Participant := ⟨bit w 0, fld w 1 6, fld w 16 14, fld w 32 32⟩

/-- Two entries of a record name the same ring, or the same endpoint. -/
def Participant.same (a b : Participant) : Bool :=
  a.remote == b.remote && (if a.remote then a.epid == b.epid else a.ring == b.ring)

/-- Why a front record is refused: word and lowest bit; an entry's word number is given by its low four bits (log entry 15).
A record that empties the entry is judged for its reserved fields and for TALLY0, which must be 0 in a front's record (R11, R344). -/
def frontBad (ws : List DWord) : Option (Nat × Nat) :=
  let w := wrd ws
  let set := bit (w 0) 0
  let mode := bit (w 0) 1
  let n := fld (w 0) 2 6 + 1
  let pen := bit (w 1) 14
  let ps := (List.range n).map (fun i => partOf (w (8 + i)))
  let part (i : Nat) : Participant := ps.getD i ⟨false, 0, 0, 0⟩
  let twin (i : Nat) : Bool := (List.range n).any (fun j => decide (i < j) && (part i).same (part j))
  let f (word lo len : Nat) : Bool × (Nat × Nat) := (decide (fld (w word) lo len ≠ 0), (word, lo))
  let l : List (Bool × (Nat × Nat)) :=
    [ f 0 21 11, f 0 56 8, f 1 15 17, f 2 32 32, f 3 0 64, f 4 0 64, f 5 0 64, f 6 0 64, f 7 0 64 ]
    ++ (if set then [] else [ (!mode && decide (fld (w 2) 0 32 ≠ 0), (0, 1)) ])
    ++ (if set then
      ((List.range n).map (fun i =>
        [ (decide (fld (w (8 + i)) 7 9 ≠ 0), ((8 + i) % 16, 7)), (decide (fld (w (8 + i)) 30 2 ≠ 0), ((8 + i) % 16, 30)),
          (!(part i).remote && decide ((part i).child ≠ 0), ((8 + i) % 16, 0)) ])).flatten
      ++ [ (!mode && decide (fld (w 2) 0 32 ≠ 0), (0, 1)) ]
      ++ (List.range n).map (fun i => (twin i, ((8 + i) % 16, 0)))
      ++ [ (pen && mode, (0, 1)),
           (pen && ps.any (fun p => p.remote && p.epid == fld (w 1) 0 14), (1, 0)),
           (pen && (bit (w 1) 63 || decide (fld (w 1) 48 4 ≠ 0)), (1, 14)),
           (decide (fld (w 0) 8 2 = 3) || (decide (fld (w 0) 8 2 = 2) && decide (fld (w 0) 48 8 = 0)), (0, 8)),
           (decide (fld (w 0) 10 11 = 0x7FF), (0, 10)) ]
      else [])
  (l.find? (·.1)).map (·.2)

/-- The entry that a record sets (R345). -/
def frontOfRecord (c : Nat) (ws : List DWord) : FrontEntry :=
  let w := wrd ws
  { FrontEntry.reset with
    valid := true, mode := bit (w 0) 1, owner := c, defPolicy := fld (w 0) 8 2, key := fld (w 0) 10 11
    defDold := fld (w 0) 32 16, defSpin := fld (w 0) 48 8, parentEn := bit (w 1) 14, parentEpid := fld (w 1) 0 14
    parentFront := BitVec.ofNat 32 (fld (w 1) 32 32), tally := BitVec.ofNat 32 (fld (w 2) 0 32)
    parts := (List.range (fld (w 0) 2 6 + 1)).map (fun i => partOf (w (8 + i))) }

/-- A wait or a held arrival names the entry. -/
def State.frontNamed (s : State) (t i : Nat) : Bool :=
  (s.tile t).holdQ.any (fun h => h.entry == i)
  || s.ctxs.any (fun e => e.2.descs.any (fun d => decide (d.st = .executing) &&
      match d.prog with
      | .front w => (w.tile == t && w.entry == i) || (match w.kind with
          | .align t' i' _ _ => t' == t && i' == i
          | _ => false)
      | _ => false))

/-- The entry is busy (R345). -/
def State.frontBusy (s : State) (t i : Nat) : Bool :=
  let e := s.front t i
  e.valid && (!e.arrOldest.isEmpty || !e.arrNext.isEmpty || e.awaits || s.frontNamed t i)

def unitFrontSet (c : Nat) (d : Desc) : Act (Option Stop) := do
  let w := d.who c
  let t := fld (d.word 2) 0 4
  let i := fld (d.word 2) 4 12
  let x ← getCtx c
  let first := tget 0 x.sched.frontFirst t
  checks ([ (decide ((d.word 1).toNat % 64 ≠ 0), badDesc 1 0 9), (decide (511 < i), badDesc 2 4 9),
            (!x.sched.tileMask.getLsbD t || decide (i < first) || decide (first + 8 * x.sched.fronts.toNat ≤ i), badDesc 2 0 9),
            rsv d 2 16 48 ] ++ rsvWords d [3, 4, 5, 6, 7])
  let hd ← rdVa w (d.word 1).toNat 64
  let h := bytesWords 8 hd
  let n := if bit (wrd h 0) 0 then fld (wrd h 0) 2 6 + 1 else 0
  let tl ← rdVa w ((d.word 1).toNat + 64) (8 * n)
  let ws := h ++ bytesWords n tl
  match frontBad ws with
  | some (a, b) => throw (badRecord a b)
  | none => pure ()
  let s ← get
  checks [ (s.frontBusy t i, badState (s.ctx c) 0x0804) ]
  set (s.modFront t i (fun _ => if bit (wrd ws 0) 0 then frontOfRecord c ws else FrontEntry.reset))
  okResult 0

def execFrontSet (d : DescRef) (s : State) : Host.Outcome State Fault Refusal := .next (issue 0x800 d (unitFrontSet d.ctx) s)

/-! ### Arriving and waiting (R350 to R352) -/

/-- A wait of a descriptor on a front entry. -/
def waitFor (f : Word) (gen : Nat) (kind : WaitKind) (held : Bool) (o : Nat × Nat × Nat) : FrontWait :=
  { tile := frontTile f, entry := frontIndex f, ident := f, gen := gen, kind := kind, held := held, wasHeld := held, slot := false,
    policy := o.1, spin := o.2.1, dold := o.2.2 }

/-- The ring's arrival reaches the front; a counted one waits for its generation, or with kind `count` completes. -/
def joinFront (c : Nat) (d : Desc) (f value : Word) (kind : WaitKind) (o : Nat × Nat × Nat) : Act (Option Stop) := do
  let s ← get
  let t := frontTile f
  let i := frontIndex f
  match s.arrive t i (((s.front t i).local d.ring).getD 0) d.ring 0 value value f with
  | (s1, .full) => do
    set s1
    pure (some (frontViolation f))
  | (s1, .held) => do
    set (s1.placeWait c d (waitFor f (s1.front t i).oldest kind true o))
    pure none
  | (s1, .counted gen) =>
    match kind with
    | .count => do
      set (State.settleFront 4 s1 t i)
      pure (some ⟨0, at_ gen 0⟩)
    | _ => do
      set (State.settleFront 4 (s1.placeWait c d (waitFor f gen kind false o)) t i)
      pure none

def unitFrontArrive (c : Nat) (d : Desc) : Act (Option Stop) := do
  checks (frontIdBad d 1 :: waitChecks d 2 true false ++ rsvWords d [3, 4, 5, 6, 7])
  let s ← get
  let f := d.frontId 1
  checks (s.frontChecks c d.ring f)
  joinFront c d f (BitVec.ofNat 32 (fld (d.word 1) 32 32)) (if bit (d.word 2) 0 then .release else .count)
    ((s.frontOf f).waitOf (d.word 2))

def execFrontArrive (d : DescRef) (s : State) : Host.Outcome State Fault Refusal :=
  .next (issue 0x801 d (unitFrontArrive d.ctx) s)

def unitFrontWait (c : Nat) (d : Desc) : Act (Option Stop) := do
  checks (frontIdBad d 1 :: rsv d 1 32 32 :: waitChecks d 2 false false ++ rsvWords d [3, 4, 5, 6, 7])
  let s ← get
  let f := d.frontId 1
  checks (s.frontChecks c d.ring f)
  let e := s.frontOf f
  match e.lastGen.find? (fun g => some g.1 == e.local d.ring) with
  | none => throw (badState (s.ctx c) 0x0805)
  | some (_, gen) =>
    if e.released gen then pure (some ⟨0, at_ e.lLast.toNat 0 ||| at_ e.hLast.toNat 32⟩)
    else do
      set (s.placeWait c d (waitFor f gen .release false (e.waitOf (d.word 2))))
      pure none

def execFrontWait (d : DescRef) (s : State) : Host.Outcome State Fault Refusal := .next (issue 0x802 d (unitFrontWait d.ctx) s)

/-! ### FRONT_STATUS (R356) -/

/-- The bits of a list of participants. -/
def partBits (l : List Nat) : Nat := ((List.range 64).map (fun p => if l.contains p then 2 ^ p else 0)).sum

def State.frontStatus (s : State) (t i : Nat) : List DWord :=
  let e := s.front t i
  let lh (o : Option (Word × Word)) : DWord := match o with
    | some (a, b) => at_ a.toNat 0 ||| at_ b.toNat 32
    | none => 0
  [ at_ (b2n e.valid) 0 ||| at_ (b2n e.mode) 1 ||| at_ e.oldest 2 ||| at_ (b2n (!e.arrNext.isEmpty)) 4 ||| at_ (b2n e.awaits) 5
      ||| (if e.mode then at_ e.tally.toNat 32 else 0),
    at_ (partBits e.arrOldest) 0,
    at_ (partBits e.arrNext) 0,
    at_ (partBits (((s.tile t).holdQ.filter (fun h => h.entry == i)).map (·.part))) 0,
    at_ e.lLast.toNat 0 ||| at_ e.hLast.toNat 32,
    lh e.open0,
    at_ e.releases.toNat 0,
    0 ]

def unitFrontStatus (c : Nat) (d : Desc) : Act (Option Stop) := do
  checks ([(decide ((d.word 1).toNat % 64 ≠ 0), badDesc 1 0 9), frontIdBad d 2, rsv d 2 32 32] ++ rsvWords d [3, 4, 5, 6, 7])
  let s ← get
  let f := d.frontId 2
  checks [(s.frontUnset c f, badState (s.ctx c) 0x0801)]
  wrVa (d.who c) (d.word 1).toNat (wordsBytes (s.frontStatus (frontTile f) (frontIndex f)))
  okResult 0

def execFrontStatus (d : DescRef) (s : State) : Host.Outcome State Fault Refusal :=
  .next (issue 0x803 d (unitFrontStatus d.ctx) s)

/-! ### Tallies (R357) -/

def unitTallyAdd (c : Nat) (d : Desc) : Act (Option Stop) := do
  checks (frontIdBad d 1 :: rsv d 1 32 32 :: rsv d 2 32 32 :: rsvWords d [3, 4, 5, 6, 7])
  let s ← get
  let f := d.frontId 1
  checks (s.tallyChecks c f)
  set (s.addTally (frontTile f) (frontIndex f) (d.frontId 2))
  okResult (at_ ((s.frontOf f).tally + d.frontId 2).toNat 0)

def execTallyAdd (d : DescRef) (s : State) : Host.Outcome State Fault Refusal := .next (issue 0x804 d (unitTallyAdd d.ctx) s)

def unitTallyWait (c : Nat) (d : Desc) : Act (Option Stop) := do
  checks (frontIdBad d 1 :: rsv d 1 32 32 :: rsv d 2 32 32 :: waitChecks d 3 false false ++ rsvWords d [4, 5, 6, 7])
  let s ← get
  let f := d.frontId 1
  checks (s.tallyChecks c f)
  let e := s.frontOf f
  let th := d.frontId 2
  if reached e.tally th then okResult (at_ e.tally.toNat 0)
  else do
    set (s.placeWait c d (waitFor f 0 (.tally th) false (e.waitOf (d.word 3))))
    pure none

def execTallyWait (d : DescRef) (s : State) : Host.Outcome State Fault Refusal := .next (issue 0x805 d (unitTallyWait d.ctx) s)

def unitTallyAlign (c : Nat) (d : Desc) : Act (Option Stop) := do
  checks (frontIdBad d 2 :: frontIdBad d 1 :: rsv d 1 32 32 :: rsv d 2 32 32 :: waitChecks d 3 false true ++ rsvWords d [4, 5, 6, 7])
  let s ← get
  let f := d.frontId 2
  let y := d.frontId 1
  checks (s.frontChecks c d.ring f ++ s.tallyChecks c y)
  let e := s.frontOf y
  joinFront c d f e.tally (.align (frontTile y) (frontIndex y) (bit (d.word 3) 4) e.adds) ((s.frontOf f).waitOf (d.word 3))

def execTallyAlign (d : DescRef) (s : State) : Host.Outcome State Fault Refusal := .next (issue 0x806 d (unitTallyAlign d.ctx) s)

/-! ### Slots, spinning, Doldrums (R352, R354) -/

/-- The wait of an executing descriptor. -/
def State.waitOf (s : State) (ref : DescRef) : Option (Desc × FrontWait) :=
  match s.desc ref with
  | some d =>
    match d.prog with
    | .front w => if d.st = .executing ∧ (s.ctx ref.ctx).waitsHere then some (d, w) else none
    | _ => none
  | none => none

/-- A wait that waited for a slot takes one, and is judged again. -/
def execWaitSlotPlace (ref : DescRef) (s : State) : Host.Outcome State Fault Refusal :=
  .next (match s.waitOf ref with
    | some (d, w) =>
      if w.slot ∨ waitSlots ≤ s.slotsUsed w.tile then s
      else
        let w' := { w with slot := true }
        (s.setProg ref.ctx d.ring d.index (.front w')).judgeWait ref.ctx d w'
    | none => s)

/-- A core has spun for SPIN and gates. -/
def execSpinExpiry (ref : DescRef) (s : State) : Host.Outcome State Fault Refusal :=
  .next (match s.waitOf ref with
    | some (d, w) => if w.policy = 2 then s.setProg ref.ctx d.ring d.index (.front { w with policy := 0 }) else s
    | none => s)

/-- A Doldrums limit expires (R350, R354, R273). -/
def State.doldrums (s : State) (c : Nat) (d : Desc) (w : FrontWait) : State :=
  let s1 := ((s.abandonHeld d w).modTile w.tile (fun k => { k with fDoldCnt := satInc k.fDoldCnt })).frontLog
    w.tile 8 w.gen d.ring 0 w.ident
  if w.held then s1.finish c d.ring d.index (frontViolation w.ident)
  else
    let hi := match w.kind with
      | .tally th => th.toNat
      | _ => w.gen
    s1.finish c d.ring d.index ⟨0x41, at_ w.ident.toNat 0 ||| at_ hi 32⟩

def execDoldrums (ref : DescRef) (s : State) : Host.Outcome State Fault Refusal :=
  .next (match s.waitOf ref with
    | some (d, w) => if w.dold = 0 then s else s.doldrums ref.ctx d w
    | none => s)

end Sys2Proof.Machine
end

