-- ==== Sys2Proof/Machine/Hail.lean ====
section
/-! DEFINITION. Hail.lean: group 0x6: shard groups, ranges, PREPARE, COMMIT, ABORT, and the update rule (R262 to R277, R280, R281). -/
namespace Sys2Proof.Machine

/-! ### The update rule (R266 to R268) -/

/-- What a COMMIT carries for its elements: η, a of a range with decay, ROUND, rounding block. -/
structure HailUse where
  eta : SV
  a : SV
  round : Nat
  rnd : RndBlock
  deriving DecidableEq, Repr

/-- The use of a COMMIT descriptor on a group. -/
def Desc.hailUse (d : Desc) (g : HailGroup) : HailUse :=
  let eta := SV.of (BitVec.ofNat 32 (fld (d.word 2) 0 32))
  ⟨eta, svMul eta (SV.of (BitVec.ofNat 32 (fld (d.word 2) 32 32))), fld (d.word 1) 3 3,
    ⟨g.key, g.stream, BitVec.ofNat 32 (fld (d.word 1) 32 32)⟩⟩

/-- One element: the new weight bits and their flags, or none for a skipped element. -/
def HailUse.elem (k : HailUse) (r : HailRange) (i wBits gBits : Nat) : Option (Nat × NumFlags) :=
  let w := SV.of (elemF32 r.wFmt wBits)
  let g := SV.of (elemF32 r.gFmt gBits)
  let a := if r.decay then k.a else svZero
  if g.isNan || w.isNan || w.isInf then none
  else
    let u := if a.isZero then w else svFma (svNeg a) w w
    let v := if g.isZero then u else if g.isNeg then svAdd u k.eta else svSub u k.eta
    some (svConvert r.wFmt (roundOf k.round k.rnd (r.logOff + i)) (roundSat k.round) v)

/-- Weights of a line under one gradient line: their bytes, elements skipped, flags. -/
def HailUse.part (k : HailUse) (r : HailRange) (i : Nat) (ws gs : List Byte) : List Byte × Nat × NumFlags :=
  let out := (List.range (ws.length / 2)).map (fun j => (elemBits ws 16 j, k.elem r (i + j) (elemBits ws 16 j) (elemBits gs (8 * r.gBytes) j)))
  ((out.map (fun o => leBytes 2 (match o.2 with
      | some x => x.1
      | none => o.1))).flatten,
    (out.filter (fun o => o.2.isNone)).length,
    out.foldl (fun f o => match o.2 with
      | some x => f ||| x.2
      | none => f) 0)

/-- A Hail unit meets an uncorrectable line (R277, R282). -/
def State.hailUe (s : State) (n : Nat) : State := s.modStack n (fun k => { k with hailUeCnt := satInc k.hailUeCnt })

/-- The weights of a line under each of its gradient lines; a gradient line that cannot be read leaves its weights as they are. -/
def hailParts (w : Who) (n : Nat) (k : HailUse) (r : HailRange) (i : Nat) (ws : List Byte) :
    Nat → State → State × List Byte × Nat × NumFlags × Option Stop
  | 0, s => (s, [], 0, 0, none)
  | m + 1, s =>
    let per := 64 / r.gBytes
    let j := 32 / per - (m + 1)
    let mine := (ws.drop (2 * per * j)).take (2 * per)
    match rdPa w (r.gPa + r.gBytes * i + 64 * j) 64 s with
    | .error st s1 =>
      let (s2, bs, sk, fl, _) := hailParts w n k r i ws m (s1.hailUe n)
      (s2, mine ++ bs, sk, fl, some st)
    | .ok gs s1 =>
      let (o, sk0, fl0) := k.part r (i + per * j) mine gs
      let (s2, bs, sk, fl, e) := hailParts w n k r i ws m s1
      (s2, o ++ bs, sk0 + sk, fl0 ||| fl, e)

/-- One weight line: 32 elements from element i of the range on, on stack n. -/
def hailLine (w : Who) (n : Nat) (k : HailUse) (r : HailRange) (i : Nat) (s : State) : State × Nat × NumFlags × Option Stop :=
  match rdPa w (r.wPa + 2 * i) 64 s with
  | .error st s1 => (s1.hailUe n, 0, 0, some st)
  | .ok ws s1 =>
    let (s2, bs, sk, fl, e) := hailParts w n k r i ws (r.gBytes / 2) s1
    (s2.poke (r.wPa + 2 * i) bs, sk, fl, e)

/-! ### COMMIT's units (R274, R276, R277) -/

/-- The range that stack n's unit works on: the lowest of the group that is not done. -/
def State.hailNext (s : State) (c g n : Nat) : Option (Nat × HailRange) :=
  (s.ctx c).ranges.find? (fun r => r.2.valid && r.2.group == g && decide (s.backing r.2.wPa = .stack n) && decide (r.2.ptr < r.2.count))

/-- Stack n's unit updates up to so many weight lines. -/
def State.hailAdvance (c : Nat) (ref : Desc) (n : Nat) : Nat → State → State
  | 0, s => s
  | m + 1, s =>
    let g := fld (ref.word 1) 0 3
    match s.hailNext c g n, s.progOf c ref.ring ref.index with
    | some (k, r), .hail elems skipped flags bad =>
      let (s1, sk, fl, e) := hailLine (ref.who c) n (ref.hailUse ((s.ctx c).group g)) r r.ptr s
      let s2 := s1.modCtx c (fun x => { x with ranges := tput x.ranges k { r with ptr := r.ptr + 32 } })
      State.hailAdvance c ref n m (s2.setProg c ref.ring ref.index
        (.hail (elems + 32) (skipped + sk) (flags ||| fl) (bad.orElse (fun _ => e.map (·.result)))))
    | _, _ => s

/-- Every stack's unit goes on, stack n by the n-th number of lines; once every range is done the COMMIT is finished. -/
def State.hailRun (s : State) (c : Nat) (d : Desc) (adv : List Nat) : State :=
  let g := fld (d.word 1) 0 3
  let s1 := (List.range 12).foldl (fun s n => State.hailAdvance c d n (adv.getD n 0) s) s
  if (List.range 12).all (fun n => (s1.hailNext c g n).isNone) then
    match s1.progOf c d.ring d.index with
    | .hail elems skipped flags bad =>
      match bad with
      | some r => s1.finish c d.ring d.index ⟨0x31, r⟩
      | none =>
        s1.finish c d.ring d.index ⟨if (s1.groupStacks c g).isEmpty then 1 else 0,
          at_ (elems % 2 ^ 36) 0 ||| at_ (min skipped (2 ^ 20 - 1)) 36 ||| nfResult flags⟩
    | _ => s1
  else s1

/-- ETA is positive, finite and normal. -/
def etaOk (x : Word) : Bool := !x.msb && decide (0 < fld x 23 8) && decide (fld x 23 8 < 255)
/-- LAMBDA is +0 or positive, finite and normal. -/
def lambdaOk (x : Word) : Bool := etaOk x || x == 0

/-- A group that is not PREPARED has reason 0x0602, though UPDATE may be clear too (R279). -/
def unitHailCommit (c : Nat) (adv : List Nat) (d : Desc) : Act (Option Stop) := do
  let g := fld (d.word 1) 0 3
  let x ← getCtx c
  checks ([ (!etaOk (BitVec.ofNat 32 (fld (d.word 2) 0 32)), badDesc 2 0 9),
            (!lambdaOk (BitVec.ofNat 32 (fld (d.word 2) 32 32)), badDesc 2 32 9),
            (roundBad (fld (d.word 1) 3 3), badDesc 1 3 9), rsv d 1 6 26 ] ++ rsvWords d [3, 4, 5, 6, 7])
  checks [ (decide ((x.group g).state ≠ .prepared), badState x 0x0602), phaseCheck x d.opcode,
           (decide ((x.group g).prepTag.toNat ≠ fld (d.word 1) 32 32), badState x 0x0603) ]
  modCtxA c (fun x => { x with groups := tput x.groups g { x.group g with state := .committing } })
  modify (fun s => (s.setProg c d.ring d.index (.hail 0 0 0 none)).hailRun c d adv)
  pure none

/-- HAIL_COMMIT issues, or its units go on: by the next event stack n's unit has updated `adv` n further weight lines. -/
def execHailCommit (ref : DescRef) (adv : List Nat) (s : State) : Host.Outcome State Fault Refusal :=
  .next (match s.desc ref with
    | none => s
    | some d =>
      if d.st = .executing ∧ d.opcode = 0x601 then
        if (s.ctx ref.ctx).waitsHere then s.hailRun ref.ctx d adv else s
      else issue 0x601 ref (unitHailCommit ref.ctx adv) s)

/-! ### PREPARE, ABORT (R271 to R275) -/

def unitHailPrepare (c : Nat) (d : Desc) : Act (Option Stop) := do
  let g := fld (d.word 1) 0 3
  let tag := BitVec.ofNat 32 (fld (d.word 1) 32 32)
  let f := d.frontId 2
  let none_ : Bool := f == 0xFFFFFFFF
  let s ← get
  let x := s.ctx c
  let grp := x.group g
  checks ((if none_ then [] else [frontIdBad d 2]) ++ [rsv d 1 3 29, rsv d 2 32 32] ++ rsvWords d [3, 4, 5, 6, 7])
  checks (phaseCheck x d.opcode :: (if none_ then [] else s.frontChecks c d.ring f)
    ++ [ (!grp.valid, badState x 0x0601), (decide (grp.state = .partial_) && grp.prepTag != tag, badState x 0x0603) ])
  modCtxA c (fun x => { x with update := true })
  if grp.state = .partial_ then do
    modify (fun s => s.endPrepare c d g tag tag tag)
    pure none
  else
    let x0 := if tag = grp.expect then tag else grp.expect
    if none_ then do
      modify (fun s => s.endPrepare c d g tag x0 x0)
      pure none
    else joinFront c d f x0 (.prepare g tag) ((s.frontOf f).waitOf 8)

def execHailPrepare (d : DescRef) (s : State) : Host.Outcome State Fault Refusal :=
  .next (issue 0x600 d (unitHailPrepare d.ctx) s)

def unitHailAbort (c : Nat) (d : Desc) : Act (Option Stop) := do
  let g := fld (d.word 1) 0 3
  let x ← getCtx c
  checks (rsv d 1 3 61 :: rsvWords d [2, 3, 4, 5, 6, 7])
  checks [ (decide ((x.group g).state ≠ .prepared), badState x 0x0602), phaseCheck x d.opcode ]
  let started := x.ranges.any (fun r => r.2.valid && r.2.group == g && decide (0 < r.2.ptr))
  let v := if started then { x.group g with state := .partial_ } else { x.group g with state := .idle, prepTag := 0 }
  modCtxA c (fun x => { x with groups := tput x.groups g v })
  okResult 0

def execHailAbort (d : DescRef) (s : State) : Host.Outcome State Fault Refusal :=
  .next (issue 0x602 d (unitHailAbort d.ctx) s)

/-! ### Groups and ranges (R263, R264, R279) -/

/-- The first reserved field of a record that is not 0: word, lowest bit. -/
def recordRsv (ws : List DWord) (fs : List (Nat × Nat × Nat)) : Option (Nat × Nat) :=
  (fs.find? (fun f => decide (fld (wrd ws f.1) f.2.1 f.2.2 ≠ 0))).map (fun f => (f.1, f.2.1))

def refuseRecord (o : Option (Nat × Nat)) : Act Unit :=
  match o with
  | some (w, b) => throw (badRecord w b)
  | none => pure ()

def unitHailGroupSet (c : Nat) (d : Desc) : Act (Option Stop) := do
  let g := fld (d.word 2) 0 3
  checks ([(decide ((d.word 1).toNat % 64 ≠ 0), badDesc 1 0 9), rsv d 2 3 61] ++ rsvWords d [3, 4, 5, 6, 7])
  let bs ← rdVa (d.who c) (d.word 1).toNat 64
  let ws := bytesWords 8 bs
  refuseRecord (recordRsv ws [(0, 1, 31), (2, 32, 32), (3, 0, 64), (4, 0, 64), (5, 0, 64), (6, 0, 64), (7, 0, 64)])
  let x ← getCtx c
  let set := bit (wrd ws 0) 0
  checks [ (decide ((x.group g).state ≠ .idle), badState x 0x0604),
           (!set && x.ranges.any (fun r => r.2.valid && r.2.group == g), badState x 0x0604) ]
  let first := BitVec.ofNat 32 (fld (wrd ws 0) 32 32)
  let v : HailGroup := { HailGroup.reset with
    valid := true, expect := first, lastTag := first - 1, key := wrd ws 1, stream := BitVec.ofNat 32 (fld (wrd ws 2) 0 32) }
  modCtxA c (fun x => { x with groups := tput x.groups g (if set then v else HailGroup.reset) })
  okResult 0

def execHailGroupSet (d : DescRef) (s : State) : Host.Outcome State Fault Refusal :=
  .next (issue 0x603 d (unitHailGroupSet d.ctx) s)

/-- Why a range record is refused: word and lowest bit. A record that empties the range is judged for its reserved fields alone. -/
def rangeBad (ws : List DWord) : Option (Nat × Nat) :=
  let w := wrd ws
  let count := fld (w 3) 0 36
  (recordRsv ws [(0, 5, 3), (0, 16, 48), (3, 36, 28), (4, 48, 16), (5, 0, 64), (6, 0, 64), (7, 0, 64)]).orElse (fun _ =>
    if bit (w 0) 0 then
      (([ (decide (fld (w 0) 8 4 ≠ 1 ∧ fld (w 0) 8 4 ≠ 2), (0, 8)), (decide (1 < fld (w 0) 12 4), (0, 12)),
          (decide ((w 1).toNat % 64 ≠ 0), (1, 0)), (decide ((w 2).toNat % 64 ≠ 0), (2, 0)),
          (decide (count % 32 ≠ 0) || decide (count < 32) || decide (2 ^ 35 < count), (3, 0)) ] : List (Bool × (Nat × Nat))).find? (·.1)).map (·.2)
    else none)

/-- Pieces that follow one another in physical memory: where they begin. -/
def oneRun : List (Nat × Nat) → Option Nat
  | [] => none
  | [p] => some p.1
  | p :: q :: r => if p.1 + p.2 = q.1 then (oneRun (q :: r)).map (fun _ => p.1) else none

/-- The stack that holds n bytes from pa on. -/
def State.stackOf (s : State) (pa n : Nat) : Option Nat :=
  match s.backing pa with
  | .stack k => if s.backing (pa + n - 1) = .stack k then some k else none
  | _ => none

/-- The checks of HAIL_RANGE_SET after its wait, its record's among them (R270), and its effect. -/
def setRange (c : Nat) (d : Desc) (ws : List DWord) : Act (Option Stop) := do
  refuseRecord (rangeBad ws)
  let w := d.who c
  let k := fld (d.word 2) 0 6
  let w0 := wrd ws 0
  let g := fld w0 1 3
  let x ← getCtx c
  let old := x.range k
  let count := fld (wrd ws 3) 0 36
  checks [ (old.valid && decide ((x.group old.group).state ≠ .idle), badState x 0x0604) ]
  if !bit w0 0 then do
    modCtxA c (fun x => { x with ranges := tdel x.ranges k })
    okResult 0
  else do
    checks [ (!(x.group g).valid, badState x 0x0601), (decide ((x.group g).state ≠ .idle), badState x 0x0604) ]
    let gb := if fld w0 12 4 = 0 then 4 else 2
    let wp ← xlRange w (wrd ws 1).toNat (2 * count) true
    let gp ← xlRange w (wrd ws 2).toNat (gb * count) false
    let s ← get
    match oneRun wp, oneRun gp with
    | some wPa, some gPa => do
      let r : HailRange := { valid := true, group := g, decay := bit w0 4, wFmt := fld w0 8 4, gFmt := fld w0 12 4, wPa := wPa,
                             gPa := gPa, count := count, logOff := fld (wrd ws 4) 0 48, ptr := 0 }
      let meets (o : HailRange) : Bool :=
        [(r.wPa, 2 * r.count), (r.gPa, gb * r.count)].any (fun a =>
          [(o.wPa, 2 * o.count), (o.gPa, o.gBytes * o.count)].any (fun b => overlap a.1 a.2 b.1 b.2))
      let x ← getCtx c
      checks [ (decide (s.stackOf wPa (2 * count) = none) || decide (s.stackOf wPa (2 * count) ≠ s.stackOf gPa (gb * count)),
                 badState x 0x0605),
               (x.ranges.any (fun o => decide (o.1 ≠ k) && o.2.valid && meets o.2), badState x 0x0606) ]
      modCtxA c (fun x => { x with ranges := tput x.ranges k r })
      okResult 0
    | _, _ => throw (badState x 0x0605)

/-- The groups of a waiting HAIL_RANGE_SET are free: no other opcode that names one is under way, of those that wait like it none was
admitted earlier (R270). -/
def Ctx.rangeFree (x : Ctx) (d : Desc) : Bool :=
  let gs := x.hailGroups d
  let before := x.descs.takeWhile (fun e => !e.is d.ring d.index)
  !x.inFlight d (fun e => gs.any (x.hailGroups e).contains &&
    (match e.prog with
      | .hailSet _ _ => decide (e.st ≠ .executing) || before.any (fun b => b.is e.ring e.index)
      | _ => true))

/-- Once its groups are free the set goes on, and holds them until it completes. -/
def goRange (c : Nat) (d : Desc) (ws : List DWord) : Act (Option Stop) := do
  let x ← getCtx c
  if x.rangeFree d then do
    modify (fun s => s.setProg c d.ring d.index (.hailSet ws (x.oldGroup (fld (d.word 2) 0 6))))
    setRange c d ws
  else pure none

def unitHailRangeSet (c : Nat) (d : Desc) : Act (Option Stop) := do
  match d.prog with
  | .hailSet ws _ => goRange c d ws
  | _ => do
    checks ([(decide ((d.word 1).toNat % 64 ≠ 0), badDesc 1 0 9), rsv d 2 6 58] ++ rsvWords d [3, 4, 5, 6, 7])
    let bs ← rdVa (d.who c) (d.word 1).toNat 64
    let ws := bytesWords 8 bs
    modify (fun s => s.setProg c d.ring d.index (.hailSet ws []))
    goRange c { d with prog := .hailSet ws [], st := .executing } ws

/-- HAIL_RANGE_SET issues, or goes on when it waited for its groups. -/
def execHailRangeSet (ref : DescRef) (s : State) : Host.Outcome State Fault Refusal :=
  .next (match s.desc ref with
    | none => s
    | some d =>
      if d.st = .executing then
        if (s.ctx ref.ctx).waitsHere then continueDesc 0x604 ref (unitHailRangeSet ref.ctx) s else s
      else issue 0x604 ref (unitHailRangeSet ref.ctx) s)

/-! ### HAIL_STATUS (R281) -/

def GroupState.code : GroupState → Nat
  | .idle => 0
  | .prepared => 1
  | .committing => 2
  | .partial_ => 3

def Ctx.hailStatus (x : Ctx) (g : Nat) : List DWord :=
  let k := x.group g
  let bits (p : HailRange → Bool) : Nat :=
    ((List.range 64).map (fun i => let r := x.range i; if r.valid ∧ r.group = g ∧ p r = true then 2 ^ i else 0)).sum
  [ at_ k.state.code 0 ||| at_ (b2n k.valid) 2 ||| at_ k.expect.toNat 32,
    at_ k.lastTag.toNat 0 ||| (if k.state = .idle then 0 else at_ k.prepTag.toNat 32),
    at_ (bits (fun _ => true)) 0,
    at_ (bits (fun r => decide (0 < r.ptr))) 0,
    0, 0, 0, 0 ]

def unitHailStatus (c : Nat) (d : Desc) : Act (Option Stop) := do
  checks ([(decide ((d.word 1).toNat % 64 ≠ 0), badDesc 1 0 9), rsv d 2 3 61] ++ rsvWords d [3, 4, 5, 6, 7])
  let x ← getCtx c
  wrVa (d.who c) (d.word 1).toNat (wordsBytes (x.hailStatus (fld (d.word 2) 0 3)))
  okResult 0

def execHailStatus (d : DescRef) (s : State) : Host.Outcome State Fault Refusal :=
  .next (issue 0x605 d (unitHailStatus d.ctx) s)

end Sys2Proof.Machine
end

