-- ==== Sys2Proof/Machine/Jet.lean ====
section
/-! DEFINITION. Jet.lean: the Jetstream: ring slots, passes, JET packets (R332 to R335, R340). -/
namespace Sys2Proof.Machine

def Pkt.jetChunk (p : Pkt) : Nat := fld (p.w 1) 0 24
def Pkt.jetGeo (p : Pkt) : Nat := fld (p.w 1) 24 24
def Pkt.jetSlotNo (p : Pkt) : Nat := fld (p.w 2) 0 2
def Pkt.jetRound (p : Pkt) : Word := BitVec.ofNat 32 (fld (p.w 2) 32 32)

/-- Held packets of a ring slot that are for neither this round nor the next are dropped (R335). -/
def State.purgeJet (s : State) (c k : Nat) : State :=
  let q := (s.ctx c).jetSlot k
  let stale (p : Pkt) : Bool := decide (p.type = 5) && decide (p.destCtx = c) && decide (p.jetSlotNo = k)
    && (!q.valid || (p.jetRound != q.expect && p.jetRound != q.expect + 1))
  [0, 1].foldl (fun s die =>
    let n := ((s.store die).held.filter (fun e => stale e.2)).length
    if n = 0 then s
    else s.modStore die (fun t => { t with held := t.held.filter (fun e => !stale e.2), drop := true, earlyCnt := satAdd t.earlyCnt n })) s

/-! ### JET_RING_SET (R332) -/

def unitJetRingSet (c : Nat) (d : Desc) : Act (Option Stop) := do
  let k := fld (d.word 2) 0 2
  let w1 := d.word 1
  checks ([rsv d 1 14 2, rsv d 1 26 6, rsv d 1 46 18, rsv d 2 3 29] ++ rsvWords d [3, 4, 5, 6, 7])
  let v : JetSlot := if bit (d.word 2) 2 then
      { JetSlot.reset with valid := true, nextEpid := fld w1 0 14, nextCtx := fld w1 16 10, prevEpid := fld w1 32 14
                           expect := BitVec.ofNat 32 (fld (d.word 2) 32 32) }
    else JetSlot.reset
  modify (fun s => (s.modJet c k (fun _ => v)).purgeJet c k)
  okResult 0

def execJetRingSet (d : DescRef) (s : State) : Host.Outcome State Fault Refusal :=
  .next (issue 0x720 d (unitJetRingSet d.ctx) s)

/-! ### JET_PASS: what it sends (R334, R335) -/

/-- A direction of a pass: space, sequence, layer, first position. -/
structure JetEnd where
  space : Nat
  seq : Nat
  layer : Nat
  pos : Nat
  deriving DecidableEq, Repr

def Desc.jetSrc (d : Desc) : JetEnd := ⟨fld (d.word 2) 0 3, fld (d.word 2) 3 16, fld (d.word 2) 32 16, fld (d.word 3) 0 32⟩
def Desc.jetDst (d : Desc) : JetEnd := ⟨fld (d.word 4) 0 3, fld (d.word 4) 3 16, fld (d.word 4) 32 16, 0⟩
def Desc.jetTok (d : Desc) : Nat := fld (d.word 3) 32 32
def Desc.jetSlotNo (d : Desc) : Nat := fld (d.word 1) 0 2

/-- TB. -/
def KvSpace.tb (p : KvSpace) : Nat := 2 * p.tok * p.d * p.esz

/-- The geometry that a JET header carries. -/
def KvSpace.geo (p : KvSpace) (hkv : Nat) : Nat :=
  p.geom % 4 + p.tokLog2 % 16 * 4 + p.fmt % 16 * 64 + p.dsel % 4 * 1024 + (hkv - 1) % 256 * 4096

/-- What a direction that is taken must meet at check 11 (reason 0x0724); a guest's LEN must be 0, a source range lies below LEN. -/
def jetFits (w : Who) (e : JetEnd) (n : Nat) (guest : Bool) : Act Bool := do
  let p ← getSpace w e.space
  let r ← rdSeq w e.space e.seq
  if p.geom = 0 ∨ r.valid = false ∨ e.pos % p.tok ≠ 0 ∨ n % p.tok ≠ 0 ∨ p.tb % 4096 ≠ 0 ∨ r.layers ≤ e.layer then pure false
  else do
    let len ← rd32 w (lenVa p r e.layer)
    pure (if guest then decide (len = 0) else decide (e.pos + n ≤ len))

/-- The pages of a pass in order: for each head, each page of the range: its number. -/
def jetPages (w : Who) (e : JetEnd) (n : Nat) : Act (List Nat) := do
  let p ← getSpace w e.space
  let r ← rdSeq w e.space e.seq
  let slots := ((List.range r.hkv).map (fun h => (List.range (n / p.tok)).map (fun i => mapVa p r e.layer h (e.pos / p.tok + i)))).flatten
  slots.mapM (fun a => rd32 w a)

/-- The chunks of a pass are sent once every page can be read; false while one is being recomputed. -/
def jetSend (w : Who) (k : Nat) (d : Desc) (r : JetRun) : Act Bool := do
  let e := d.jetSrc
  let ms ← jetPages w e d.jetTok
  let ready ← ms.foldlM (fun (ok : Bool) m => do
    let (need, _, _) ← needPage w e.space ms m false
    let p ← getSpace w e.space
    let pe ← rdEntry w e.space m
    if need ≠ .ready then pure false
    else do
      let here ← pageHere w e.space p.tb pe.tier (w.pageRead 0 m (p.frameVa pe.tier pe.frame))
      pure (ok && here)) true
  if !ready then pure false
  else do
    let p ← getSpace w e.space
    let q ← rdSeq w e.space e.seq
    let bs ← ms.mapM (fun m => do
      let pe ← rdEntry w e.space m
      readPage w pe.tier (p.frameVa pe.tier pe.frame) p.tb)
    let x ← getCtx w.ctx
    let slot := x.jetSlot k
    let s ← get
    let per := p.tb / 4096
    let pkts := ((List.range ms.length).map (fun i => (List.range per).map (fun j =>
      let data := ((bs.getD i []).drop (4096 * j)).take 4096
      (⟨s.header 5 false slot.nextEpid 16 (at_ ((i * per + j) % 2 ^ 24) 0 ||| at_ (p.geo q.hkv) 24)
          (at_ k 0 ||| at_ slot.nextCtx 4 ||| at_ r.round.toNat 32) (at_ d.jetTok 0),
        (List.range 16).map (fun f => bytesWords 32 ((data.drop (256 * f)).take 256))⟩ : Pkt)))).flatten
    match s.sendAll (some (w.ctx, w.ring, w.index)) pkts with
    | (s1, none) => do
      set (s1.modJet w.ctx k (fun q => { q with run := q.run.map (fun r => { r with send := false }) }))
      pure true
    | (s1, some l) => do
      set s1
      throw ⟨0x60, l⟩

/-! ### What it receives (R335) -/

/-- The receive as an append of NTOK tokens of one layer at position 0 (R188). -/
def Desc.jetAppend (d : Desc) : KvAppend :=
  let e := d.jetDst
  { scatter := true, kSrc := 0, vSrc := 0, layer := e.layer, layers := 1, pos := 0, n := d.jetTok, srcFmt := 0, srcLd := 0, round := 0,
    lstride := 0, rnd := rndBlock 0 0 }

/-- A run of a ring slot changes. -/
def modJetRun (c k : Nat) (f : JetRun → JetRun) : Act Unit :=
  modify (fun s => s.modJet c k (fun q => { q with run := q.run.map f }))

/-- The guest pages are allocated at the first packet: true once they stand in the map, false while frames are on their way. -/
def jetPlace (w : Who) (k : Nat) (d : Desc) (r : JetRun) (geo : Nat) : Act Bool := do
  let e := d.jetDst
  let p ← getSpace w e.space
  let q ← rdSeq w e.space e.seq
  let x ← getCtx w.ctx
  require (decide (geo = p.geo q.hkv)) (badState x 0x0723)
  let parts ← appendParts w e.space d.jetAppend q
  let need := (parts.filter (fun g => !g.inPlace)).length
  let got ← takePairs w e.space [] need (need + 1) r.taken
  if got.length < need then do
    let dry ← noFrameComing w e.space
    let pages ← hdr w e.space hPagesFree
    if dry || decide (pages = 0) then do
      returnTaken w e.space got
      hdrInc w e.space hAllocFails
      modJetRun w.ctx k (fun r => { r with taken := [] })
      throw (badState x 0x0407)
    else do
      modJetRun w.ctx k (fun r => { r with taken := got })
      pure false
  else do
    let (zero, _) ← zipPairs w e.space e.seq parts got
    if zero then advanceEpoch w e.space else pure ()
    modJetRun w.ctx k (fun r => { r with placed := true, taken := [] })
    pure true

/-- The receive is whole: every page is SEALED and LEN is NTOK. -/
def jetWhole (w : Who) (k : Nat) (d : Desc) : Act Unit := do
  let e := d.jetDst
  let p ← getSpace w e.space
  let q ← rdSeq w e.space e.seq
  let ms ← jetPages w e d.jetTok
  ms.forM (fun m => do
    let pe ← rdEntry w e.space m
    wrEntry w e.space m { pe with fill := p.tok, state := if pe.inTransit then pe.state else pgSealed })
  wr32 w (lenVa p q e.layer) d.jetTok
  modJetRun w.ctx k (fun r => { r with recv := false })

/-- A packet of the round reaches its receive: false while it must wait for pages. -/
def jetTake (w : Who) (k : Nat) (d : Desc) (r : JetRun) (p : Pkt) : Act Bool := do
  let e := d.jetDst
  let sp ← getSpace w e.space
  let ok ← if r.placed then pure true else jetPlace w k d r p.jetGeo
  if !ok then pure false
  else do
    let ms ← jetPages w e d.jetTok
    let total := ms.length * sp.tb / 4096
    let n := p.jetChunk
    if total ≤ n then pure true
    else do
      let pe ← rdEntry w e.space (ms.getD (n * 4096 / sp.tb) 0)
      wrVa w (sp.frameVa pe.tier pe.frame + n * 4096 % sp.tb) (wordsBytes p.data.flatten)
      let got := if r.got.contains n then r.got else r.got ++ [n]
      modJetRun w.ctx k (fun r => { r with got := got })
      if got.length = total then jetWhole w k d else pure ()
      pure true

/-- The pass of a ring slot whose descriptor executes. -/
def State.jetOpen (s : State) (c k : Nat) : Option (Desc × JetRun) :=
  match ((s.ctx c).jetSlot k).run with
  | some r =>
    match (s.ctx c).findDesc r.ring r.index with
    | some d => if d.st = .executing then some (d, r) else none
    | none => none
  | none => none

/-- A JET packet by its source and ROUND. -/
def State.jetPacket (s : State) (port : Nat) (p : Pkt) : State :=
  let c := p.destCtx
  let k := p.jetSlotNo
  let die := dieOf port
  let q := (s.ctx c).jetSlot k
  let early := p.jetRound == q.expect || p.jetRound == q.expect + 1
  if !(s.ctx c).takesPackets || !q.valid || decide (p.src ≠ q.prevEpid) then s.earlyDrop die
  else
    match s.jetOpen c k with
    | some (d, r) =>
      if r.recv = true ∧ p.jetRound = r.round then
        match jetTake (d.who c) k d r p s with
        | .ok true s1 => s1.jetSettle c k
        | .ok false s1 => s1.holdPkt port p
        | .error st s1 => s1.finish c d.ring d.index st
      else if early then s.holdPkt port p
      else s.earlyDrop die
    | none => if early then s.holdPkt port p else s.earlyDrop die

/-- The oldest VC3 packet of a port is a JET packet for this module: it is written into its guest sequence, held or dropped. -/
def execJet (port : Nat) (s : State) : Host.Outcome State Fault Refusal :=
  .next (match s.rxHead port 3 with
    | some p =>
      if p.type = 5 ∧ s.route p.dst = .local_ then State.fitStore s ((s.takeRx port 3).jetPacket port p) (dieOf port) else s
    | none => s)

/-- The held packets of the round are taken, oldest first. -/
def State.jetRelease (s : State) (c k : Nat) (round : Word) : State :=
  [0, 1].foldl (fun s die =>
    let mine (p : Pkt) : Bool := decide (p.type = 5) && decide (p.destCtx = c) && decide (p.jetSlotNo = k) && p.jetRound == round
    let ps := (s.store die).held.filter (fun e => mine e.2)
    ps.foldl (fun s e => s.jetPacket e.1 e.2)
      (s.modStore die (fun t => { t with held := t.held.filter (fun e => !mine e.2) }))) s

/-! ### JET_PASS itself -/

def jetChecks (d : Desc) : List (Bool × Stop) :=
  [ (decide (fld (d.word 1) 2 2 = 0), badDesc 1 2 9), rsv d 1 4 28, rsv d 2 19 13, rsv d 2 48 16, rsv d 4 19 13, rsv d 4 48 16,
    rsv d 5 16 48 ] ++ rsvWords d [6, 7, 8, 9, 10, 11, 12, 13, 14]

/-- The pass goes on: what it has not sent yet, and what is held for it. -/
def jetGo (c k : Nat) (d : Desc) : Act (Option Stop) := do
  let w := d.who c
  let s ← get
  match s.jetOpen c k with
  | none => pure none
  | some (_, r) => do
    if r.send then let _ ← jetSend w k d r else pure ()
    modify (fun s => (s.jetRelease c k r.round).jetSettle c k)
    pure none

def unitJetPass (c : Nat) (d : Desc) : Act (Option Stop) := do
  let k := d.jetSlotNo
  match d.prog with
  | .jet _ => jetGo c k d
  | _ => do
    let w := d.who c
    let n := d.jetTok
    let round := BitVec.ofNat 32 (fld (d.word 1) 32 32)
    let (sending, receiving) := (bit (d.word 1) 2, bit (d.word 1) 3)
    let x ← getCtx c
    let q := x.jetSlot k
    checks (jetChecks d)
    checks [ (receiving && x.frozen, badState x 0), (!q.valid, badState x 0x0721), (q.expect != round, badState x 0x0722) ]
    let okS ← if sending then jetFits w d.jetSrc n false else pure true
    let okR ← if receiving then jetFits w d.jetDst n true else pure true
    require (okS && okR) (badState x 0x0724)
    if n = 0 then noopResult 0
    else do
      let g ← if receiving then rdSeq w d.jetDst.space d.jetDst.seq else pure ⟨[]⟩
      checks [(receiving && decide (g.maxLen < n), shapeOver 0 0 0xFFF n)]
      let run : JetRun := { ring := d.ring, index := d.index, round := round, send := sending, recv := receiving, placed := false,
                            taken := [], got := [] }
      modify (fun s => ((s.modJet c k (fun q => { q with run := some run })).purgeJet c k).setProg c d.ring d.index (.jet k))
      jetGo c k { d with prog := .jet k }

/-- JET_PASS issues, or, where it waits for a page, goes on, in a PAUSED context too (R330). -/
def execJetPass (ref : DescRef) (s : State) : Host.Outcome State Fault Refusal :=
  .next (match s.desc ref with
    | none => s
    | some d =>
      if d.st = .executing ∧ d.opcode = 0x721 then
        if (s.ctx ref.ctx).takesPackets then State.settle ref.ctx ref.ring ref.index (unitJetPass ref.ctx d s.tick) else s
      else issue 0x721 ref (unitJetPass ref.ctx) s)

/-- The DOLD limit of a pass expires: what it took and did not use is returned, and it ends with 0x41. -/
def execJetDoldrums (ref : DescRef) (s : State) : Host.Outcome State Fault Refusal :=
  .next (match s.desc ref with
    | none => s
    | some d =>
      match d.prog with
      | .jet k =>
        match s.jetOpen ref.ctx k with
        | some (d, r) =>
          if fld (d.word 5) 0 16 = 0 then s
          else
            let s1 := if r.taken.isEmpty then s else s.agent (returnTaken (d.who ref.ctx) d.jetDst.space r.taken)
            s1.finish ref.ctx d.ring d.index ⟨0x41, at_ (0xFFFFFFF8 + k) 0 ||| at_ r.round.toNat 32⟩
        | none => s
      | _ => s)

end Sys2Proof.Machine
end

