-- ==== Sys2Proof/Machine/Ras.lean ====
section
/-! DEFINITION. Ras.lean: patrol scrubs, self-tests, and the errors that reach further than one descriptor (R214, R217, R449 to R461). -/
namespace Sys2Proof.Machine

/-! ### Patrol scrubs (R214, R217, R451, R457) -/

/-- A pin whose symbols are corrected on 256 lines is suspect, and Bluone has the stack's next training remap it (R457, R458). -/
def State.pinLine (s : State) (n pin : Nat) (loc : DWord) : State :=
  let was := tget 0 (s.stack n).pinLines pin
  let s1 := s.modStack n (fun k => { k with pinLines := tput k.pinLines pin (was + 1), pinSuspect := k.pinSuspect || decide (256 ≤ was + 1) })
  if was + 1 = 256 then
    { s1 with blu := { s1.blu with suspects := (n, pin) :: s1.blu.suspects.filter (· != (n, pin)) } }.errLog 10 3 n 0x1F loc LogWho.none
  else s1

/-- A line of a stack, as the scrub finds it. -/
def State.stackFinding (s : State) (n : Nat) : Finding → State
  | .corrected a pin =>
    if s.backing a = .stack n then
      let s1 := (s.modStack n (fun k => { k with ce := true, ceCnt := satInc k.ceCnt })).logCorrected 3 n (BitVec.ofNat 64 a)
      s1.pinLine n pin (BitVec.ofNat 64 a)
    else s
  | .uncorrectable a =>
    if s.backing a = .stack n then
      let s1 := s.modStack n (fun k => { k with ue := true, ueCnt := satInc k.ueCnt })
      { s1 with ueLines := if s1.ueLines.contains (a / 64) then s1.ueLines else s1.ueLines ++ [a / 64] }.errLog 3 3 n 0x1F (BitVec.ofNat 64 a)
        LogWho.none
    else s
  | .upset _ => s

/-- The scrub of a stack has read every line (R214). -/
def execStackPatrolScrub (n : Nat) (found : List Finding) (s : State) : Host.Outcome State Fault Refusal :=
  .next (if s.nStacks ≤ n ∨ ¬ (s.stack n).inService ∨ (s.stack n).lost then s
    else (found.foldl (fun s f => s.stackFinding n f) s).modStack n (fun k => { k with scrubCnt := satInc k.scrubCnt }))

/-- A line of a DIMM channel, as the scrub finds it. -/
def State.dimmFinding (s : State) (ch : Nat) : Finding → State
  | .corrected a _ =>
    if s.backing a = .dimm ch then
      (s.modDimm ch (fun k => { k with ceCnt := satInc k.ceCnt })).logCorrected 4 ch (BitVec.ofNat 64 a)
    else s
  | .uncorrectable a =>
    if s.backing a = .dimm ch then
      let s1 := s.modDimm ch (fun k => { k with ueCnt := satInc k.ueCnt })
      { s1 with ueLines := if s1.ueLines.contains (a / 64) then s1.ueLines else s1.ueLines ++ [a / 64] }.errLog 3 4 ch 0x1F (BitVec.ofNat 64 a)
        LogWho.none
    else s
  | .upset _ => s

def execDimmPatrolScrub (ch : Nat) (found : List Finding) (s : State) : Host.Outcome State Fault Refusal :=
  .next (if 16 ≤ ch ∨ (s.dimm ch).state ≠ 1 then s else found.foldl (fun s f => s.dimmFinding ch f) s)

/-- The context and the seat whose scratchpad a core of a tile holds. -/
def State.seatOn (s : State) (t core : Nat) : Option (Nat × Nat) :=
  (s.ctxs.map (fun e => (e.2.sched.place.filter (fun p => p.1 == t && p.2.2 == core)).map (fun p => (e.1, p.2.1)))).flatten.head?

/-- A word that no access can have any more until it is written whole: a pool word, or a word of the seat that the core holds (R451). -/
def State.badWord (s : State) (t : Nat) (core : Option Nat) (w : Nat) : State :=
  match core with
  | none => s.modTile t (fun k => { k with poolBad := if k.poolBad.contains w then k.poolBad else k.poolBad ++ [w] })
  | some n =>
    match s.seatOn t n with
    | some (c, q) => s.modSeat c t q (fun k => { k with bad := if k.bad.contains w then k.bad else k.bad ++ [w] })
    | none => s

/-- A word of a context's state is uncorrectable: its next descriptor that uses it will end with 0x31 (R460). -/
def State.badContextWord (s : State) (c : Nat) (b : BadWord) : State :=
  if (s.ctx c).st = .empty then s
  else s.modCtx c (fun x => { x with badWords := if x.badWords.contains b then x.badWords else x.badWords ++ [b] })

/-- The state of the ring engine or of a sequencer that held a descriptor is uncorrectable (R460): the descriptor ends with 0x7F, whose RESULT is the
index of the log's entry (R58), and its record's writing tears the context down. -/
def State.internalError (s : State) (r : DescRef) : State :=
  match s.desc r with
  | none => s
  | some d =>
    if (s.ctx r.ctx).st = .empty ∨ (s.ctx r.ctx).st = .dead ∨ d.st = .done then s
    else
      let i := s.logIndex
      let s1 := s.errLog 5 13 (b2n (s.dom (s.ctxDom r.ctx)).homeIo) 0x1F 0 (s.logWho (d.who r.ctx) 0x7F)
      { s1 with err := { s1.err with internal := true, internalCnt := satInc s1.err.internalCnt } }.finish r.ctx r.ring r.index ⟨0x7F, at_ i 0⟩

/-- An uncorrectable word that no scrub reads (R460). A bad routing entry counts as not VALID until it is written again; a bad word of Bluone's SRAM
restarts Bluone, and contexts run on. -/
def State.upset (s : State) : Upset → State
  | .store c b => s.badContextWord c b
  | .route e =>
    (s.modLnk (fun l => { l with badRoutes := if l.badRoutes.contains e then l.badRoutes else l.badRoutes ++ [e] })).errLog 3 15 0 0x1F
      (BitVec.ofNat 64 e) LogWho.none
  | .ringEngine held => held.foldl State.internalError s
  | .bluone => if s.blu.halted ∨ ¬ s.pins.inputGood then s else s.restartBluone.errLog 3 12 0 0x1F 0 LogWho.none

/-- SOURCE of what a scrub of SRAM finds. -/
def findingSource : Finding → Nat
  | .upset (.store _ b) => (storeSource b.store)
  | .upset (.route _) => 15
  | .upset (.ringEngine _) => 13
  | .upset .bluone => 12
  | _ => 0

/-- Findings are logged in ascending SOURCE (R461); of one SOURCE, in the order in which they come. -/
def inSourceOrder (l : List Finding) : List Finding :=
  (List.range 16).flatMap (fun n => l.filter (fun f => findingSource f == n))

/-- A word of a scratchpad or of the pool, as the scrub finds it. -/
def State.sramFinding (s : State) (t : Nat) (core : Option Nat) : Finding → State
  | .corrected a _ =>
    (s.modTile t (fun k => { k with ce := true, ceCnt := satInc k.ceCnt })).logCorrected (if core.isSome then 1 else 2) t
      (BitVec.ofNat 64 a)
  | .uncorrectable a =>
    ((s.modTile t (fun k => { k with ue := true, ueCnt := satInc k.ueCnt })).badWord t core (a / 8)).errLog 3 (if core.isSome then 1 else 2) t
      (core.getD 0x1F) (BitVec.ofNat 64 a) LogWho.none
  | .upset u => s.upset u

/-- The scrub of a core's scratchpad, or of a tile's pool where no core is named, has read every row (R451). The command also brings what the
checks of the module's other SRAM have found (log entry 92). -/
def execSramPatrolScrub (t : Nat) (core : Option Nat) (found : List Finding) (s : State) : Host.Outcome State Fault Refusal :=
  .next (if s.nTiles ≤ t ∨ ¬ (s.tile t).inService then s else (inSourceOrder found).foldl (fun s f => s.sramFinding t core f) s)

/-! ### Cores (R454) -/

/-- A retired core clears its ENABLED bit. -/
def State.retireCore (s : State) (t n : Nat) : State :=
  (s.modTile t (fun k => { k.modCore n (fun x => { x with held := false, faultInTest := false }) with
    enabled := k.enabled &&& ~~~(1#18 <<< n), narrowed := k.narrowed &&& ~~~(1#18 <<< n)
    retiredCnt := satInc k.retiredCnt })).errLog 9 7 t n 0 LogWho.none

/-- A held core's self-test ends. -/
def execCoreSelfTestDone (t n : Nat) (pass : Bool) (s : State) : Host.Outcome State Fault Refusal :=
  let k := (s.tile t).core n
  .next (if !k.held then s
    else if pass && !k.faultInTest && decide (k.faultCnt.toNat < 3) then s.modTile t (fun e => e.modCore n (fun x => { x with held := false }))
    else s.retireCore t n)

/-! ### Errors of the module (R217, R460) -/

/-- A context is killed by a fatal error; one that is being torn down takes its cause, with the records already written (R461). -/
def State.killFatal (s : State) (c : Nat) : State :=
  let k : KillReg := ⟨0x7F, 0, 0, false⟩
  if (s.ctx c).st = .dead ∧ (s.ctx c).descs ≠ [] then s.modCtx c (fun x => { x with kill := k }) else s.teardown c k

/-- Every context that is not EMPTY is killed with 0x7F, and no creation is answered until module reset. -/
def execFatalError (loc : DWord) (s : State) : Host.Outcome State Fault Refusal :=
  let cs := (tkeys s.ctxs).filter (fun c => decide ((s.ctx c).st ≠ .empty))
  let s1 := cs.foldl State.killFatal s
  let e := { s1.err with
    fatal := true, closed := true, internal := s1.err.internal || !cs.isEmpty, internalCnt := satAdd s1.err.internalCnt cs.length }
  .next ({ s1 with err := e }.errLog 6 12 0 0x1F loc LogWho.none)

/-- A stack device is lost: each later access to it completes with 0x31. -/
def execStackLost (n : Nat) (s : State) : Host.Outcome State Fault Refusal :=
  .next (if s.nStacks ≤ n ∨ (s.stack n).lost then s
    else (s.modStack n (fun k => { k with lost := true })).errLog 3 3 n 0x1F (BitVec.ofNat 64 (stackBase n)) LogWho.none)

/-- A DIMM channel fails in service (R217). -/
def execDimmChannelFail (ch : Nat) (s : State) : Host.Outcome State Fault Refusal :=
  .next (if 16 ≤ ch ∨ (s.dimm ch).state ≠ 1 then s
    else (s.modDimm ch (fun k => { k with state := 3 })).errLog 3 4 ch 0x1F 0 LogWho.none)

end Sys2Proof.Machine
end

