-- ==== Sys2Proof/Machine/Thin.lean ====
section
/-! DEFINITION. Thin.lean: THIN, block top-k thinning (R313 to R315), and ATTN_MERGE (R336). -/
namespace Sys2Proof.Machine

/-! ### THIN -/

structure Thin where
  acc : Nat
  rin : Nat
  rout : Nat
  send : Nat
  smap : Nat
  nseg : Nat
  segLog2 : Nat
  k : Nat
  deriving DecidableEq, Repr

def Desc.thin (d : Desc) : Thin :=
  ⟨(d.word 1).toNat, (d.word 2).toNat, (d.word 3).toNat, (d.word 4).toNat, (d.word 5).toNat, fld (d.word 6) 0 24,
    fld (d.word 6) 24 4, fld (d.word 6) 32 13⟩

/-- Blocks of a segment. -/
def Thin.blocks (t : Thin) : Nat := 2 ^ t.segLog2
/-- Bytes of ACC, RIN and ROUT; of SEND; of SMAP. -/
def Thin.full (t : Thin) : Nat := t.nseg * t.blocks * 256
def Thin.sendBytes (t : Thin) : Nat := t.nseg * t.k * 256
def Thin.smapBytes (t : Thin) : Nat := t.nseg * (t.blocks / 8)

/-- Check 9 (R313), in order, then the reserved fields; of two buffers that overlap the lower word is reported (R487). -/
def Thin.checks (t : Thin) (x : Ctx) (d : Desc) : List (Bool × Stop) :=
  let ins : List (Nat × Nat × Nat) := [(t.acc, t.full, 1), (t.rin, t.full, 2)]
  let outs : List (Nat × Nat × Nat) := [(t.rout, t.full, 3), (t.send, t.sendBytes, 4), (t.smap, t.smapBytes, 5)]
  let al (v w : Nat) : Bool × Stop := (decide (v % 64 ≠ 0), badDesc w 0 9)
  [ (decide (2097152 < t.nseg), badDesc 6 0 9),
    (decide (t.segLog2 < 9) || decide (12 < t.segLog2), badDesc 6 24 9),
    (decide (t.k = 0), badDesc 6 32 9), (decide (t.blocks < t.k), badDesc 6 24 9),
    al t.acc 1, al t.rin 2, al t.rout 3, al t.send 4, al t.smap 5,
    (decide (2 ^ 30 < t.nseg * t.blocks), badDesc 6 0 9) ]
  ++ ((List.range 3).map (fun i =>
      let o := outs.getD i (0, 0, 0)
      (ins ++ outs.take i).map (fun p => (overlap o.1 o.2.1 p.1 p.2.1, badDesc p.2.2 0 9)))).flatten
  ++ jobChecks x d 7 ++ [rsv d 6 28 4, rsv d 6 45 19, rsv d 7 30 34] ++ rsvWords d [8, 9, 10, 11, 12, 13, 14]

def unitThin (c : Nat) (d : Desc) : Act (Option Stop) := do
  match d.prog with
  | .job j => startJob c d j (sectionBits j.total)
  | _ => do
    let s ← get
    let x := s.ctx c
    checks (d.thin.checks x d)
    checks [phaseCheck x d.opcode, (s.jobBusy c d, badState x 0x0303)]
    holdCounters c d
    if d.thin.nseg = 0 then noopResult 0
    else startJob c d { started := false, waits := [], dims := [d.thin.nseg], latch := [], total := d.thin.nseg, section_ := 0, bits := [],
                             joined := [], left := [], run := 0, dups := 0, flags := 0, sums := [], chunks := [] } (sectionBits d.thin.nseg)

def execThin (d : DescRef) (s : State) : Host.Outcome State Fault Refusal := .next (issue 0x710 d (unitThin d.ctx) s)

/-- The score of an element: its magnitude, and a NaN above every number. -/
def thinScore (v : SV) : Nat := if v.isNan then 2 ^ 32 else v.w.toNat % 2 ^ 31

/-- The k blocks of highest score; of equal scores the lower index goes first. -/
def topBlocks (scores : List Nat) (k : Nat) : List Nat :=
  let n := scores.length
  let before (a b : Nat) : Bool :=
    decide (scores.getD b 0 < scores.getD a 0) || (decide (scores.getD a 0 = scores.getD b 0) && decide (a < b))
  (List.range n).filter (fun b => decide (((List.range n).filter (fun a => before a b)).length < k))

/-- n FP32 values at a virtual address. -/
def rdF32 (w : Who) (va n : Nat) : Act (List SV) := do
  let bs ← rdVa w va (4 * n)
  pure ((List.range n).map (fun i => SV.of (BitVec.ofNat 32 (elemBits bs 32 i))))

def svBytes (vs : List SV) : List Byte := (vs.map (fun v => leBytes 4 v.w.toNat)).flatten
def svFlags (vs : List SV) : NumFlags := vs.foldl (fun f v => f ||| v.flags) 0

/-- Segment sg is thinned (R314). -/
def Thin.leaf (t : Thin) (w : Who) (sg : Nat) : Act NumFlags := do
  let base := sg * t.blocks * 256
  let xs ← (List.range t.blocks).mapM (fun b => do
    let a ← rdF32 w (t.acc + base + b * 256) 64
    let r ← rdF32 w (t.rin + base + b * 256) 64
    pure (List.zipWith svAdd a r))
  let sel := topBlocks (xs.map (fun x => (x.map thinScore).foldl max 0)) t.k
  (List.range sel.length).forM (fun i =>
    wrVa w (t.send + sg * t.k * 256 + i * 256) (svBytes (xs.getD (sel.getD i 0) [])))
  wrVa w (t.smap + sg * (t.blocks / 8)) (packBytes 1 (t.blocks / 8) ((List.range t.blocks).map (fun b => b2n (sel.contains b))))
  (List.range t.blocks).forM (fun b =>
    wrVa w (t.rout + base + b * 256) (svBytes (if sel.contains b then List.replicate 64 svZero else xs.getD b [])))
  pure ((xs.map svFlags).foldl (fun f x => f ||| x) 0)

/-- RESULT of THIN (R315). -/
def Job.thinResult (j : Job) : DWord :=
  at_ (j.total % 2 ^ 24) 0 ||| at_ (min j.dups 65535) 24 ||| at_ (min j.joined.length 255) 40 ||| nfResult j.flags

/-! ### ATTN_MERGE -/

structure Merge where
  oa : Nat
  sa : Nat
  ob : Nat
  sb : Nat
  oo : Nat
  so : Nat
  nq : Nat
  heads : Nat
  fmt : Nat
  dsel : Nat
  ld : Nat
  deriving DecidableEq, Repr

def Desc.merge (d : Desc) : Merge :=
  let w7 := d.word 7
  ⟨(d.word 1).toNat, (d.word 2).toNat, (d.word 3).toNat, (d.word 4).toNat, (d.word 5).toNat, (d.word 6).toNat,
    fld w7 0 24, fld w7 24 8 + 1, fld w7 32 4, fld w7 36 2, fld (d.word 8) 0 32⟩

def Merge.d (m : Merge) : Nat := 64 * 2 ^ m.dsel

/-- Bytes that an output and a statistics area span. -/
def Merge.oBytes (m : Merge) : Nat := if m.nq = 0 then 0 else (m.nq - 1) * m.ld + m.heads * m.d * codeBytes m.fmt 1
def Merge.sBytes (m : Merge) : Nat := 16 * m.heads * m.nq

/-- Check 9 (R336), in order, then the reserved fields; of an output and an input that overlap the input's word is reported, the lower (R487). -/
def Merge.checks (m : Merge) (x : Ctx) (d : Desc) : List (Bool × Stop) :=
  let al (v w : Nat) : Bool × Stop := (decide (v % 64 ≠ 0), badDesc w 0 9)
  let ins : List (Nat × Nat × Nat) := [(m.oa, m.oBytes, 1), (m.sa, m.sBytes, 2), (m.ob, m.oBytes, 3), (m.sb, m.sBytes, 4)]
  let meets (va n : Nat) : List (Bool × Stop) := ins.map (fun p => (overlap va n p.1 p.2.1, badDesc p.2.2 0 9))
  [ al m.oa 1, al m.sa 2, al m.ob 3, al m.sb 4, al m.oo 5, al m.so 6,
    (decide (2 < m.fmt), badDesc 7 32 9), (decide (m.dsel = 3), badDesc 7 36 9), (decide (m.ld % 64 ≠ 0), badDesc 8 0 9) ]
  ++ meets m.oo m.oBytes ++ meets m.so m.sBytes ++ jobChecks x d 9 ++ [rsv d 7 38 26, rsv d 8 32 32, rsv d 9 30 34] ++ rsvWords d [10, 11, 12, 13, 14]

/-- Work tiles: 128-row blocks of one head, as R170 hands them out for DIR 0. -/
def Merge.total (m : Merge) : Nat := cdiv m.nq 128 * m.heads

def unitAttnMerge (c : Nat) (d : Desc) : Act (Option Stop) := do
  match d.prog with
  | .job j => startJob c d j (sectionBits j.total)
  | _ => do
    let s ← get
    let x := s.ctx c
    checks (d.merge.checks x d)
    checks [phaseCheck x d.opcode, (s.jobBusy c d, badState x 0x0303)]
    holdCounters c d
    if d.merge.nq = 0 then noopResult 0
    else startJob c d { started := false, waits := [], dims := [d.merge.nq], latch := [], total := d.merge.total, section_ := 0, bits := [],
                             joined := [], left := [], run := 0, dups := 0, flags := 0, sums := [], chunks := [] } (sectionBits d.merge.total)

def execAttnMerge (d : DescRef) (s : State) : Host.Outcome State Fault Refusal :=
  .next (issue 0x722 d (unitAttnMerge d.ctx) s)

/-- One row: statistics m, l and output of two results merged (R336). -/
def mergeRow (ma la mb lb : SV) (oa ob : List SV) : SV × SV × List SV :=
  let m := svMax ma mb
  let w (x : SV) : SV := if x.isInf && x.isNeg then svZero else svExp2 (svSub x m)
  let a := svMul la (w ma)
  let b := svMul lb (w mb)
  let l := svAdd a b
  let r := svRcp l
  let o := List.zipWith (fun x y => if l.isZero && !l.isNeg then svZero else svMul (svFma y b (svMul x a)) r) oa ob
  (m, l, o)

/-- Work tile n: rows of one head. ATTN_MERGE has no ROUND field: the output is rounded RNE with SAT 0 (DESIGN CHOICE, log entry 75). -/
def Merge.leaf (m : Merge) (w : Who) (n : Nat) : Act NumFlags := do
  let qb := n % cdiv m.nq 128
  let hq := n / cdiv m.nq 128
  let es := codeBytes m.fmt 1
  (List.range (min 128 (m.nq - 128 * qb))).foldlM (fun (f : NumFlags) i => do
    let t := 128 * qb + i
    let off := t * m.ld + hq * m.d * es
    let st := 16 * (hq * m.nq + t)
    let sa ← rdF32 w (m.sa + st) 2
    let sb ← rdF32 w (m.sb + st) 2
    let row (base : Nat) : Act (List SV) := do
      let bs ← rdVa w (base + off) (m.d * es)
      pure ((List.range m.d).map (fun e => SV.of (elemF32 m.fmt (elemBits bs (codeBits m.fmt) e))))
    let oa ← row m.oa
    let ob ← row m.ob
    let (mm, l, o) := mergeRow (sa.getD 0 svZero) (sa.getD 1 svZero) (sb.getD 0 svZero) (sb.getD 1 svZero) oa ob
    let fl ← writeRowAs w (m.oo + off) m.fmt false o
    wrVa w (m.so + st) (svBytes [mm, l, svZero, svZero])
    pure (f ||| fl ||| mm.flags ||| l.flags)) 0

/-- RESULT of ATTN_MERGE. -/
def Job.mergeResult (j : Job) (m : Merge) : DWord := at_ (m.nq * m.heads % 2 ^ 48) 0 ||| nfResult j.flags

end Sys2Proof.Machine
end

