-- ==== Sys2Proof/Machine/Vexja.lean ====
section
/-! DEFINITION. Vexja.lean: plain transfers, signals and forwarding: VX_PUT, VX_SIGNAL, VX_EXPORT, and the packets PUT, SIGNAL, COMMIT_RSP
and NACK_RSP (R296 to R303). -/
namespace Sys2Proof.Machine

/-! ### The data-commit counter (R298) -/

/-- Packets that have committed leave the front of the order: the counter takes their DSEQ, and those that ask for it have their COMMIT_RSP. -/
def State.commitReady (s : State) (port : Nat) : State :=
  let k := s.port port
  let done := k.uncommitted.takeWhile (·.ready)
  let s1 := s.modPort port (fun k => { k with
    uncommitted := k.uncommitted.drop done.length, counter := done.foldl (fun c u => if u.old then c else u.dseq) k.counter })
  done.foldl (fun s u =>
    match u.rsp with
    | some (epid, txid) => s.respond 2 epid txid 0
    | none => s) s1

/-- A VC1 packet takes its place in the order of commits. -/
def State.addCommit (s : State) (port : Nat) (u : Uncommitted) : State :=
  (s.modPort port (fun k => { k with uncommitted := k.uncommitted ++ [u] })).commitReady port

/-! ### PUT at its destination (R302) -/

/-- The export window that a PUT names. -/
def Pkt.window (p : Pkt) : Nat × Nat := (fld (p.w 2) 4 10, fld (p.w 2) 0 4)
def Pkt.bytes (p : Pkt) : Nat := 8 * (p.data.map List.length).sum
def Ctx.exportWin (x : Ctx) (w : Nat) : ExportWin := tget ExportWin.reset x.exports w

/-- Checks 1 to 3: status and reason. -/
def Ctx.putRefused (x : Ctx) (p : Pkt) : Option (Nat × Nat) :=
  let w := x.exportWin p.window.2
  if x.st ≠ .run ∧ x.st ≠ .paused then some (0x12, 0x0701)
  else if x.frozen then some (0x12, 0x0702)
  else if w.bytes = 0 ∨ w.key.toNat ≠ fld (p.w 2) 32 32 ∨ w.write = false ∨ w.bytes < p.arg.toNat + p.bytes then some (0x21, 0)
  else none

/-- A PUT meets a line that cannot be read, in whatever memory (R302, check 6). -/
def failPut (w : Who) (l : Nat) : Act Unit := do
  let s ← get
  if s.backing (l * 64) = .pmt then frostCheck w (l / 4) else failLine w l

/-- Checks 4 to 6 of one data flit, and its write: translation and permission, an owned region (R178), a guarded line (R265), an uncorrectable
line, be it that the flit covers the line whole (log entry 69). -/
def putFlit (w : Who) (va : Nat) (bs : List Byte) : Act Unit := do
  let ps ← xlRange w va bs.length true
  let s ← get
  match (s.ctx w.ctx).ownedByte va bs.length with
  | some a => faultAt w a true (.fault true 0 5)
  | none => pure ()
  require (!ps.any (fun p => s.guardedRange (s.home p.1) p.2)) ⟨0x21, 0⟩
  match ((ps.map (fun p => (linesOf p.1 p.2).map (fun l => s.home (l * 64) / 64))).flatten).find? s.lineBad with
  | some l => failPut w l
  | none => wrPieces w ps bs

def putFlits (w : Who) : Nat → List (List DWord) → Act Unit
  | _, [] => pure ()
  | va, d :: r => do
    putFlit w va (wordsBytes d)
    putFlits w (va + 8 * d.length) r

/-- The status that a NACK_RSP carries for a failure at the destination: R302's table has 0x31 for every medium (log entry 69). -/
def Stop.nackStatus (st : Stop) : Nat := if st.status = 0x32 then 0x31 else st.status.toNat

/-- A PUT is delivered: written, or answered with NACK_RSP; then it takes its place in the order of commits. -/
def State.deliverPut (s : State) (port : Nat) (r : RxPkt) : State :=
  let p := r.pkt
  let x := s.ctx p.window.1
  let refused (s : State) (st reason : Nat) : State :=
    (s.nack p.src p.txid st reason).addCommit port ⟨p.dseq, true, none, r.old⟩
  match x.putRefused p with
  | some (st, reason) => refused s st reason
  | none =>
    match putFlits (agentWho p.window.1) ((x.exportWin p.window.2).va + p.arg.toNat) p.data s with
    | .ok _ s1 => s1.addCommit port ⟨p.dseq, false, if p.ackreq then some (p.src, p.txid) else none, r.old⟩
    | .error st s1 => refused s1 st.nackStatus 0

def State.rxFirst (s : State) (port vc : Nat) : Option RxPkt := (tget [] (s.port port).rxQ vc).head?

/-- The oldest VC1 packet of a port is for this module. -/
def execPut (port : Nat) (s : State) : Host.Outcome State Fault Refusal :=
  .next (match s.rxFirst port 1 with
    | some r => if s.route r.pkt.dst = .local_ then (s.takeRx port 1).deliverPut port r else s
    | none => s)

/-- The writes of the oldest delivered packet become visible: it commits, and what waited only for it. -/
def execPutCommit (port : Nat) (s : State) : Host.Outcome State Fault Refusal :=
  .next (match (s.port port).uncommitted with
    | u :: r => (s.modPort port (fun k => { k with uncommitted := { u with ready := true } :: r })).commitReady port
    | [] => s)

/-! ### Forwarding (R296) -/

/-- A packet is dropped; PUT and SIGNAL are answered with 0x60. -/
def State.dropPacket (s : State) (port : Nat) (p : Pkt) (code : Nat) : State :=
  let s1 := if code = 0 then s else s.violation port code p.vc 0 p.src
  if p.type ≤ 1 then s1.nack p.src p.txid 0x60 0 else s1

/-- A packet for another module enters its egress queue with one hop fewer, or is dropped. -/
def State.forward (s : State) (port : Nat) (p : Pkt) : State :=
  match s.route p.dst with
  | .local_ => s
  | .noEntry => s.dropPacket port p 0x07
  | .noPort => s.dropPacket port p 0
  | .port e => if p.hops = 0 then s.dropPacket port p 0x08 else s.enqueue e (p.setHdr 0 12 4 (p.hops - 1)) none

/-- The oldest packet of VC1, VC2 or VC3 is for another module; a PUT has committed once it has entered its queue, or its NACK_RSP is sent. -/
def execPacketForward (port vc : Nat) (s : State) : Host.Outcome State Fault Refusal :=
  .next (match s.rxFirst port vc with
    | some r =>
      if s.route r.pkt.dst = .local_ ∨ vc = 0 then s
      else
        let s1 := (s.takeRx port vc).forward port r.pkt
        if vc = 1 then s1.addCommit port ⟨r.pkt.dseq, true, none, r.old⟩ else s1
    | none => s)

/-! ### Signals (R298, R303) -/

/-- The oldest signal of a port goes to the signal-hold stage; it stays in its buffer while it is held. -/
def execSignal (port : Nat) (s : State) : Host.Outcome State Fault Refusal :=
  .next (match tget [] (s.port port).rxQ 0 with
    | r :: rest => s.modPort port (fun k => { k with rxQ := tput k.rxQ 0 rest, heldSig := k.heldSig ++ [r] })
    | [] => s)

/-- The data that a signal covers has committed. -/
def Port.covered (k : Port) (p : Pkt) : Bool := decide ((k.counter + 2 ^ 24 - p.dseq) % 2 ^ 24 < 2 ^ 23)

/-- The oldest held signal is released: to the front unit, or to its next egress, which gives it a new COVER. -/
def execSignalRelease (port : Nat) (s : State) : Host.Outcome State Fault Refusal :=
  .next (match (s.port port).heldSig with
    | r :: rest =>
      if (s.port port).covered r.pkt then
        let s1 := s.modPort port (fun k =>
          let k1 := { k with heldSig := rest }
          if port = localPort then k1 else k1.freeRx r 0)
        if s.route r.pkt.dst = .local_ then
          s1.frontSignal r.pkt.src (BitVec.ofNat 32 (fld r.pkt.arg 0 32)) (BitVec.ofNat 32 (fld r.pkt.arg 32 32))
        else s1.forward port r.pkt
      else s
    | [] => s)

/-! ### Responses (R301 to R303) -/

/-- The transfer that a TXID names: context, descriptor, egress port, destination, bytes. -/
def State.transfer (s : State) (txid : Nat) : Option (Nat × Desc × Nat × Nat × Nat) :=
  (s.ctxs.map (fun e => e.2.descs.filterMap (fun d =>
    match d.prog with
    | .vxPut t p dst n => if t = txid ∧ d.st = .executing then some (e.1, d, p, dst, n) else none
    | _ => none))).flatten.head?

def execCommitRsp (port : Nat) (s : State) : Host.Outcome State Fault Refusal :=
  .next (match s.rxHead port 2 with
    | some p =>
      if p.type = 2 ∧ s.route p.dst = .local_ then
        let s1 := s.takeRx port 2
        match s1.transfer p.txid with
        | some (c, d, _, _, n) => s1.finish c d.ring d.index ⟨0, at_ (n % 2 ^ 40) 0⟩
        | none => s1
      else s
    | none => s)

/-- RESULT of a transfer that a NACK_RSP ends (R58, R301, R302; log entry 13). -/
def State.nackStop (s : State) (c egress dst status reason : Nat) : Stop :=
  if status = 0x60 then ⟨0x60, linkDown egress dst 4⟩
  else if status = 0x12 then badState (s.ctx c) reason
  else ⟨BitVec.ofNat 8 status, Config.nackResult s.free status⟩

def execNackRsp (port : Nat) (s : State) : Host.Outcome State Fault Refusal :=
  .next (match s.rxHead port 2 with
    | some p =>
      if p.type = 3 ∧ s.route p.dst = .local_ then
        let s1 := s.takeRx port 2
        let status := fld p.arg 0 8
        match s1.transfer p.txid with
        | some (c, d, e, dst, _) => s1.tick.finish c d.ring d.index (s1.nackStop c e dst status (fld p.arg 8 16))
        | none =>
          if s1.lnk.sigs.contains p.txid then
            (s1.modLnk (fun l => { l with sigs := l.sigs.filter (· != p.txid) })).portLog port 0x21 2 0 p.src status
          else s1
      else s
    | none => s)

/-! ### VX_PUT (R299, R301) -/

def Desc.putSrc (d : Desc) : SpOpnd := ⟨fld (d.word 3) 28 2, (d.word 1).toNat, 3, 28, 1⟩

def putChecks (x : Ctx) (d : Desc) : List (Bool × Stop) :=
  let o := d.putSrc
  [ (decide ((d.word 2).toNat % 64 ≠ 0), badDesc 2 0 9), (decide (fld (d.word 4) 0 6 ≠ 0), badDesc 4 0 9), o.reserved, o.bits,
    o.excess x (fld (d.word 4) 0 40), rsv d 3 30 2, rsv d 4 40 24 ] ++ rsvWords d [5, 6, 7]

/-- The packets of a transfer, from a byte on: each is read and queued before the next. -/
def putPackets (w : Who) (d : Desc) (txid n : Nat) : List Nat → Act Unit
  | [] => pure ()
  | off :: r => do
    let len := min 4096 (n - off)
    let bs ← rdSp w (fld (d.word 3) 28 2) ((d.word 1).toNat + off) len
    let s ← get
    let data := (List.range (cdiv len 256)).map (fun i => bytesWords (min 32 ((len - 256 * i) / 8)) (bs.drop (256 * i)))
    let hdr := s.header 0 (decide (off + len = n)) (fld (d.word 3) 0 14) data.length (at_ txid 24)
      (at_ (fld (d.word 3) 14 14) 0 ||| at_ (fld (d.word 3) 32 32) 32) (BitVec.ofNat 64 ((d.word 2).toNat + off))
    match s.send ⟨hdr, data⟩ (some (w.ctx, w.ring, w.index)) with
    | some s1 => set s1
    | none => throw ⟨0x60, linkDown 0xF (fld (d.word 3) 0 14) 2⟩
    putPackets w d txid n r

/-- The port that a transfer to an endpoint leaves by: 0xF for this module itself; none without an active route. -/
def State.egressOf (s : State) (dst : Nat) : Option Nat :=
  match s.route dst with
  | .local_ => some localPort
  | .port e => some e
  | _ => none

def unitVxPut (c : Nat) (d : Desc) : Act (Option Stop) := do
  let n := fld (d.word 4) 0 40
  let dst := fld (d.word 3) 0 14
  let x ← getCtx c
  checks (putChecks x d)
  if n = 0 then noopResult 0
  else do
    let s ← get
    match s.egressOf dst with
    | none => throw ⟨0x60, linkDown 0xF dst 1⟩
    | some e => do
      let txid := s.lnk.txid
      set ((s.takeTx false).setProg c d.ring d.index (.vxPut txid e dst n))
      putPackets (d.who c) d txid n ((List.range (cdiv n 4096)).map (4096 * ·))
      pure none

def execVxPut (d : DescRef) (s : State) : Host.Outcome State Fault Refusal := .next (issue 0x700 d (unitVxPut d.ctx) s)

/-- No response came in 2^26 CLK_FAB cycles. -/
def execVxPutTimeout (ref : DescRef) (s : State) : Host.Outcome State Fault Refusal :=
  .next (match s.desc ref with
    | some d =>
      match d.prog with
      | .vxPut _ e dst _ => if d.st = .executing then s.finish ref.ctx ref.ring ref.index ⟨0x60, linkDown e dst 3⟩ else s
      | _ => s
    | none => s)

/-! ### VX_SIGNAL (R303) -/

/-- Every packet of an earlier VX_PUT has been queued at its issue, so AFTER asks for nothing more. -/
def unitVxSignal (c : Nat) (d : Desc) : Act (Option Stop) := do
  let dst := fld (d.word 1) 0 14
  checks ([rsv d 1 15 49] ++ rsvWords d [3, 4, 5, 6, 7])
  let s ← get
  match s.egressOf dst,
      s.sendSignal dst (BitVec.ofNat 32 (fld (d.word 2) 0 32)) (BitVec.ofNat 32 (fld (d.word 2) 32 32)) (some (c, d.ring, d.index)) with
  | some e, some s1 => do
    set (s1.setProg c d.ring d.index (.vxSignal e dst))
    if e = localPort then okResult 0 else pure none
  | _, _ => throw ⟨0x60, linkDown 0xF dst 1⟩

def execVxSignal (d : DescRef) (s : State) : Host.Outcome State Fault Refusal := .next (issue 0x701 d (unitVxSignal d.ctx) s)

/-! ### VX_EXPORT (R300) -/

def unitVxExport (c : Nat) (d : Desc) : Act (Option Stop) := do
  let w3 := d.word 3
  let va := (d.word 1).toNat
  let n := (d.word 2).toNat
  checks ([ (decide (va % kib64 ≠ 0), badDesc 1 0 9), (decide (n % kib64 ≠ 0), badDesc 2 0 9), rsv d 3 5 27 ] ++ rsvWords d [4, 5, 6, 7])
  let win : ExportWin := ⟨va, n, bit w3 4, BitVec.ofNat 32 (fld w3 32 32)⟩
  modCtxA c (fun x => { x with exports := if n = 0 then tdel x.exports (fld w3 0 4) else tput x.exports (fld w3 0 4) win })
  okResult 0

def execVxExport (d : DescRef) (s : State) : Host.Outcome State Fault Refusal := .next (issue 0x702 d (unitVxExport d.ctx) s)

end Sys2Proof.Machine
end

