-- ==== Sys2Proof/Machine/Work.lean ====
section
/-! DEFINITION. Work.lean: the work of counter-driven descriptors: a fetch on a work counter, the marking of a completion-bitmap
node, the start of a section (R149, R156, R158, R160 to R165, R170, R315). -/
namespace Sys2Proof.Machine

/-- The job of an executing counter-driven descriptor. -/
def Desc.running (d : Desc) : Option Job :=
  match d.prog with
  | .job j => if d.st = .executing ∧ j.started = true then some j else none
  | _ => none

/-- The context's cores run: it is placed and neither saved nor restored. -/
def Ctx.coresRun (x : Ctx) : Bool :=
  (decide (x.st = .run) || decide (x.st = .drain)) && x.sched.placed && !x.sched.saving && !x.sched.restoring

/-- A MATMUL of the seat runs on its array (R203). -/
def Ctx.arrayBusy (x : Ctx) (t q : Nat) : Bool :=
  x.descs.any (fun d => decide (d.st = .executing) && match d.prog with
    | .matmul t' q' _ _ _ _ _ => decide (t' = t) && decide (q' = q)
    | _ => false)

/-- Seats of a tile that have joined. -/
def Job.joinedOn (j : Job) (t : Nat) : Nat := (j.joined.filter (fun p => p.1 == t)).length

/-- The core of a seat may ask for a work tile of the descriptor: it is free, its tile is named, the counter has not answered
EXHAUSTED to it, its tile has not reached CORES (R154, R156, R203), and no recompute work tile comes first (R194). -/
def State.mayFetch (s : State) (c : Nat) (d : Desc) (j : Job) (t q : Nat) : Bool :=
  let x := s.ctx c
  let k := x.seat t q
  d.jobMask.testBit t && x.coresRun && !x.recomputes t && (x.coreOf t q).isSome && k.work.isNone && k.held.isNone && !x.arrayBusy t q
    && !j.left.contains (t, q) && (j.joined.contains (t, q) || decide (j.joinedOn t < d.jobCores))

/-- The bitmap node that the core marks first for work tile n: its leaf (R160, R161). -/
def Desc.leafNode (d : Desc) (j : Job) (n : Nat) : Nat :=
  if d.opcode = 0x303 then
    let p := d.tiled.splitOf (j.dims.getD 2 0)
    p.pad + n % p.s
  else 1

/-- A job changes. -/
def State.setJob (s : State) (c : Nat) (d : Desc) (j : Job) : State := s.setProg c d.ring d.index (.job j)

/-- A core fetches on the descriptor's counter: a redo entry, the next number, or EXHAUSTED (R149, R156). From then on its work area is
unspecified, however the work tile ends (R203). -/
def State.fetchWork (s : State) (c : Nat) (d : Desc) (j : Job) (t q : Nat) : State :=
  let tc := if d.jobShared then d.jobHome else t
  let k := (s.ctx c).wcAt tc d.jobWc
  let (got, w) := ((s.tile tc).counter k).fetch
  let s1 := s.modTile tc (fun e => e.modCounter k (fun _ => w))
  match got with
  | none => s1.setJob c d { j with left := j.left ++ [(t, q)] }
  | some n =>
    (s1.tick.modSeat c t q (fun e => { e with
      work := some (d.ring, d.index, n, d.leafNode j n), attn := none, workStamp := s1.tick.free })).setJob c d
      { j with joined := if j.joined.contains (t, q) then j.joined else j.joined ++ [(t, q)] }

def execWorkCounterFetch (ref : DescRef) (t q : Nat) (s : State) : Host.Outcome State Fault Refusal :=
  .next (match s.desc ref with
    | none => s
    | some d =>
      match d.running with
      | some j => if s.mayFetch ref.ctx d j t q then s.fetchWork ref.ctx d j t q else s
      | none => s)

/-! ### Marking (R161) -/

/-- The bit of a node: of an output tile in a TILED_GEMM, of a work tile of the section otherwise. -/
def Desc.bitOf (d : Desc) (j : Job) (n node : Nat) : Nat :=
  if d.opcode = 0x303 then
    let p := d.tiled.splitOf (j.dims.getD 2 0)
    n / p.s * (2 * p.pad - 1) + node - 1
  else n - j.section_

/-- A work tile's own computation: the job after it, or none when an ATTN still waits for pages (R158, R171, R191, R314, R336). -/
def runLeaf (w : Who) (d : Desc) (j : Job) (n : Nat) : Act (Option Job) := do
  match d.opcode with
  | 0x303 => do
    let f ← d.tiled.leaf w j.dims n
    pure (some { j with run := j.run + 1, flags := j.flags ||| f })
  | 0x407 => do
    let s ← get
    let (t, q) := w.seatOf
    let (got, j1) ← attnLeaf w d j n ((s.ctx w.ctx).seat t q).attn
    match got with
    | .inl (steps, low, f) =>
      pure (some { j1 with run := j.run + 1, flags := j.flags ||| f,
                           sums := [j1.sums.getD 0 0 + steps, j1.sums.getD 1 0 + low, j1.sums.getD 2 0] })
    | .inr run => do
      modify (fun s => (s.modSeat w.ctx t q (fun e => { e with attn := some run })).setJob w.ctx d j1)
      pure none
  | 0x710 => do
    let f ← d.thin.leaf w n
    pure (some { j with run := j.run + 1, flags := j.flags ||| f })
  | _ => do
    let f ← d.merge.leaf w n
    pure (some { j with run := j.run + 1, flags := j.flags ||| f })

/-- Work tiles of the section in progress. -/
def Job.sectionTiles (j : Job) : Nat := min sectionSize (j.total - j.section_)

/-- Every root (or every work tile) is marked. -/
def Desc.allMarked (d : Desc) (j : Job) : Bool :=
  if d.opcode = 0x303 then
    let p := d.tiled.splitOf (j.dims.getD 2 0)
    (List.range (j.total / p.s)).all (fun o => j.bits.contains (o * (2 * p.pad - 1)))
  else decide (j.sectionTiles ≤ j.bits.length) && decide (j.total ≤ j.section_ + j.sectionTiles)

/-- RESULT of a counter-driven descriptor. -/
def Desc.jobResult (d : Desc) (j : Job) : DWord :=
  match d.opcode with
  | 0x303 => j.tiledResult
  | 0x407 => j.attnResult
  | 0x710 => j.thinResult
  | _ => j.mergeResult d.merge

/-- The seat has nothing more of its work tile; the accumulator sets are clear (R90). -/
def endWork (c t q : Nat) : Act Unit :=
  modify (fun s => s.modSeat c t q (fun e => { e with work := none, pes := e.pes.map (fun p => (p.1, { Pe.reset with shadow := p.2.shadow })) }))

/-- The job stands as given; it ends once everything is marked. -/
def markEnd (c : Nat) (d : Desc) (j : Job) : Act (Option Stop) := do
  modify (fun s => s.setJob c d j)
  if d.allMarked j then okResult (d.jobResult j) else pure none

/-- The core test-and-sets a node: a set bit discards its work as a duplicate; a new bit with its sibling set makes it form the
parent, which it marks next (R161). -/
def markNode (w : Who) (d : Desc) (j : Job) (t q n node : Nat) : Act (Option Stop) := do
  let c := w.ctx
  let b := d.bitOf j n node
  if j.bits.contains b then do
    modify (fun s => s.modTile d.jobHome (fun e => { e with dupCnt := satInc e.dupCnt }))
    endWork c t q
    markEnd c d { j with dups := j.dups + 1 }
  else do
    let j1 := { j with bits := j.bits ++ [b] }
    if node = 1 then do
      endWork c t q
      markEnd c d j1
    else if j1.bits.contains (d.bitOf j n (if node % 2 = 0 then node + 1 else node - 1)) then do
      let p := d.tiled.splitOf (j.dims.getD 2 0)
      let f ← d.tiled.combine w j.dims (n / p.s) (node / 2)
      modify (fun s => s.modSeat c t q (fun e => { e with work := some (d.ring, d.index, n, node / 2) }))
      markEnd c d { j1 with flags := j1.flags ||| f }
    else do
      endWork c t q
      markEnd c d j1

/-- The core of a seat goes on with its work tile: it computes it, if it has not, and marks its next node. Whether it ends here, waits or
stops, its work area is unspecified (R203). -/
def unitNodeMark (c t q n node : Nat) (d : Desc) : Act (Option Stop) := do
  let w := d.whoAt c t q
  match d.running with
  | none => pure none
  | some j =>
    if node = d.leafNode j n then do
      modify (fun s => s.modSeat c t q (fun e => { e with workStamp := s.free }))
      match ← runLeaf w d j n with
      | none => pure none
      | some j1 => do
        modify (fun s => s.modSeat c t q (fun e => { e with workStamp := s.free }))
        markNode w d j1 t q n node
    else markNode w d j t q n node

def execNodeMark (ref : DescRef) (t q : Nat) (s : State) : Host.Outcome State Fault Refusal :=
  .next (match ((s.ctx ref.ctx).seat t q).work, s.desc ref with
    | some (r, i, n, node), some d =>
      if r = ref.ring ∧ i = ref.index ∧ d.running.isSome = true ∧ (s.ctx ref.ctx).coresRun = true
          ∧ ((s.ctx ref.ctx).coreOf t q).isSome = true then
        State.settle ref.ctx ref.ring ref.index (unitNodeMark ref.ctx t q n node d s.tick)
      else s
    | _, _ => s)

/-! ### The array at a checkpoint (R114) -/

/-- The accumulator sets of an ATTN work tile as they stand: which product its array is in, and how far, the event does not say (log entry
71). -/
def Seat.standFree (k : Seat) (stamp : Nat) : Seat :=
  let set_ (i : Nat) : AccSet := ⟨(List.range 17).map (Config.attnStack stamp i), Config.attnLeaves stamp i⟩
  { k with pes := (List.range 16384).map (fun i => (i, { (k.pe i) with set0 := set_ (2 * i), set1 := set_ (2 * i + 1) })) }

/-- The array of a seat stands at a checkpoint, a multiple of 128 feed lines, or at the end of the feed of a pass, with what the pass has
pushed in its accumulator sets; `before` passes before it are still to be released. -/
def Seat.standIn (e : Seat) (shape aFmt bFmt checkpoint before : Nat) (p : Pass) : Seat :=
  let total := ((p.acc.map (fun e => e.2.2.length)).headD 0)
  { e.standAt p (pushedAt shape aFmt bFmt p.steps total checkpoint) with
    held := some (min (128 * checkpoint) (feedLines shape p.steps), before) }

/-- The work tile that the array of a seat takes at the moment. -/
def Ctx.workTile (x : Ctx) (t q : Nat) : Option (Desc × Job × Nat) :=
  match (x.seat t q).work with
  | some (r, i, n, node) =>
    match x.findDesc r i with
    | some d => d.running.bind (fun j => if node = d.leafNode j n then some (d, j, n) else none)
    | none => none
  | none => none

/-- The array of a seat that is being pre-empted stands, with its accumulator sets in the save image (R114). Which of several outstanding passes
it is in is a free value (log entry 71). -/
def execArrayCheckpointReached (c t q checkpoint : Nat) (s : State) : Host.Outcome State Fault Refusal :=
  let x := s.ctx c
  let at_ := Config.standingPass s.free
  .next (if x.sched.saving ∧ s.arrayRuns c t q = true ∧ (x.seat t q).held.isNone then
      let ps := x.arrayQueue t q
      match ps[at_ % ps.length]? with
      | some (d, p) =>
        s.tick.modSeat c t q (fun e => e.standIn d.matmul.shape d.matmul.aFmt d.matmul.bFmt checkpoint (at_ % ps.length) p)
      | none =>
        let plain := s.tick.modSeat c t q (fun k => { k with held := some (128 * checkpoint, 0) })
        match x.workTile t q with
        | some (d, j, n) =>
          if d.opcode = 0x407 then plain.modSeat c t q (fun k => k.standFree s.free)
          else
            match d.tiled.passes (d.whoAt c t q) j.dims n (s.narrowedSeat c t q) s with
            | .ok ws _ =>
              match ws[at_ % ws.length]? with
              | some p => s.tick.modSeat c t q (fun e => e.standIn d.tiled.tshape d.tiled.aFmt d.tiled.bFmt checkpoint 0 p)
              | none => plain
            | .error _ _ => plain
        | none => plain
    else s)

/-! ### Sections (R164) -/

/-- Every work tile of the section is marked and more remain: the bits clear and the counters serve the next section, once its bits have
their units, those of the section before among them (R160, R164). -/
def State.startSection (s : State) (c : Nat) (d : Desc) (j : Job) : State :=
  let next := j.section_ + sectionSize
  let hi := min j.total (next + sectionSize)
  if s.unitsLack c d (hi - next) then
    (s.countWaits d ([0].filter (fun n => !j.waits.contains n))).setJob c d { j with waits := j.waits ++ [0] }
  else
    ((s.tick.modCtx c (fun x => x.dropWork d s.tick.free)).setCounters c d next hi).setJob c d { j with section_ := next, bits := [], left := [] }

def execSectionStart (ref : DescRef) (s : State) : Host.Outcome State Fault Refusal :=
  .next (match s.desc ref with
    | none => s
    | some d =>
      match d.running with
      | some j =>
        if j.sectionTiles ≤ j.bits.length ∧ j.section_ + j.sectionTiles < j.total ∧ d.opcode ≠ 0x303 then
          s.startSection ref.ctx d j
        else s
      | none => s)

end Sys2Proof.Machine
end

