-- ==== Sys2Proof/Machine/Dispatch.lean ====
section
/-! DEFINITION. Dispatch.lean: one arm per command. -/
namespace Sys2Proof.Machine

def exec (i : Instr) (s : State) : Host.Outcome State Fault Refusal :=
  match i with
  | .sqTailWrite c k t => Sys2Proof.Machine.execSqTailWrite c k t s
  | .cqHeadWrite c k h => Sys2Proof.Machine.execCqHeadWrite c k h s
  | .irqArm c k => Sys2Proof.Machine.execIrqArm c k s
  | .doorbellStrayWrite c off => Sys2Proof.Machine.execDoorbellStrayWrite c off s
  | .registerWrite target v => Sys2Proof.Machine.execRegisterWrite target v s
  | .fetchRequest c k n => Sys2Proof.Machine.execFetchRequest c k n s
  | .descriptorAdmit c k ws => Sys2Proof.Machine.execDescriptorAdmit c k ws s
  | .fetchErr c k => Sys2Proof.Machine.execFetchErr c k s
  | .descriptorComplete ref => Sys2Proof.Machine.execDescriptorComplete ref s
  | .writeErr c k j => Sys2Proof.Machine.execWriteErr c k j s
  | .ringReset c k v => Sys2Proof.Machine.execRingReset c k v s
  | .ringEnable c k v => Sys2Proof.Machine.execRingEnable c k v s
  | .ringDisable c k v => Sys2Proof.Machine.execRingDisable c k v s
  | .ringBaseWrite c k cq v => Sys2Proof.Machine.execRingBaseWrite c k cq v s
  | .ctxCfgWrite c v => Sys2Proof.Machine.execCtxCfgWrite c v s
  | .start c => Sys2Proof.Machine.execStart c s
  | .suspend c => Sys2Proof.Machine.execSuspend c s
  | .resume c => Sys2Proof.Machine.execResume c s
  | .close c => Sys2Proof.Machine.execClose c s
  | .kill c => Sys2Proof.Machine.execKill c s
  | .teardownStopped c => Sys2Proof.Machine.execTeardownStopped c s
  | .nop d => Sys2Proof.Machine.execNop d s
  | .fence d => Sys2Proof.Machine.execFence d s
  | .freeze d => Sys2Proof.Machine.execFreeze d s
  | .thaw d => Sys2Proof.Machine.execThaw d s
  | .matmul d => Sys2Proof.Machine.execMatmul d s
  | .passClean d => Sys2Proof.Machine.execPassClean d s
  | .arrayFault d t q kind row col => Sys2Proof.Machine.execArrayFault d t q kind row col s
  | .arrayCheckpointReached c t q checkpoint => Sys2Proof.Machine.execArrayCheckpointReached c t q checkpoint s
  | .cskyArm d => Sys2Proof.Machine.execCskyArm d s
  | .cskySnapshot d => Sys2Proof.Machine.execCskySnapshot d s
  | .vstream d => Sys2Proof.Machine.execVstream d s
  | .chainLoad d => Sys2Proof.Machine.execChainLoad d s
  | .chainCacheFill c t q slot => Sys2Proof.Machine.execChainCacheFill c t q slot s
  | .planLoad d => Sys2Proof.Machine.execPlanLoad d s
  | .boundSet d => Sys2Proof.Machine.execBoundSet d s
  | .wcSet d => Sys2Proof.Machine.execWcSet d s
  | .tiledGemm d => Sys2Proof.Machine.execTiledGemm d s
  | .workCounterFetch ref t q => Sys2Proof.Machine.execWorkCounterFetch ref t q s
  | .nodeMark ref t q => Sys2Proof.Machine.execNodeMark ref t q s
  | .sectionStart ref => Sys2Proof.Machine.execSectionStart ref s
  | .kvSpaceSet d => Sys2Proof.Machine.execKvSpaceSet d s
  | .kvSeqSet d => Sys2Proof.Machine.execKvSeqSet d s
  | .kvAppend d => Sys2Proof.Machine.execKvAppend d s
  | .kvScatter d => Sys2Proof.Machine.execKvScatter d s
  | .kvFork d => Sys2Proof.Machine.execKvFork d s
  | .kvFree d => Sys2Proof.Machine.execKvFree d s
  | .kvPrefetch d => Sys2Proof.Machine.execKvPrefetch d s
  | .attn d => Sys2Proof.Machine.execAttn d s
  | .pageMoveComplete c k page => Sys2Proof.Machine.execPageMoveComplete c k page s
  | .pageRecomputeComplete c k page => Sys2Proof.Machine.execPageRecomputeComplete c k page s
  | .xlateInval d => Sys2Proof.Machine.execXlateInval d s
  | .ptRootWrite c v => Sys2Proof.Machine.execPtRootWrite c v s
  | .pageWalkComplete ref va write => Sys2Proof.Machine.execPageWalkComplete ref va write s
  | .dmaCopy d => Sys2Proof.Machine.execDmaCopy d s
  | .actPoolSet d => Sys2Proof.Machine.execActPoolSet d s
  | .actSave d => Sys2Proof.Machine.execActSave d s
  | .actLoad d => Sys2Proof.Machine.execActLoad d s
  | .memAdd d => Sys2Proof.Machine.execMemAdd d s
  | .memAddLine ref k => Sys2Proof.Machine.execMemAddLine ref k s
  | .paramPrefetch d => Sys2Proof.Machine.execParamPrefetch d s
  | .stackPatrolScrub n found => Sys2Proof.Machine.execStackPatrolScrub n found s
  | .dimmPatrolScrub ch found => Sys2Proof.Machine.execDimmPatrolScrub ch found s
  | .sramPatrolScrub t core found => Sys2Proof.Machine.execSramPatrolScrub t core found s
  | .rdd n ack tag status sense => Sys2Proof.Machine.execRdd n ack tag status sense s
  | .wra n ack tag status => Sys2Proof.Machine.execWra n ack tag status s
  | .mrd n ack reg value => Sys2Proof.Machine.execMrd n ack reg value s
  | .pmtNak n ack now => Sys2Proof.Machine.execPmtNak n ack now s
  | .evt n ack code => Sys2Proof.Machine.execEvt n ack code s
  | .pmtResendTimeout n seq now => Sys2Proof.Machine.execPmtResendTimeout n seq now s
  | .pmtResponseTimeout n write tag now => Sys2Proof.Machine.execPmtResponseTimeout n write tag now s
  | .pmtRetrainDone n => Sys2Proof.Machine.execPmtRetrainDone n s
  | .wearSwapEval n => Sys2Proof.Machine.execWearSwapEval n s
  | .wearSwapComplete n => Sys2Proof.Machine.execWearSwapComplete n s
  | .dewPassStart n => Sys2Proof.Machine.execDewPassStart n s
  | .dewLineRead n tries => Sys2Proof.Machine.execDewLineRead n tries s
  | .urgentDewEnd n => Sys2Proof.Machine.execUrgentDewEnd n s
  | .pmtCkptSet d => Sys2Proof.Machine.execPmtCkptSet d s
  | .pmtPersist d => Sys2Proof.Machine.execPmtPersist d s
  | .pmtCommit d => Sys2Proof.Machine.execPmtCommit d s
  | .hailPrepare d => Sys2Proof.Machine.execHailPrepare d s
  | .hailCommit ref adv => Sys2Proof.Machine.execHailCommit ref adv s
  | .hailAbort d => Sys2Proof.Machine.execHailAbort d s
  | .hailGroupSet d => Sys2Proof.Machine.execHailGroupSet d s
  | .hailRangeSet ref => Sys2Proof.Machine.execHailRangeSet ref s
  | .hailStatus d => Sys2Proof.Machine.execHailStatus d s
  | .frameReceive port f now => Sys2Proof.Machine.execFrameReceive port f now s
  | .train port verMin verMax epid credits resume => Sys2Proof.Machine.execTrain port verMin verMax epid credits resume s
  | .hb port => Sys2Proof.Machine.execHb port s
  | .linkErr port => Sys2Proof.Machine.execLinkErr port s
  | .hbSend port => Sys2Proof.Machine.execHbSend port s
  | .hbLoss port now => Sys2Proof.Machine.execHbLoss port now s
  | .replayTimeout port n now => Sys2Proof.Machine.execReplayTimeout port n now s
  | .nakResendTimeout port => Sys2Proof.Machine.execNakResendTimeout port s
  | .laneBerWindow port lanes now => Sys2Proof.Machine.execLaneBerWindow port lanes now s
  | .trainingPhaseDone port lanes => Sys2Proof.Machine.execTrainingPhaseDone port lanes s
  | .trainingPhaseOverrun port now => Sys2Proof.Machine.execTrainingPhaseOverrun port now s
  | .put port => Sys2Proof.Machine.execPut port s
  | .putCommit port => Sys2Proof.Machine.execPutCommit port s
  | .signal port => Sys2Proof.Machine.execSignal port s
  | .signalRelease port => Sys2Proof.Machine.execSignalRelease port s
  | .commitRsp port => Sys2Proof.Machine.execCommitRsp port s
  | .nackRsp port => Sys2Proof.Machine.execNackRsp port s
  | .packetForward port vc => Sys2Proof.Machine.execPacketForward port vc s
  | .vxPut d => Sys2Proof.Machine.execVxPut d s
  | .vxPutTimeout ref => Sys2Proof.Machine.execVxPutTimeout ref s
  | .vxSignal d => Sys2Proof.Machine.execVxSignal d s
  | .vxExport d => Sys2Proof.Machine.execVxExport d s
  | .lnkRouteDataWrite v => Sys2Proof.Machine.execLnkRouteDataWrite v s
  | .lnkCfgWrite v => Sys2Proof.Machine.execLnkCfgWrite v s
  | .lnkTxCfgWrite port v => Sys2Proof.Machine.execLnkTxCfgWrite port v s
  | .release port => Sys2Proof.Machine.execRelease port s
  | .disable port on => Sys2Proof.Machine.execDisable port on s
  | .cablePresenceChange p cable => Sys2Proof.Machine.execCablePresenceChange p cable s
  | .thin d => Sys2Proof.Machine.execThin d s
  | .redSet d => Sys2Proof.Machine.execRedSet d s
  | .redRun d => Sys2Proof.Machine.execRedRun d s
  | .reduce port => Sys2Proof.Machine.execReduce port s
  | .reductionWindowClose ref seg level idx => Sys2Proof.Machine.execReductionWindowClose ref seg level idx s
  | .foldLimitExpiry ref => Sys2Proof.Machine.execFoldLimitExpiry ref s
  | .redDoldrums ref => Sys2Proof.Machine.execRedDoldrums ref s
  | .jetRingSet d => Sys2Proof.Machine.execJetRingSet d s
  | .jetPass d => Sys2Proof.Machine.execJetPass d s
  | .jet port => Sys2Proof.Machine.execJet port s
  | .attnMerge d => Sys2Proof.Machine.execAttnMerge d s
  | .frontSet d => Sys2Proof.Machine.execFrontSet d s
  | .frontArrive d => Sys2Proof.Machine.execFrontArrive d s
  | .frontWait d => Sys2Proof.Machine.execFrontWait d s
  | .frontStatus d => Sys2Proof.Machine.execFrontStatus d s
  | .tallyAdd d => Sys2Proof.Machine.execTallyAdd d s
  | .tallyWait d => Sys2Proof.Machine.execTallyWait d s
  | .tallyAlign d => Sys2Proof.Machine.execTallyAlign d s
  | .waitSlotPlace ref => Sys2Proof.Machine.execWaitSlotPlace ref s
  | .spinExpiry ref => Sys2Proof.Machine.execSpinExpiry ref s
  | .doldrums ref => Sys2Proof.Machine.execDoldrums ref s
  | .create h v => Sys2Proof.Machine.execCreate h v s
  | .createAnswer h rec_ => Sys2Proof.Machine.execCreateAnswer h rec_ s
  | .contextPlace c => Sys2Proof.Machine.execContextPlace c s
  | .contextPreempt c => Sys2Proof.Machine.execContextPreempt c s
  | .contextSaveComplete c => Sys2Proof.Machine.execContextSaveComplete c s
  | .contextRestoreComplete c => Sys2Proof.Machine.execContextRestoreComplete c s
  | .idleLimitExpiry c => Sys2Proof.Machine.execIdleLimitExpiry c s
  | .holdLimitExpiry c => Sys2Proof.Machine.execHoldLimitExpiry c s
  | .ringSeatWrite c k v => Sys2Proof.Machine.execRingSeatWrite c k v s
  | .cyclicCommit => Sys2Proof.Machine.execCyclicCommit s
  | .cyclicTrim trim => Sys2Proof.Machine.execCyclicTrim trim s
  | .cyclicPeriodStart => Sys2Proof.Machine.execCyclicPeriodStart s
  | .cyclicSlotLead n => Sys2Proof.Machine.execCyclicSlotLead n s
  | .cyclicSlotStart n => Sys2Proof.Machine.execCyclicSlotStart n s
  | .cyclicSlotEnd n => Sys2Proof.Machine.execCyclicSlotEnd n s
  | .modelLoad d => Sys2Proof.Machine.execModelLoad d s
  | .modelEvict d => Sys2Proof.Machine.execModelEvict d s
  | .modelPin d => Sys2Proof.Machine.execModelPin d s
  | .modelUnpin d => Sys2Proof.Machine.execModelUnpin d s
  | .hbaseWrite h v => Sys2Proof.Machine.execHbaseWrite h v s
  | .overvoltage => Sys2Proof.Machine.execOvervoltage s
  | .powerFail => Sys2Proof.Machine.execPowerFail s
  | .powerFailReset => Sys2Proof.Machine.execPowerFailReset s
  | .inputSample mv ca tiles base links memory => Sys2Proof.Machine.execInputSample mv ca tiles base links memory s
  | .budgetRecompute estimates => Sys2Proof.Machine.execBudgetRecompute estimates s
  | .tilePowerInterval t powers => Sys2Proof.Machine.execTilePowerInterval t powers s
  | .clamp ca => Sys2Proof.Machine.execClamp ca s
  | .clampHoldExpiry ca => Sys2Proof.Machine.execClampHoldExpiry ca s
  | .clampCutoff ca => Sys2Proof.Machine.execClampCutoff ca s
  | .slewWindow needs => Sys2Proof.Machine.execSlewWindow needs s
  | .drizzleHoldExpiry d => Sys2Proof.Machine.execDrizzleHoldExpiry d s
  | .forecast d => Sys2Proof.Machine.execForecast d s
  | .forecastLeadReached k => Sys2Proof.Machine.execForecastLeadReached k s
  | .forecastExpiry k => Sys2Proof.Machine.execForecastExpiry k s
  | .forecastMiss k => Sys2Proof.Machine.execForecastMiss k s
  | .gustChoice t powers => Sys2Proof.Machine.execGustChoice t powers s
  | .thermalSample tiles dies stks dimms => Sys2Proof.Machine.execThermalSample tiles dies stks dimms s
  | .thermalTrip tile temp => Sys2Proof.Machine.execThermalTrip tile temp s
  | .energyRecalibrate mj => Sys2Proof.Machine.execEnergyRecalibrate mj s
  | .pwrSet v proof => Sys2Proof.Machine.execPwrSet v proof s
  | .hmsRd j tag dom line => Sys2Proof.Machine.execHmsRd j tag dom line s
  | .hmsWr j dom line ben data => Sys2Proof.Machine.execHmsWr j dom line ben data s
  | .h2dSnoop j cacheId addr => Sys2Proof.Machine.execH2dSnoop j cacheId addr s
  | .hostRegisterTlp j fn off kind => Sys2Proof.Machine.execHostRegisterTlp j fn off kind s
  | .hostReadResponse r => Sys2Proof.Machine.execHostReadResponse r s
  | .flr j fn => Sys2Proof.Machine.execFlr j fn s
  | .domainLoss j => Sys2Proof.Machine.execDomainLoss j s
  | .ucieRetrain j modules => Sys2Proof.Machine.execUcieRetrain j modules s
  | .perstDeassert port => Sys2Proof.Machine.execPerstDeassert port s
  | .perstAssert port => Sys2Proof.Machine.execPerstAssert port s
  | .romBoot ms bad => Sys2Proof.Machine.execRomBoot ms bad s
  | .stageLoaded stage ms => Sys2Proof.Machine.execStageLoaded stage ms s
  | .getNonce => Sys2Proof.Machine.execGetNonce s
  | .readReg addr => Sys2Proof.Machine.execReadReg addr s
  | .recoveryBundle bundle => Sys2Proof.Machine.execRecoveryBundle bundle s
  | .configStage cfg proof => Sys2Proof.Machine.execConfigStage cfg proof s
  | .tokenStage token => Sys2Proof.Machine.execTokenStage token s
  | .reset proof => Sys2Proof.Machine.execReset proof s
  | .routeWrite entries proof => Sys2Proof.Machine.execRouteWrite entries proof s
  | .portCtl port v proof => Sys2Proof.Machine.execPortCtl port v proof s
  | .pmtFormat proof => Sys2Proof.Machine.execPmtFormat proof s
  | .pmtFormatEnd defects => Sys2Proof.Machine.execPmtFormatEnd defects s
  | .getVersion => Sys2Proof.Machine.execGetVersion s
  | .getCapabilities => Sys2Proof.Machine.execGetCapabilities s
  | .negotiateAlgorithms sm2 sm3 => Sys2Proof.Machine.execNegotiateAlgorithms sm2 sm3 s
  | .getDigests => Sys2Proof.Machine.execGetDigests s
  | .getCertificate slot off len => Sys2Proof.Machine.execGetCertificate slot off len s
  | .challenge slot nonce => Sys2Proof.Machine.execChallenge slot nonce s
  | .getMeasurements index nonce => Sys2Proof.Machine.execGetMeasurements index nonce s
  | .secLockDone => Sys2Proof.Machine.execSecLockDone s
  | .watchdogService => Sys2Proof.Machine.execWatchdogService s
  | .watchdogExpiry => Sys2Proof.Machine.execWatchdogExpiry s
  | .coreSelfTestDone t n pass => Sys2Proof.Machine.execCoreSelfTestDone t n pass s
  | .fatalError loc => Sys2Proof.Machine.execFatalError loc s
  | .inPrsntChange low => Sys2Proof.Machine.execInPrsntChange low s
  | .inputGood addr => Sys2Proof.Machine.execInputGood addr s
  | .bringupStepDone step ms => Sys2Proof.Machine.execBringupStepDone step ms s
  | .moduleReset => Sys2Proof.Machine.execModuleReset s
  | .stackLost n => Sys2Proof.Machine.execStackLost n s
  | .frameSend port => Sys2Proof.Machine.execFrameSend port s
  | .laneLockLoss port lane now => Sys2Proof.Machine.execLaneLockLoss port lane now s
  | .jetDoldrums ref => Sys2Proof.Machine.execJetDoldrums ref s
  | .pcieCompletionTimeout r => Sys2Proof.Machine.execPcieCompletionTimeout r s
  | .pcieLinkTrained port width fast => Sys2Proof.Machine.execPcieLinkTrained port width fast s
  | .dimmChannelFail ch => Sys2Proof.Machine.execDimmChannelFail ch s
  | .pmtBadPacket n kind now => Sys2Proof.Machine.execPmtBadPacket n kind now s
  | .hmsBadHeader j dom => Sys2Proof.Machine.execHmsBadHeader j dom s

end Sys2Proof.Machine
end

