-- ==== Sys2Proof/Safety.lean ====
section
/-! DEFINITION. Safety.lean: what claims mean by a sound state, by a safe run, and by a change that stays within one unit. -/
namespace Sys2Proof
open Machine

/-- Every byte memory of the module is in its canonical form. -/
def Machine.State.canonical (s : State) : Bool :=
  s.mem.wf && s.blu.otp.wf && s.blu.sensed.wf && s.tiles.all (fun t => t.2.pool.wf)
    && s.ctxs.all (fun c => c.2.seats.all (fun q => q.2.sp.wf))

/-- k steps run without a stop and end in a sound state. -/
def safeFor (s : State) (k : Nat) : Prop := ∃ t, core.run k s = .next t ∧ State.canonical t = true

/-- A safe run: it goes on for ever, and every state of it is sound. -/
def safe (s : State) : Prop := ∀ k, safeFor s k

/-! ### Changes that stay within one unit: from s to t nothing else differs -/

/-- Context c alone. -/
def Machine.State.onlyCtx (s t : State) (c : Nat) : Prop := t = { s with ctxs := t.ctxs } ∧ ∀ j, j ≠ c → t.ctx j = s.ctx j

/-- Ring k of context c alone. -/
def Machine.State.onlyRing (s t : State) (c k : Nat) : Prop :=
  s.onlyCtx t c ∧ t.ctx c = { s.ctx c with rings := (t.ctx c).rings } ∧ ∀ j, j ≠ k → (t.ctx c).ring j = (s.ctx c).ring j

/-- From x to y nothing of a context changes but seat q of tile t, the descriptor at (r, i), and which FREEZE waits (R61). -/
def Machine.Ctx.onlySeatDesc (x y : Ctx) (t q r : Nat) (i : Word) : Prop :=
  y = { x with seats := y.seats, descs := y.descs, freezing := y.freezing } ∧ (∀ a b, 16 * a + b ≠ 16 * t + q → y.seat a b = x.seat a b)
    ∧ y.descs.filter (fun d => !d.is r i) = x.descs.filter (fun d => !d.is r i)

/-- Host domain h alone. -/
def Machine.State.onlyDom (s t : State) (h : Nat) : Prop := t = { s with doms := t.doms } ∧ ∀ j, j ≠ h → t.dom j = s.dom j

/-- Attachment i alone. -/
def Machine.State.onlyAtt (s t : State) (i : Nat) : Prop := t = { s with attaches := t.attaches } ∧ ∀ j, j ≠ i → t.att j = s.att j

/-- Tile k alone. -/
def Machine.State.onlyTile (s t : State) (k : Nat) : Prop := t = { s with tiles := t.tiles } ∧ ∀ j, j ≠ k → t.tile j = s.tile j

/-- Vexja port p alone. -/
def Machine.State.onlyPort (s t : State) (p : Nat) : Prop :=
  t = { s with lnk := { s.lnk with ports := t.lnk.ports } } ∧ ∀ j, j ≠ p → t.port j = s.port j

/-- A cable that Bluone accepts: readable, passive copper, at most 2 m (R478). -/
def Machine.cableGood (c : Cable) : Prop := ∃ mm ≤ 2000, c = .read mm true

/-- Permafrost device n alone. -/
def Machine.State.onlyPdev (s t : State) (n : Nat) : Prop :=
  t = { s with pmt := { s.pmt with devs := t.pmt.devs } } ∧ ∀ j, j ≠ n → t.pdev j = s.pdev j

/-- The order of waiting and yielding alone: stamps and idle marks of contexts (R373, R374) and served values of domains (R372). -/
def Machine.State.onlyOrder (s t : State) : Prop :=
  t = { s with ctxs := t.ctxs, doms := t.doms, sched := { s.sched with stamp := t.sched.stamp } }
    ∧ (∀ c, t.ctx c = { s.ctx c with sched := { (s.ctx c).sched with waitStamp := (t.ctx c).sched.waitStamp, idleHit := (t.ctx c).sched.idleHit } })
    ∧ (∀ h, t.dom h = { s.dom h with served := (t.dom h).served })

/-- The bytes of the physical address space outside n bytes from pa on are as they were. -/
def Machine.State.sameOutside (s t : State) (pa n : Nat) : Prop :=
  ∀ a, (∀ i, i < n → a ≠ s.home (pa + i)) → mget t.mem a = mget s.mem a

/-! ### Descriptors -/

/-- The reference names a descriptor of an opcode that the dispatcher serves next (R50 to R53), and no word of the context's state that it uses is
uncorrectable (R460). -/
def Machine.State.issues (s : State) (ref : DescRef) (op : Nat) (d : Desc) : Prop :=
  s.desc ref = some d ∧ d.opcode = op ∧ s.mayIssue ref.ctx d = true ∧ s.badFor ref.ctx d = []

/-- The state in which the unit of a descriptor that issues begins. -/
def Machine.State.begun (s : State) (ref : DescRef) (d : Desc) : State := (s.startIssue ref.ctx d).tick

/-- The descriptor ends with a status and a RESULT. -/
def Machine.State.ended (s : State) (ref : DescRef) (status : BitVec 8) (result : DWord) : State :=
  s.finish ref.ctx ref.ring ref.index ⟨status, result⟩

/-- The reference names a descriptor of an opcode that is executing at its unit (R379, R387), and no word of the context's state that it uses is
uncorrectable (R460). -/
def Machine.State.runs (s : State) (ref : DescRef) (op : Nat) (d : Desc) : Prop :=
  s.desc ref = some d ∧ d.opcode = op ∧ d.st = .executing ∧ (s.ctx ref.ctx).atUnits = true ∧ s.badFor ref.ctx d = []

/-- The reference names a MATMUL whose array works: its context is placed, in RUN or DRAIN, and not being restored; a save may go on (R114). -/
def Machine.State.arrayWorks (s : State) (ref : DescRef) (d : Desc) : Prop :=
  s.desc ref = some d ∧ d.opcode = 0x100 ∧ d.st = .executing ∧ ((s.ctx ref.ctx).st = .run ∨ (s.ctx ref.ctx).st = .drain)
    ∧ (s.ctx ref.ctx).sched.placed = true ∧ (s.ctx ref.ctx).sched.restoring = false

/-! ### Resets, and owner commands -/

/-- t is what a cold or module reset makes of s (R465): every register at its reset value with CAP_W at DESIGN_W, no context, nothing in SRAM, in
the stacks or in the DIMMs; OTP, flash and what lies outside the module as they were, and the Permafrost tier too where no write is outstanding. -/
def Machine.State.restarted (s t : State) (switch good : Bool) : Prop :=
  t.ctxs = [] ∧ t.doms = [] ∧ t.tiles = [] ∧ t.stks = [] ∧ t.dimms = [] ∧ t.models = [] ∧ t.ueLines = [] ∧ t.sched = Sched.reset
    ∧ t.err = ErrMod.reset ∧ t.boot = Boot.reset ∧ t.sec = SecRegs.reset
    ∧ t.pwr = { Power.reset with capW := BitVec.ofNat 13 s.designW }
    ∧ t.blu = s.blu.unpowered ∧ t.blu.otp = s.blu.otp ∧ t.blu.stage = 0 ∧ t.blu.nonce = none
    ∧ t.pins = { Pins.reset with inPrsnt := s.pins.inPrsnt, switch := switch, inputGood := good, mgtAddr := s.pins.mgtAddr }
    ∧ (∀ p, t.port p = { Port.reset with cable := (s.port p).cable }) ∧ (∀ n, (t.pdev n).reqs = [] ∧ (t.pdev n).state = 0)
    ∧ (∀ a, a < pmtBase → mget t.mem a = Memory.blank)
    ∧ ((∀ n < 8, ∀ r ∈ (s.pdev n).reqs, r.write = false) → ∀ a, pmtBase ≤ a → mget t.mem a = mget s.mem a)
    ∧ t.pending = s.pending ∧ t.outs = s.outs

/-- Bluone serves owner commands, and the command carries the valid nonce (R440). -/
def Machine.State.ownerHears (s : State) (p : OwnerProof) : Prop :=
  s.inRecovery = false ∧ 2 ≤ s.blu.stage ∧ s.unowned = false ∧ s.blu.nonce = some p.nonce

/-- The key is the owner's and the signature over CMD, NONCE and ARGS verifies (R440). -/
def Machine.State.ownerSigned (s : State) (cmd : Nat) (args : List Byte) (p : OwnerProof) : Bool :=
  s.ownerKey p.pk && Config.sm2Verify "XR96-CMD" p.pk (BitVec.ofNat 8 cmd :: p.nonce ++ args) p.sig

/-- The nonce is used up. -/
def Machine.State.nonceUsed (s : State) : State := { s with blu := { s.blu with nonce := none } }

/-! ### Rings -/

/-- A ring's indices are sound: the accepted tail, the fetched slots and the completion entries all lie within its slots (R32, R33). -/
def Machine.Ctx.ringSound (x : Ctx) (k : Nat) : Prop :=
  (x.ring k).sizeLog2.toNat ≤ 16 ∧ ((x.ring k).sqTail - (x.ring k).sqHead).toNat ≤ (x.ring k).slots
    ∧ (x.ring k).fetched ≤ ((x.ring k).sqTail - (x.ring k).sqHead).toNat
    ∧ ((x.ring k).cqTail - (x.ring k).cqHead).toNat + (x.ringDescs k).length ≤ (x.ring k).slots

/-- Every ring of every context is sound. -/
def Machine.State.ringsSound (s : State) : Prop := ∀ c k, (s.ctx c).ringSound k

end Sys2Proof
end

