-- ==== Sys2Proof/Certificates/Slice0/Obligations.lean ====
section
/-! DEFINITION. Certificates/Slice0/Obligations.lean: the statements for the provers. -/
open Sys2Proof Sys2Proof.Machine

/-- For every state and every command c at the front of its queue, the step of that state is exec of c on the state with the queue's rest,
whatever the three outcomes; the queue is the model's own, first in first out. (00_scope.md) -/
def Obligations.StepRunsFrontCommand : Prop :=
  ∀ (s : State) (c : Instr) (r : List Instr), s.pending = c :: r → step s = exec c { s with pending := r }

/-- With no command waiting a step answers the state unchanged: the model's own choice (log entry 32), since the opcode table has no row for
a clock tick; no word spells a command either, so withFetchWord changes nothing. (00_scope.md) -/
def Obligations.EmptyQueueIdles : Prop :=
  ∀ (s : State), s.pending = [] → step s = .next s ∧ ∀ nbits w, s.withFetchWord nbits w = s

/-- After reset every context is EMPTY with TAG 0, VER_MAX 1, CLASS 0, RESUMABLE 1 and no phase set; every ring is disabled with SIZE_LOG2 4
and all four indices 0; no front entry of a tile is valid, every model slot is EMPTY and every work counter has NEXT 0, LIMIT 0, STEP 1,
no redo and no holder; the scheduling registers hold QUANTUM_JOBS 256, IDLE 64, HOLD 172, PERIOD 10,000, LEAD 800; the power registers
hold CAP_W 3,650, GUST_MAX 4, SLEW 20, T_THROTTLE 100, DRIZZLE on with hold 20; the link registers hold HOP_MAX 15, Q_THRESH 32 and
credit limits 32, 160, 64, 256; the error log is empty and nothing has left the module. CAP_W 3,650 is the DESIGN_W of the XR-9612-MF,
the variant that the model chose (log entry 3); the list of what has left the module is the model's own field, and empty by its choice
(log entry 33). (R32, R41, R59, R376, R409, R437, 02_command_rings.md, 14_scheduling_sharing.md, 15_power_thermal.md, 11_vexja_link.md) -/
def Obligations.ResetValuesOfTheTables : Prop :=
  (∀ c k, (State.reset.ctx c).st = .empty ∧ (State.reset.ctx c).cfg = ⟨0, 1, false, false, 0, true, false⟩
    ∧ (State.reset.ctx c).stateByte = 0 ∧ (State.reset.ctx c).descs = []
    ∧ ((State.reset.ctx c).ring k).enable = false ∧ ((State.reset.ctx c).ring k).sizeLog2 = 4
    ∧ ((State.reset.ctx c).ring k).sqHead = 0 ∧ ((State.reset.ctx c).ring k).sqTail = 0
    ∧ ((State.reset.ctx c).ring k).cqHead = 0 ∧ ((State.reset.ctx c).ring k).cqTail = 0)
  ∧ State.reset.sched.quantumJobs = 256 ∧ State.reset.sched.idleLimit = 64 ∧ State.reset.sched.holdLimit = 172
  ∧ State.reset.sched.cyc.periodUs = 10000 ∧ State.reset.sched.cyc.leadUs = 800 ∧ State.reset.sched.cyc.en = false
  ∧ State.reset.pwr.capW = 3650 ∧ State.reset.pwr.gustMax = 4 ∧ State.reset.pwr.slewLim = 20 ∧ State.reset.pwr.tThrottle = 100
  ∧ State.reset.pwr.drizzleEn = true ∧ State.reset.pwr.drizzleHold = 20
  ∧ State.reset.lnk.hopMax = 15 ∧ State.reset.lnk.qThresh = 32 ∧ (∀ p, (State.reset.port p).limits = [32, 160, 64, 256])
  ∧ (∀ t n, (State.reset.front t n).valid = false ∧ (State.reset.tile t).counter n = ⟨0, 0, 1, [], none⟩)
  ∧ (∀ i, (State.reset.model i).state = .empty) ∧ State.reset.err.log.entries = [] ∧ State.reset.outs = []
  ∧ State.reset.boot.phase = 0 ∧ State.reset.blu.stage = 0 ∧ State.reset.blu.unlock = false

/-- In the state after reset the memory of the physical address space, the OTP image and its sensed copy, every tile pool and every seat's
scratchpad are canonical: addresses strictly rise and no entry is the blank byte. (08_memory_tiers.md, 04_matrix_array.md) -/
def Obligations.ResetMemoriesCanonical : Prop := State.reset.canonical = true

/-- From every state, reachable or not, whose byte memories (physical address space, OTP, its sensed copy, every tile pool, every seat's
scratchpad) are canonical, a step of any of the 222 commands that answers a next state leaves all of them canonical, so equal memories
stay equal data. (01_architecture.md, 08_memory_tiers.md, 17_trust_otp.md) -/
def Obligations.StepKeepsMemoriesCanonical : Prop :=
  ∀ (s t : State), s.canonical = true → step s = .next t → t.canonical = true

/-- For every state and every command, if exec answers a next state then the order variant, the serial number, the device secret and the
vendor root hash are what they were, the queue of waiting commands is what it was, and everything that had left the module before stays
on the record, in its order, before whatever left now. (R437, R442, 17_trust_otp.md, R54) -/
def Obligations.NoCommandChangesIdentity : Prop :=
  ∀ (c : Instr) (s t : State), exec c s = .next t →
    t.blu.variant = s.blu.variant ∧ t.blu.serial = s.blu.serial ∧ t.blu.secret = s.blu.secret ∧ t.blu.rootHash = s.blu.rootHash
      ∧ t.pending = s.pending ∧ ∃ new, t.outs = s.outs ++ new

/-- A write of t to SQ_TAIL of a ring that the context has, with d = (t − SQ_TAIL) mod 2^32 and n = 2^SIZE_LOG2: d = 0 has no effect; d ≥
2^31 counts DB_STALE_CNT; else t − SQ_HEAD ≤ n makes SQ_TAIL t; else DB_VIOL is set and DB_VIOL_CNT counts. Nothing but that ring
changes, apart from the order in which contexts and domains wait (R371 to R373). (R37) -/
def Obligations.DoorbellTailWrite : Prop :=
  ∀ (s : State) (c k : Nat) (t : Word), k < (s.ctx c).sched.rings.toNat →
    ∃ u v : State, exec (.sqTailWrite c k t) s = .next v ∧ s.onlyRing u c k ∧ u.onlyOrder v ∧
      (v.ctx c).ring k =
        (let r := (s.ctx c).ring k
         let d := (t - r.sqTail).toNat
         if d = 0 then r
         else if 2 ^ 31 ≤ d then { r with dbStaleCnt := satInc r.dbStaleCnt }
         else if (t - r.sqHead).toNat ≤ 2 ^ r.sizeLog2.toNat then { r with sqTail := t }
         else { r with dbViol := true, dbViolCnt := satInc r.dbViolCnt })

/-- A write of h to CQ_HEAD of a ring that the context has, with d = (h − CQ_HEAD) mod 2^32: d ≤ (CQ_TAIL − CQ_HEAD) mod 2^32 makes CQ_HEAD
h (of the qualifying records only those from h on stay so); else d ≥ 2^31 counts DB_STALE_CNT; else CQ_VIOL is set and CQ_VIOL_CNT
counts. An accepted write frees d entries for reservation, where entries written and reserved together do not exceed the ring. Nothing
but that ring changes. (R38) -/
def Obligations.DoorbellHeadWrite : Prop :=
  ∀ (s : State) (c k : Nat) (h : Word), k < (s.ctx c).sched.rings.toNat →
    ∃ v : State, exec (.cqHeadWrite c k h) s = .next v ∧ s.onlyRing v c k ∧
      (v.ctx c).ring k =
        (let r := (s.ctx c).ring k
         let d := (h - r.cqHead).toNat
         if d ≤ (r.cqTail - r.cqHead).toNat then
           { r with cqHead := h, qualifying := r.qualifying.filter (fun i => decide ((i - h).toNat < (r.cqTail - h).toNat)) }
         else if 2 ^ 31 ≤ d then { r with dbStaleCnt := satInc r.dbStaleCnt }
         else { r with cqViol := true, cqViolCnt := satInc r.cqViolCnt }) ∧
      ((h - ((s.ctx c).ring k).cqHead).toNat ≤ (((s.ctx c).ring k).cqTail - ((s.ctx c).ring k).cqHead).toNat →
        (((s.ctx c).ring k).cqTail - ((s.ctx c).ring k).cqHead).toNat + ((s.ctx c).ringDescs k).length ≤ ((s.ctx c).ring k).slots →
        (v.ctx c).freeEntries k = (s.ctx c).freeEntries k + (h - ((s.ctx c).ring k).cqHead).toNat)

/-- IRQ_ARM of a ring that the context has arms it, unless IRQ_EN is set and a qualifying record lies between CQ_HEAD and CQ_TAIL: then the
vector is raised at once (the message leaves, or the pending bit is set while the vector is masked) and the ring stays disarmed. Any
other write of the doorbell page, and a write to the block of a ring that a context outside EMPTY does not have, counts DB_STALE_CNT of
that ring, or of ring 0 where the context lacks it; an EMPTY context has no owner and nothing is counted. That a masked vector becomes a
pending bit is the model's choice, PCIe's MSI-X (log entry 20); that IRQ_ARM raises at once and leaves the ring disarmed is its reading
of R39 (log entry 40). (R36, R39, R425) -/
def Obligations.InterruptArmAndStrayDoorbell : Prop :=
  (∀ (s : State) (c k : Nat), k < (s.ctx c).sched.rings.toNat →
    (((s.ctx c).ring k).irqEn = false ∨ ((s.ctx c).ring k).qualifying.any ((s.ctx c).ring k).pendingRecord = false →
      exec (.irqArm c k) s = .next (s.modRing c k (fun r => { r with armed := true }))) ∧
    (((s.ctx c).ring k).irqEn = true → ((s.ctx c).ring k).qualifying.any ((s.ctx c).ring k).pendingRecord = true →
      ∃ t : State, exec (.irqArm c k) s = .next t ∧ ((t.ctx c).ring k).armed = false ∧ t.mem = s.mem ∧
        (if (s.dom (s.ctxDom c)).vectorMasked ((s.ctx c).ring k).vector.toNat
          then t.outs = s.outs ∧ ((s.ctx c).ring k).vector.toNat ∈ (t.dom (s.ctxDom c)).pba
          else t.outs = s.outs ++ [.irq (s.ctxDom c) ((s.ctx c).ring k).vector.toNat] ∧ t.doms = s.doms))) ∧
  (∀ (s : State) (c off : Nat), ((s.ctx c).st = .empty → exec (.doorbellStrayWrite c off) s = .next s) ∧
    ((s.ctx c).st ≠ .empty → exec (.doorbellStrayWrite c off) s = .next (s.modRing c
      (if off / 64 % 64 < (s.ctx c).sched.rings.toNat then off / 64 % 64 else 0)
      (fun r => { r with dbStaleCnt := satInc r.dbStaleCnt })))) ∧
  (∀ (s : State) (c k : Nat) (v : Word), (s.ctx c).st ≠ .empty → ¬ k < (s.ctx c).sched.rings.toNat →
    ∀ i ∈ [Instr.sqTailWrite c k v, .cqHeadWrite c k v, .irqArm c k],
      exec i s = .next (s.modRing c 0 (fun r => { r with dbStaleCnt := satInc r.dbStaleCnt })))

/-- On a context outside EMPTY and a ring it has. A write of HST_RING_CFG that carries the current SIZE_LOG2 and no RESET sets ENABLE,
IRQ_EN, VECTOR and PRIORITY as written; enabling a disabled ring arms it, and clearing ENABLE drops the fetched slots. A write that
changes SIZE_LOG2 sets it where it is 4 to 16 and the ring is disabled, and else leaves it and counts in CFG_VIOL; its other fields take
effect all the same. A write that carries RESET and clears ENABLE, with no descriptor of the ring in flight, sets the four indices and
every counter to 0 and keeps the bases and SIZE_LOG2; one that leaves ENABLE set, or meets a descriptor of the ring in flight, is
refused and counted in CFG_VIOL. A base write to a disabled ring whose address the domain can hold sets that base with bits [11:0]
clear; to an enabled ring, or with an address the domain cannot hold, it is refused and counted in CFG_VIOL. Nothing but that ring
changes, apart from the order of waiting. (R39, R41, R42, R426) -/
def Obligations.RingConfigurationWrites : Prop :=
  (∀ (s : State) (c k : Nat) (v : DWord), (s.ctx c).st ≠ .empty → k < (s.ctx c).sched.rings.toNat →
    fld v 0 5 = ((s.ctx c).ring k).sizeLog2.toNat → bit v 6 = false →
    (∃ u t : State, exec (.ringEnable c k v) s = .next t ∧ s.onlyRing u c k ∧ u.onlyOrder t ∧
      (t.ctx c).ring k = { (s.ctx c).ring k with
        enable := true, irqEn := bit v 7, vector := BitVec.ofNat 8 (fld v 8 8), priority := BitVec.ofNat 2 (fld v 16 2),
        armed := ((s.ctx c).ring k).armed || !((s.ctx c).ring k).enable }) ∧
    (∃ u t : State, exec (.ringDisable c k v) s = .next t ∧ s.onlyRing u c k ∧ u.onlyOrder t ∧
      (t.ctx c).ring k = { (s.ctx c).ring k with
        enable := false, irqEn := bit v 7, vector := BitVec.ofNat 8 (fld v 8 8), priority := BitVec.ofNat 2 (fld v 16 2), fetched := 0 })) ∧
  (∀ (s : State) (c k : Nat) (v : DWord), (s.ctx c).st ≠ .empty → k < (s.ctx c).sched.rings.toNat →
    fld v 0 5 = ((s.ctx c).ring k).sizeLog2.toNat → bit v 5 = false → (s.ctx c).ringDescs k = [] →
    ∃ u t : State, exec (.ringReset c k v) s = .next t ∧ s.onlyRing u c k ∧ u.onlyOrder t ∧
      (let r := (t.ctx c).ring k
       r.sqHead = 0 ∧ r.sqTail = 0 ∧ r.cqHead = 0 ∧ r.cqTail = 0 ∧ r.dbStaleCnt = 0 ∧ r.recDropCnt = 0 ∧ r.dbViolCnt = 0
         ∧ r.cqViolCnt = 0 ∧ r.cfgViolCnt = 0 ∧ r.fetchErrCnt = 0 ∧ r.writeErrCnt = 0 ∧ r.dropping = false ∧ r.enable = false
         ∧ r.sqBase = ((s.ctx c).ring k).sqBase ∧ r.cqBase = ((s.ctx c).ring k).cqBase ∧ r.sizeLog2 = ((s.ctx c).ring k).sizeLog2)) ∧
  (∀ (s : State) (c k : Nat) (v : DWord), (s.ctx c).st ≠ .empty → k < (s.ctx c).sched.rings.toNat → bit v 6 = false →
    fld v 0 5 ≠ ((s.ctx c).ring k).sizeLog2.toNat → ∀ on : Bool,
    ∃ u t : State, exec (if on then .ringEnable c k v else .ringDisable c k v) s = .next t ∧ s.onlyRing u c k ∧ u.onlyOrder t ∧
      (let r := (s.ctx c).ring k
       let r1 := { r with
         enable := on, irqEn := bit v 7, vector := BitVec.ofNat 8 (fld v 8 8), priority := BitVec.ofNat 2 (fld v 16 2)
         fetched := if on then r.fetched else 0, armed := r.armed || (on && !r.enable) }
       (t.ctx c).ring k = (if 4 ≤ fld v 0 5 ∧ fld v 0 5 ≤ 16 ∧ r.enable = false then { r1 with sizeLog2 := BitVec.ofNat 5 (fld v 0 5) }
         else { r1 with cfgViol := true, cfgViolCnt := satInc r.cfgViolCnt }))) ∧
  (∀ (s : State) (c k : Nat) (v : DWord), (s.ctx c).st ≠ .empty → k < (s.ctx c).sched.rings.toNat →
    fld v 0 5 = ((s.ctx c).ring k).sizeLog2.toNat → bit v 5 = true ∨ (s.ctx c).ringDescs k ≠ [] →
    ∃ u t : State, exec (.ringReset c k v) s = .next t ∧ s.onlyRing u c k ∧ u.onlyOrder t ∧
      (let r := (s.ctx c).ring k
       (t.ctx c).ring k = { r with
         enable := bit v 5, irqEn := bit v 7, vector := BitVec.ofNat 8 (fld v 8 8), priority := BitVec.ofNat 2 (fld v 16 2)
         fetched := if bit v 5 then r.fetched else 0, armed := r.armed || (bit v 5 && !r.enable), cfgViol := true, cfgViolCnt := satInc r.cfgViolCnt })) ∧
  (∀ (s : State) (c k : Nat) (cq : Bool) (v : DWord), (s.ctx c).st ≠ .empty → k < (s.ctx c).sched.rings.toNat →
    (((s.ctx c).ring k).enable = false → ((s.dom (s.ctxDom c)).hostOffset (v &&& ~~~0xFFF).toNat).isSome →
      exec (.ringBaseWrite c k cq v) s = .next (s.modRing c k (fun r =>
        if cq then { r with cqBase := v &&& ~~~0xFFF } else { r with sqBase := v &&& ~~~0xFFF }))) ∧
    (((s.ctx c).ring k).enable = true ∨ ((s.dom (s.ctxDom c)).hostOffset (v &&& ~~~0xFFF).toNat) = none →
      exec (.ringBaseWrite c k cq v) s = .next (s.modRing c k (fun r =>
        { r with cfgViol := true, cfgViolCnt := satInc r.cfgViolCnt }))))

/-- Where a ring may admit (RUN, ENABLE, a free unreserved completion entry, fewer than 256 in flight, no power-fail warning): a fetch read
of 1 to 32 slots, within the accepted tail and the ring's end, leaves for the slots after those fetched; a returned read admits the
descriptor at SQ_HEAD, which advances by its slots, appends it waiting or finished by checks 1 to 8, and counts it in HST_CTX_ADMITTED
unless its opcode is NOP. A fetch error sets FETCH_ERR, clears ENABLE and keeps SQ_HEAD; a refused record write sets WRITE_ERR, clears
ENABLE, puts CQ_TAIL back to that record and counts it and every later one in REC_DROP_CNT. (R33, R34, R35, R44, R49, R59, R393) -/
def Obligations.FetchAndAdmission : Prop :=
  (∀ (s : State) (c k n : Nat), s.admits c k = true → 1 ≤ n → n ≤ 32 →
    (let r := (s.ctx c).ring k
     let first := (r.sqHead + BitVec.ofNat 32 r.fetched).toNat % 2 ^ r.sizeLog2.toNat
     r.fetched + n ≤ (r.sqTail - r.sqHead).toNat → first + n ≤ 2 ^ r.sizeLog2.toNat →
      exec (.fetchRequest c k n) s = .next ((s.modRing c k (fun r => { r with fetched := r.fetched + n })).emits
        (s.hostReads (s.ctxDom c) (r.sqBase.toNat + first * 64) (n * 64))))) ∧
  (∀ (s : State) (c k : Nat) (ws : List DWord), s.admits c k = true →
    (let r := (s.ctx c).ring k
     let n := if bit (wrd ws 0) 16 ∧ r.sqHead.toNat % 2 = 0 then 2 else 1
     n ≤ r.fetched → ∃ (t : State) (d : Desc), exec (.descriptorAdmit c k ws) s = .next t ∧ s.onlyCtx t c ∧
       (t.ctx c).descs = (s.ctx c).descs ++ [d] ∧ d.ring = k ∧ d.index = r.sqHead ∧ d.words.length = 8 * n ∧ d.issued = false ∧
       (∀ j, j < 8 * n → d.word j = wrd ws j) ∧
       ((t.ctx c).ring k) = { r with sqHead := r.sqHead + BitVec.ofNat 32 n, fetched := r.fetched - n } ∧
       (t.ctx c).admitted = (if fld (wrd ws 0) 4 12 = 0 then (s.ctx c).admitted else (s.ctx c).admitted + 1) ∧
       (match s.admitChecks c { d with st := .waiting, status := 0, result := 0 } with
        | some st => d.st = .done ∧ d.status = st.status ∧ d.result = st.result
        | none => d.st = .waiting))) ∧
  (∀ (s : State) (c k : Nat), 0 < ((s.ctx c).ring k).fetched →
    ∃ u : State, s.onlyAtt u (s.attOf (s.ctxDom c)) ∧ (u.att (s.attOf (s.ctxDom c))).viol = true ∧
      exec (.fetchErr c k) s = .next (u.modRing c k (fun r =>
        { r with fetchErr := true, fetchErrCnt := satInc r.fetchErrCnt, enable := false, fetched := 0 }))) ∧
  (∀ (s : State) (c k : Nat) (i : Word), ((s.ctx c).ring k).pendingRecord i = true →
    ∃ (u t : State), s.onlyAtt u (s.attOf (s.ctxDom c)) ∧ (u.att (s.attOf (s.ctxDom c))).viol = true ∧
      exec (.writeErr c k i) s = .next t ∧ u.onlyRing t c k ∧
      (let r := (s.ctx c).ring k
       let q := (t.ctx c).ring k
       q.writeErr = true ∧ q.writeErrCnt = satInc r.writeErrCnt ∧ q.enable = false ∧ q.dropping = true ∧ q.cqTail = i
         ∧ q.recDropCnt = satAdd r.recDropCnt (r.cqTail - i).toNat ∧ q.sqHead = r.sqHead ∧ q.cqHead = r.cqHead))

/-- A finished descriptor whose status does not tear its context down, of a group that leaves nothing else behind (NOP to THAW, compute,
DMA, tables), on a ring that drops no records and with no interrupt due: its record leaves as words 1 to 3 and then word 0 at CQ_BASE +
32 × (CQ_TAIL mod slots); word 0 holds SEQUENCE, OPCODE, VERSION, STATUS, RING, PHASE and CONTEXT_TAG, word 1 a free ENERGY_UJ (0 for a
descriptor that never issued) with ENERGY_SAT, word 2 RESULT, word 3 USER; CQ_TAIL advances by one and the descriptor leaves the
context. (R54, R55, R56, R57, R59) -/
def Obligations.CompletionRecordLayout : Prop :=
  ∀ (s : State) (ref : DescRef) (d : Desc), s.desc ref = some d → d.st = .done → ref.ring < 64 →
    s.frostWaits ref.ctx ref.ring ref.index = false → (s.ctx ref.ctx).tearsDown d.status = false →
    d.opcode ∈ [0x000, 0x001, 0x002, 0x003, 0x100, 0x200, 0x201, 0x300, 0x301, 0x302, 0x500, 0x501, 0x506] →
    (s.ctx ref.ctx).silent = false → ((s.ctx ref.ctx).ring ref.ring).dropping = false →
    (d.qualifies && ((s.ctx ref.ctx).ring ref.ring).irqEn && ((s.ctx ref.ctx).ring ref.ring).armed) = false →
    (s.ctx ref.ctx).st = .run →
    ∃ (t : State) (w : List DWord) (e : BitVec 48), exec (.descriptorComplete ref) s = .next t ∧ w.length = 4 ∧
      (let r := (s.ctx ref.ctx).ring ref.ring
       let a := r.cqBase.toNat + r.cqTail.toNat % 2 ^ r.sizeLog2.toNat * 32
       let h := s.ctxDom ref.ctx
       t.outs = s.outs ++ s.hostWrites h (a + 8) (wordsBytes (w.drop 1)) ++ s.hostWrites h a (wordsBytes (w.take 1)) ∧
       fld (wrd w 0) 0 16 = fld (d.word 0) 48 16 ∧ fld (wrd w 0) 16 12 = d.opcode ∧ fld (wrd w 0) 28 4 = fld (d.word 0) 0 4 ∧
       fld (wrd w 0) 32 8 = d.status.toNat ∧ fld (wrd w 0) 40 6 = ref.ring ∧ bit (wrd w 0) 46 = false ∧
       bit (wrd w 0) 47 = !bit r.cqTail r.sizeLog2.toNat ∧ fld (wrd w 0) 48 16 = (s.ctx ref.ctx).cfg.tag.toNat ∧
       fld (wrd w 1) 0 48 = e.toNat ∧ bit (wrd w 1) 48 = decide (e = BitVec.allOnes 48) ∧ fld (wrd w 1) 49 15 = 0 ∧
       (d.issued = false → e = 0) ∧ wrd w 2 = d.result ∧ wrd w 3 = (if bit (d.word 0) 16 then d.word 15 else 0) ∧
       ((t.ctx ref.ctx).ring ref.ring).cqTail = r.cqTail + 1 ∧ t.desc ref = none ∧
       (t.ctx ref.ctx).completed = (if d.opcode = 0 then (s.ctx ref.ctx).completed else (s.ctx ref.ctx).completed + 1))

/-- Call a ring sound when SIZE_LOG2 is at most 16, at most 2^SIZE_LOG2 slots lie between SQ_HEAD and SQ_TAIL, the fetched slots lie among
them, and the records written and unread plus the descriptors in flight do not exceed 2^SIZE_LOG2. From every state in which every ring
of every context is sound, every doorbell write, fetch, admission, fetch error, refused record write, base write, DESCRIPTOR_COMPLETE
and TEARDOWN_STOPPED leaves every ring of every context sound, and so does a RING_ENABLE, RING_DISABLE or RING_RESET that does not make
its ring smaller: so these let no completion ring overflow (R33). Reset leaves every ring sound. (R32, R33, R35, R37, R38, R41, R44,
R63) -/
def Obligations.RingsNeverOverflow : Prop :=
  (∀ (s t : State) (c k n : Nat) (ref : DescRef) (cq : Bool) (v : DWord) (i : Instr) (w : Word) (ws : List DWord), s.ringsSound → exec i s = .next t →
    i ∈ [Instr.sqTailWrite c k w, .cqHeadWrite c k w, .irqArm c k, .doorbellStrayWrite c n, .fetchRequest c k n,
      .descriptorAdmit c k ws, .fetchErr c k, .writeErr c k w, .ringBaseWrite c k cq v, .descriptorComplete ref, .teardownStopped c] → t.ringsSound) ∧
  (∀ (s t : State) (c k : Nat) (i : Instr) (v : DWord), s.ringsSound → exec i s = .next t →
    i ∈ [Instr.ringEnable c k v, .ringDisable c k v, .ringReset c k v] →
    ((s.ctx c).ring k).sizeLog2.toNat ≤ ((t.ctx c).ring k).sizeLog2.toNat → t.ringsSound) ∧
  State.reset.ringsSound

/-- Whatever the opcode and its unit: where an issue changes the state, the reference names a descriptor of that opcode; with FENCE_CLASS
0xFF no earlier descriptor of its ring is left; with ORDER = 1 and a class from 0x01 to 0xFE no earlier descriptor of its ring has that
class; every earlier one of its ring has issued or finished (R50); the context is placed, in RUN or DRAIN; and no descriptor that is
ready stands on a ring of higher PRIORITY (R53). With class 0xFF the condition does not look at ORDER, and with ORDER = 0 and any other
class there is none (XLATE_INVAL apart, R212). (R51, R52) -/
def Obligations.IssueRespectsFencesAndPriority : Prop :=
  (∀ (x : Ctx) (d : Desc), d.opcode ≠ 0x506 →
    (d.fenceClass = 0xFF → (x.fenceMet d = true ↔ x.earlier d = [])) ∧
    (d.fenceClass ≠ 0xFF → d.order = false → x.fenceMet d = true)) ∧
  ∀ (s : State) (op : Nat) (ref : DescRef) (unit : Desc → Act (Option Stop)), issue op ref unit s ≠ s →
    ∃ d, s.issues ref op d ∧ d.st = .waiting ∧
      (d.fenceClass = 0xFF → (s.ctx ref.ctx).earlier d = []) ∧
      (d.order = true → 0x01 ≤ d.fenceClass → d.fenceClass ≤ 0xFE → ∀ e ∈ (s.ctx ref.ctx).earlier d, e.fenceClass ≠ d.fenceClass) ∧
      (∀ e ∈ (s.ctx ref.ctx).earlier d, e.st ≠ .waiting) ∧
      ((s.ctx ref.ctx).st = .run ∨ (s.ctx ref.ctx).st = .drain) ∧ (s.ctx ref.ctx).sched.placed = true ∧
      (∀ e ∈ (s.ctx ref.ctx).descs, s.ready ref.ctx e = true →
        ((s.ctx ref.ctx).ring e.ring).priority.toNat ≤ ((s.ctx ref.ctx).ring d.ring).priority.toNat)

/-- The state in which a unit begins and ends at once differs from the state before only in the count of free values (up by one), in the
descriptor that the reference names (finished, issued, with the status and RESULT given and no progress kept) and in the ring that the
dispatcher served last; every other descriptor, every other context, all of memory and every register stay as they were. (R49, R50, R53,
R58) -/
def Obligations.FinishingChangesOneDescriptor : Prop :=
  ∀ (s : State) (ref : DescRef) (d : Desc) (status : BitVec 8) (result : DWord), s.desc ref = some d →
    let t := (s.begun ref d).ended ref status result
    t = { s with free := s.free + 1, ctxs := t.ctxs } ∧ (∀ j, j ≠ ref.ctx → t.ctx j = s.ctx j) ∧
      t.ctx ref.ctx = { s.ctx ref.ctx with
        descs := (t.ctx ref.ctx).descs, freezing := (t.ctx ref.ctx).freezing
        lastServed := tput (s.ctx ref.ctx).lastServed ((s.ctx ref.ctx).ring d.ring).priority.toNat d.ring } ∧
      t.desc ref = some { d with st := .done, issued := !Stop.refuses ⟨status, result⟩ d.opcode, status := status, result := result, prog := .none } ∧
      (∀ r i, (r, i) ≠ (ref.ring, ref.index) → (t.ctx ref.ctx).findDesc r i = (s.ctx ref.ctx).findDesc r i)

/-- A NOP or FENCE that issues with words 1 to 7 zero ends with 0x00 OK and does nothing else. A FREEZE that issues in neither UPDATE nor
FROZEN sets FROZEN and ends with 0x00; in either phase it ends with 0x12 and the state byte and sets nothing. A THAW that issues in
FROZEN clears it and ends with 0x00; else it ends with 0x12. A non-zero reserved word ends any of them with 0x10, naming the lowest such
word at check 9. Nothing else changes. (R48, R49, R58, R60, R61) -/
def Obligations.ControlGroup : Prop :=
  ∀ (s : State) (ref : DescRef) (d : Desc),
    (s.issues ref 0x000 d → (∀ j ∈ [1, 2, 3, 4, 5, 6, 7], d.word j = 0) →
      exec (.nop ref) s = .next ((s.begun ref d).ended ref 0x00 0)) ∧
    (s.issues ref 0x001 d → (∀ j ∈ [1, 2, 3, 4, 5, 6, 7], d.word j = 0) →
      exec (.fence ref) s = .next ((s.begun ref d).ended ref 0x00 0)) ∧
    (s.issues ref 0x002 d → (∀ j ∈ [1, 2, 3, 4, 5, 6, 7], d.word j = 0) →
      ((s.ctx ref.ctx).update = false → (s.ctx ref.ctx).frozen = false →
        exec (.freeze ref) s = .next (((s.begun ref d).modCtx ref.ctx (fun x => { x with frozen := true })).ended ref 0x00 0)) ∧
      ((s.ctx ref.ctx).update = true ∨ (s.ctx ref.ctx).frozen = true →
        exec (.freeze ref) s = .next ((s.begun ref d).ended ref 0x12 (BitVec.ofNat 64 (s.ctx ref.ctx).stateByte)))) ∧
    (s.issues ref 0x003 d → (∀ j ∈ [1, 2, 3, 4, 5, 6, 7], d.word j = 0) →
      ((s.ctx ref.ctx).frozen = true →
        exec (.thaw ref) s = .next (((s.begun ref d).modCtx ref.ctx (fun x => { x with frozen := false })).ended ref 0x00 0)) ∧
      ((s.ctx ref.ctx).frozen = false →
        exec (.thaw ref) s = .next ((s.begun ref d).ended ref 0x12 (BitVec.ofNat 64 (s.ctx ref.ctx).stateByte)))) ∧
    (∀ j, 1 ≤ j → j ≤ 7 → d.word j ≠ 0 → (∀ n, 1 ≤ n → n < j → d.word n = 0) →
      (s.issues ref 0x000 d → exec (.nop ref) s = .next ((s.begun ref d).ended ref 0x10 (BitVec.ofNat 64 (j + 9 * 2 ^ 10)))) ∧
      (s.issues ref 0x001 d → exec (.fence ref) s = .next ((s.begun ref d).ended ref 0x10 (BitVec.ofNat 64 (j + 9 * 2 ^ 10)))) ∧
      (s.issues ref 0x002 d → exec (.freeze ref) s = .next ((s.begun ref d).ended ref 0x10 (BitVec.ofNat 64 (j + 9 * 2 ^ 10)))) ∧
      (s.issues ref 0x003 d → exec (.thaw ref) s = .next ((s.begun ref d).ended ref 0x10 (BitVec.ofNat 64 (j + 9 * 2 ^ 10)))))

/-- A write of HST_CTX_CFG in BOUND sets TAG, STRICT_CMD, STRICT_SUM and RESUMABLE, sets VER_MAX only to 1, keeps CLASS on a 3, and sets
CLASS and DEBUG; where the domain's policy forbids class 2 or DEBUG that field stays and CTRL_IGNORED counts. START of a BOUND context
queues it for placement; SUSPEND of a placed RUN context with nothing admitted and a free image slot for each seat sets SUSPENDED and
begins the save of every seat it holds; RESUME of a PAUSED context ends the suspension and empties its cached translations (the walkers'
pointers too after a write of the root), so that it is placed again. In a state that does not allow the command, other than EMPTY,
CTRL_IGNORED counts and nothing else changes; in EMPTY nothing changes. That a DEBUG which the policy forbids leaves its field as it is,
as R364 says, and does not force it to 0, as R59's table says, is the model's choice between the two (log entry 37). (R59, R364, R371,
R375) -/
def Obligations.ContextConfigStartSuspendResume : Prop :=
  (∀ (s : State) (c : Nat) (v : DWord), (s.ctx c).st = .bound →
    exec (.ctxCfgWrite c v) s = .next (
      let no2 := decide (fld v 22 2 = 2) && !(s.dom (s.ctxDom c)).class2Ok
      let noDebug := bit v 25 && !(s.dom (s.ctxDom c)).debugOk
      let t := s.modCtx c (fun x => { x with cfg :=
        ⟨BitVec.ofNat 16 (fld v 0 16), if fld v 16 4 = 1 then 1 else x.cfg.verMax, bit v 20, bit v 21,
          if fld v 22 2 = 3 ∨ no2 then x.cfg.cls else BitVec.ofNat 2 (fld v 22 2), bit v 24,
          if noDebug then x.cfg.debug else bit v 25⟩ })
      if no2 || noDebug then t.modCtx c (fun x => { x with ctrlIgnored := satInc x.ctrlIgnored }) else t)) ∧
  (∀ (s : State) (c : Nat), (s.ctx c).st = .bound → ∃ u t : State, exec (.start c) s = .next t ∧ s.onlyCtx u c ∧ u.onlyOrder t ∧
    u.ctx c = { s.ctx c with sched := { (s.ctx c).sched with queued := true } }) ∧
  (∀ (s : State) (c : Nat), (s.ctx c).st = .run → (s.ctx c).descs = [] → (s.ctx c).sched.saving = false →
    (s.ctx c).sched.restoring = false → s.slotsFree c = true → ∃ t : State, exec (.suspend c) s = .next t ∧
      (t.ctx c).st = .run ∧ (t.ctx c).sched = { (s.ctx c).sched with
        suspended := true, saving := true, slotOver := false, preemptCnt := satInc (s.ctx c).sched.preemptCnt,
        images := (s.ctx c).sched.images ++ (s.ctx c).sched.place.map (fun p => (p.1, p.2.1)) } ∧
      (∀ j, j ≠ c → t.ctx j = s.ctx j) ∧ t.mem = s.mem ∧ t.outs = s.outs) ∧
  (∀ (s : State) (c : Nat), (s.ctx c).st = .paused → ∃ u t : State, exec (.resume c) s = .next t ∧ s.onlyCtx u c ∧ u.onlyOrder t ∧
    u.ctx c = { s.ctx c with
      xl := { (s.ctx c).xl with cache := [], ptrs := if (s.ctx c).sched.rootWritten then [] else (s.ctx c).xl.ptrs }
      sched := { (s.ctx c).sched with
        suspended := false, resumed := (s.ctx c).sched.resumed || (s.ctx c).sched.suspended, rootWritten := false } }) ∧
  (∀ (s : State) (c : Nat) (v : DWord) (i : Instr),
    (i = .ctxCfgWrite c v ∧ (s.ctx c).st ≠ .bound) ∨ (i = .start c ∧ (s.ctx c).st ≠ .bound) ∨ (i = .suspend c ∧ (s.ctx c).st ≠ .run)
      ∨ (i = .resume c ∧ (s.ctx c).st ≠ .paused) →
    exec i s = .next (if (s.ctx c).st = .empty then s else s.modCtx c (fun x => { x with ctrlIgnored := satInc x.ctrlIgnored })))

/-- CLOSE ends in EMPTY, keeping only HST_CTX_KILL: of a BOUND context, of a RUN or DEAD context with no descriptor in flight, and of a
PAUSED context none of whose descriptors is a reduction or pass that runs on (the others are withdrawn with 0x70). CLOSE of a RUN
context with descriptors in flight enters DRAIN, withdraws none and frees its images but for those of lost seats; of a DEAD one it waits
for the records. KILL of a RUN or PAUSED context makes it DEAD with HST_CTX_KILL = 0x71 and KILL_CMD, clears UPDATE and FROZEN, takes
its seats and images, and leaves every other context's state, rings, configuration, HST_CTX_KILL and number of descriptors, and every
byte of memory, as they were. TEARDOWN_STOPPED of a DEAD context with one executing descriptor writes its record with 0x71, and it
leaves the context; with none left after a CLOSE the context becomes EMPTY. In a state that allows no such command CTRL_IGNORED counts;
in EMPTY nothing changes. Model's choices: that CLOSE of a RUN context ends a save and keeps lost seats' images, and that KILL is legal
in RUN and PAUSED alone (log entries 39 and 72); that a reduction or pass under way outlasts the CLOSE of a PAUSED context (log entry
86). (R58, R59, R63, R64, R350, R368, R387) -/
def Obligations.CloseKillAndTeardown : Prop :=
  (∀ (s : State) (c : Nat), ((s.ctx c).st = .bound ∨ (((s.ctx c).st = .paused ∨ (s.ctx c).st = .run ∨ (s.ctx c).st = .dead) ∧ (s.ctx c).descs = [])) →
    ∃ t : State, exec (.close c) s = .next t ∧ t.ctx c = { Ctx.reset with kill := (s.ctx c).kill } ∧ t.mem = s.mem ∧ t.outs = s.outs) ∧
  (∀ (s : State) (c : Nat), (s.ctx c).st = .paused → (∀ d ∈ (s.ctx c).descs, d.runsOn = false) →
    ∃ t : State, exec (.close c) s = .next t ∧ (t.ctx c).st = .empty ∧ (t.ctx c).descs = []) ∧
  (∀ (s : State) (c : Nat), (s.ctx c).st = .run → (s.ctx c).descs ≠ [] →
    exec (.close c) s = .next (s.modCtx c (fun x => { x with
      st := .drain, sched := { x.sched with saving := false, images := x.sched.images.filter x.sched.lost.contains } }))) ∧
  (∀ (s : State) (c : Nat), (s.ctx c).st = .dead → (s.ctx c).descs ≠ [] →
    exec (.close c) s = .next (s.modCtx c (fun x => { x with closing := true }))) ∧
  (∀ (s : State) (c : Nat), ((s.ctx c).st = .run ∨ (s.ctx c).st = .paused) → ∃ t : State, exec (.kill c) s = .next t ∧
    (t.ctx c).st = .dead ∧ (t.ctx c).kill = ⟨0x71, 0, 0, true⟩ ∧ (t.ctx c).update = false ∧ (t.ctx c).frozen = false ∧
    (t.ctx c).sched.placed = false ∧ (t.ctx c).sched.place = [] ∧ (t.ctx c).sched.images = [] ∧
    (t.ctx c).descs = (s.ctx c).descs ∧ (t.ctx c).rings = (s.ctx c).rings ∧ t.mem = s.mem ∧ t.outs = s.outs ∧
    (∀ j, j ≠ c → (t.ctx j).st = (s.ctx j).st ∧ (t.ctx j).rings = (s.ctx j).rings ∧ (t.ctx j).cfg = (s.ctx j).cfg
      ∧ (t.ctx j).kill = (s.ctx j).kill ∧ (t.ctx j).descs.length = (s.ctx j).descs.length)) ∧
  (∀ (s : State) (c : Nat) (d : Desc), (s.ctx c).st = .dead → (s.ctx c).closing = false → (s.ctx c).descs = [d] → d.st = .executing →
    d.opcode ∈ [0x001, 0x002, 0x003, 0x100, 0x200, 0x201, 0x300, 0x301, 0x302, 0x500, 0x501, 0x506] → (∀ w, d.prog ≠ .front w) →
    ∃ t : State, exec (.teardownStopped c) s = .next t ∧ (t.ctx c).st = .dead ∧ (t.ctx c).descs = [] ∧
      (t.ctx c).completed = (s.ctx c).completed + 1 ∧
      t = (s.countCompletion c d).retire c { d with st := .done, status := 0x71, result := (s.ctx c).kill.result, prog := .none }) ∧
  (∀ (s : State) (c : Nat), (s.ctx c).st = .dead → (s.ctx c).descs = [] → (s.ctx c).closing = true →
    ∃ t : State, exec (.teardownStopped c) s = .next t ∧ t.ctx c = { Ctx.reset with kill := (s.ctx c).kill } ∧ t.mem = s.mem ∧ t.outs = s.outs) ∧
  (∀ (s : State) (c : Nat),
    ((s.ctx c).st = .drain → exec (.close c) s = .next (s.modCtx c (fun x => { x with ctrlIgnored := satInc x.ctrlIgnored }))) ∧
    ((s.ctx c).st = .bound ∨ (s.ctx c).st = .drain ∨ (s.ctx c).st = .dead →
      exec (.kill c) s = .next (s.modCtx c (fun x => { x with ctrlIgnored := satInc x.ctrlIgnored }))) ∧
    ((s.ctx c).st = .empty → exec (.close c) s = .next s ∧ exec (.kill c) s = .next s))

/-- A write of HST_DOM_REQ with OP 1 and bits [11:2] zero, while not BUSY, sets BUSY and keeps the value; any other is counted in
REQ_IGNORED_CNT. An answer to a busy domain with a record whose code by R367 is 0 takes the lowest EMPTY context that no cyclic entry
names: BOUND, HST_CTX_CFG at reset, no descriptor and no save image, the tiles, seats, rings and windows of the record, owned by the
domain, its pool frames zero on every tile of its mask; DONE and CODE 0 name it; no other context and no byte of the physical memory
changes. With any other code nothing is allotted and DONE carries the code. HBASE of an external domain with no context outside EMPTY
takes bits [63:12]; with one it stays and CTRL_IGNORED counts in each of them; a partition's write is ignored. (R365, R366, R367, R368,
R391, R426) -/
def Obligations.ContextCreation : Prop :=
  (∀ (s : State) (h : Nat) (v : DWord),
    ((s.dom h).busy = false → fld v 0 2 = 1 → fld v 2 10 = 0 →
      exec (.create h v) s = .next (s.modDom h (fun d => { d with req := v, busy := true, lostWhileBusy := false }))) ∧
    ((s.dom h).busy = true ∨ fld v 0 2 ≠ 1 ∨ fld v 2 10 ≠ 0 →
      exec (.create h v) s = .next (s.modDom h (fun d => { d with reqIgnoredCnt := satInc d.reqIgnoredCnt })))) ∧
  (∀ (s : State) (h c : Nat) (ws : List DWord), (s.dom h).busy = true → s.err.closed = false → 2 ≤ s.blu.stage →
    (s.dom h).lostWhileBusy = false → s.formatting = false → s.createCode h (some ⟨ws⟩) = 0 → s.freeCtx (CreateRec.rings ⟨ws⟩) = some c →
    ∃ t : State, exec (.createAnswer h (some ws)) s = .next t ∧ (t.ctx c).st = .bound ∧ (t.ctx c).cfg = CtxCfg.reset ∧
      (t.ctx c).sched.domain = BitVec.ofNat 4 h ∧ (t.ctx c).sched.tileMask = BitVec.ofNat 12 (fld (wrd ws 0) 0 12) ∧
      (t.ctx c).sched.seats = BitVec.ofNat 5 (fld (wrd ws 0) 12 5) ∧ (t.ctx c).sched.rings = BitVec.ofNat 7 (fld (wrd ws 0) 17 7) ∧
      (t.ctx c).sched.modelWin = (s.dom h).modelOk ∧ (t.ctx c).descs = [] ∧ (t.ctx c).seats = [] ∧
      (∀ w, w < 16 → (t.ctx c).win w = (if (wrd ws (33 + 2 * w)).toNat = 0 then Window.reset else CreateRec.win ⟨ws⟩ w)) ∧
      (∀ k, k ∈ tilesOf (fld (wrd ws 0) 0 12) → ∀ a, (((t.ctx c).poolWindow k).1 ≤ a ∧ a < ((t.ctx c).poolWindow k).1 + ((t.ctx c).poolWindow k).2) →
        mget (t.tile k).pool a = 0) ∧
      t.dom h = (s.dom h).answer 0 c ∧ (∀ j, j ≠ c → t.ctx j = s.ctx j) ∧ (∀ j, j ≠ h → t.dom j = s.dom j) ∧ t.mem = s.mem) ∧
  (∀ (s : State) (h code : Nat) (ws : List DWord), (s.dom h).busy = true → s.err.closed = false → 2 ≤ s.blu.stage →
    (s.dom h).lostWhileBusy = false → s.formatting = false → s.createCode h (some ⟨ws⟩) = code → code ≠ 0 →
    ∃ t : State, exec (.createAnswer h (some ws)) s = .next t ∧ t.dom h = (s.dom h).answer code 0 ∧ t.ctxs = s.ctxs ∧ t.tiles = s.tiles
      ∧ t.mem = s.mem) ∧
  (∀ (s : State) (h : Nat) (v : DWord),
    ((s.dom h).external = true → s.domCtxs h = [] →
      exec (.hbaseWrite h v) s = .next (s.modDom h (fun d => { d with hbase := BitVec.ofNat 52 (fld v 12 52) }))) ∧
    ((s.dom h).external = false → exec (.hbaseWrite h v) s = .next s) ∧
    ((s.dom h).external = true → s.domCtxs h ≠ [] → ∃ t : State, exec (.hbaseWrite h v) s = .next t ∧ t = { s with ctxs := t.ctxs } ∧
      ∀ c, t.ctx c = (if (s.ctx c).st ≠ .empty ∧ s.ctxDom c = h then { s.ctx c with ctrlIgnored := satInc (s.ctx c).ctrlIgnored } else s.ctx c)))

/-- A context that the scheduler may place with no seat left out is placed whole: every seat of every tile of its mask takes a core, every
place it takes is a seat on an enabled, unheld core that no placed context occupied, two seats never on one core, and its restore
begins. A placed context without admitted work that may be pre-empted starts to be saved, one more image for each seat. When the save
ends, every array at its boundary, it is PAUSED and holds no core; when the restore ends a context without admitted work is in RUN,
keeps exactly the seats whose images it had (another seat reads as zero) and frees the images but those of the seats left out.
IDLE_LIMIT and HOLD_LIMIT expiries set their marks. Memory and the other contexts stay as they were. Which cores are taken is the
model's choice (log entry 60), and no clause rests on it. (R369, R371, R373, R374, R379, R381) -/
def Obligations.PlacementAndPreemption : Prop :=
  (∀ (s : State) (c : Nat), s.mayPlace c = true → s.lostSeats c = [] → ∃ t : State, exec (.contextPlace c) s = .next t ∧
    (t.ctx c).sched.placed = true ∧ (t.ctx c).sched.restoring = true ∧
    (∀ p ∈ (t.ctx c).sched.place, (s.tile p.1).enabled.getLsbD p.2.2 = true ∧ ((s.tile p.1).core p.2.2).held = false
      ∧ p.2.2 ∉ s.occupied p.1 ∧ (s.ctx c).sched.tileMask.getLsbD p.1 = true ∧ p.2.1 < (s.ctx c).sched.seats.toNat) ∧
    (∀ k ∈ tilesOf (s.ctx c).sched.tileMask.toNat, ∀ q < (s.ctx c).sched.seats.toNat, ∃ n, (k, q, n) ∈ (t.ctx c).sched.place) ∧
    (∀ p ∈ (t.ctx c).sched.place, ∀ q ∈ (t.ctx c).sched.place, p.1 = q.1 → p.2.2 = q.2.2 → p = q) ∧
    (∀ j, j ≠ c → t.ctx j = s.ctx j) ∧ (t.ctx c).descs = (s.ctx c).descs ∧ t.mem = s.mem ∧ t.tiles = s.tiles) ∧
  (∀ (s : State) (c : Nat), s.mayPreempt c = true → (s.ctx c).descs = [] → ∃ t : State, exec (.contextPreempt c) s = .next t ∧
    s.onlyCtx t c ∧ (t.ctx c).sched = { (s.ctx c).sched with
      saving := true, preemptCnt := satInc (s.ctx c).sched.preemptCnt,
      slotOver := false,
      images := (s.ctx c).sched.images ++ (s.ctx c).sched.place.map (fun p => (p.1, p.2.1)) } ∧ (t.ctx c).seats = (s.ctx c).seats) ∧
  (∀ (s : State) (c : Nat), (s.ctx c).sched.saving = true → (∀ p ∈ (s.ctx c).sched.place, (s.ctx c).atBoundary p.1 p.2.1 = true) → ∃ u t : State, exec (.contextSaveComplete c) s = .next t ∧
    s.onlyCtx u c ∧ u.onlyOrder t ∧ (u.ctx c).st = .paused ∧ (u.ctx c).sched.placed = false ∧ (u.ctx c).sched.place = []
      ∧ (u.ctx c).sched.images = (s.ctx c).sched.images ∧ (u.ctx c).seats = (s.ctx c).seats) ∧
  (∀ (s : State) (c : Nat), (s.ctx c).sched.restoring = true → (s.ctx c).descs = [] → ∃ u t : State,
    exec (.contextRestoreComplete c) s = .next t ∧ s.onlyCtx u c ∧ u.onlyOrder t ∧ (u.ctx c).st = .run ∧ (u.ctx c).sched.restoring = false ∧
      (u.ctx c).sched.images = (s.ctx c).sched.images.filter (s.ctx c).sched.lost.contains ∧ (u.ctx c).sched.jobs = 0 ∧
      (∀ k q, q < 16 → ((u.ctx c).seat k q).sp = (if (k, q) ∈ (s.ctx c).sched.images then ((s.ctx c).seat k q).sp else []))) ∧
  (∀ (s : State) (c : Nat), (s.ctx c).sched.placed = true → (s.ctx c).hasWork = false →
    exec (.idleLimitExpiry c) s = .next (s.modCtx c (fun x => { x with sched := { x.sched with idleHit := true } }))) ∧
  (∀ (s : State) (c : Nat), (s.ctx c).sched.placed = true → s.sched.holdLimit ≠ 0 →
    exec (.holdLimitExpiry c) s = .next (s.modCtx c (fun x => { x with sched := { x.sched with holdHit := true } })))

/-- A write of HST_RING_SEAT naming a tile of the mask and a seat of the context that is not lost binds a disabled ring, and any other sets
CFG_VIOL. On a part with the cyclic table: a COMMIT that no condition of R377 refuses keeps the shadow, PERIOD and LEAD as checked and
reads COMMIT_PEND; one with PERIOD outside 1,000 to 100,000 µs or LEAD under 720 µs sets ERR with code 1, and in general the first
failing condition's number is the code and the live table stays; TRIM is held for the next period. A period start makes a checked shadow
live (without one the live table stays), counts the period at PERIOD × 1,800 cycles plus TRIM, clears TRIM, and, where the table
changes, sets CYCLIC on exactly the contexts that the live table names; apart from the order of waiting nothing else changes. That a
refused COMMIT leaves what an earlier one has checked, and COMMIT_PEND, as they are is the model's choice (log entry 85). (R370, R376,
R377, R378) -/
def Obligations.RingSeatAndCyclicTable : Prop :=
  (∀ (s : State) (c k : Nat) (v : DWord), (s.ctx c).st ≠ .empty → k < (s.ctx c).sched.rings.toNat →
    (((s.ctx c).ring k).enable = false ∧ (s.ctx c).sched.tileMask.getLsbD (fld v 0 4) = true ∧ fld v 4 4 < (s.ctx c).sched.seats.toNat →
        (fld v 0 4, fld v 4 4) ∉ (s.ctx c).sched.lost →
      exec (.ringSeatWrite c k v) s = .next (s.modRing c k (fun r =>
        { r with tile := BitVec.ofNat 4 (fld v 0 4), seat := BitVec.ofNat 4 (fld v 4 4) }))) ∧
    (((s.ctx c).ring k).enable = true ∨ (s.ctx c).sched.tileMask.getLsbD (fld v 0 4) = false ∨ (s.ctx c).sched.seats.toNat ≤ fld v 4 4 ∨
        (fld v 0 4, fld v 4 4) ∈ (s.ctx c).sched.lost →
      exec (.ringSeatWrite c k v) s = .next (s.modRing c k (fun r =>
        { r with cfgViol := true, cfgViolCnt := satInc r.cfgViolCnt })))) ∧
  (∀ (s : State), s.blu.variant ≠ .ms08 →
    (s.cycError = 0 → exec .cyclicCommit s = .next { s with sched := { s.sched with cyc := { s.sched.cyc with
      checked := some (s.sched.cyc.shadow, s.sched.cyc.periodUs, s.sched.cyc.leadUs), commitPend := true } } }) ∧
    (s.cycError ≠ 0 → exec .cyclicCommit s = .next { s with sched := { s.sched with cyc := { s.sched.cyc with
      err := true, errCode := BitVec.ofNat 4 s.cycError } } }) ∧
    (s.sched.cyc.periodUs.toNat < 1000 ∨ 100000 < s.sched.cyc.periodUs.toNat ∨ s.sched.cyc.leadUs.toNat < 720 → s.cycError = 1) ∧
    (∀ trim, exec (.cyclicTrim trim) s = .next { s with sched := { s.sched with cyc := { s.sched.cyc with trim := trim } } }) ∧
    (s.sched.cyc.en = true → ∀ sh p l, s.sched.cyc.checked = some (sh, p, l) → ∃ u t : State, exec .cyclicPeriodStart s = .next t ∧
      u.onlyOrder t ∧ t.sched.cyc.live = sh ∧ t.sched.cyc.livePeriod = p ∧ t.sched.cyc.liveLead = l ∧ t.sched.cyc.commitPend = false ∧ t.sched.cyc.trim = 0 ∧
      (t.sched.cyc.periodCycles : Int) = max 0 ((p.toNat * 1800 : Nat) + s.sched.cyc.trim.toInt) ∧
      t.sched.cyc.periodCnt = s.sched.cyc.periodCnt + 1 ∧
      (∀ c, (u.ctx c).cyclic = sh.any (fun e => e.2.valid && e.2.context.toNat == c)) ∧
      (∀ c, u.ctx c = { s.ctx c with cyclic := (u.ctx c).cyclic }) ∧ u = { s with ctxs := u.ctxs, sched := { s.sched with cyc := u.sched.cyc } }) ∧
    (s.sched.cyc.en = true → s.sched.cyc.checked = none → ∃ t : State, exec .cyclicPeriodStart s = .next t ∧
      t.sched.cyc = { s.sched.cyc with
        trim := 0, periodCnt := s.sched.cyc.periodCnt + 1
        periodCycles := (max 0 ((s.sched.cyc.livePeriod.toNat * 1800 : Nat) + s.sched.cyc.trim.toInt)).toNat } ∧
      t.mem = s.mem ∧ ∀ c, (t.ctx c).st = (s.ctx c).st ∧ (t.ctx c).descs = (s.ctx c).descs ∧ (t.ctx c).rings = (s.ctx c).rings))

/-- For a valid slot n of the live table while EN is set. At the lead, with no context placed and the slot's context able to take its slot
(PAUSED and not SUSPENDED, or BOUND with a START accepted), with at least one seat and a free core for each of its seats, the slot is
open and its context is placed and restoring. At the start the slot has started, and LATE is set and counted exactly when a context that
can take the slot is not placed and ready. At the end of a slot that no slot of the same context and tiles follows, with its context in
RUN, placed, neither saving nor restoring, and a free image slot for each seat: with no admitted work its save begins and OVERRUN stays;
the slot is neither open nor started any more. Model's choices (log entry 72): which contexts can take a slot, and that at a slot's end
the save waits for a restore and for free image slots. (R378, R379) -/
def Obligations.CyclicSlots : Prop :=
  (∀ (s : State) (n : Nat) (k : CycSlot), s.liveSlot n = some k → (∀ c, (s.ctx c).sched.placed = false) →
    (s.ctx k.context.toNat).slotMay = true → (s.ctx k.context.toNat).sched.saving = false →
    (∃ t ∈ tilesOf (s.ctx k.context.toNat).sched.tileMask.toNat, 0 < s.need k.context.toNat t) →
    (∀ t ∈ tilesOf (s.ctx k.context.toNat).sched.tileMask.toNat, s.need k.context.toNat t ≤ (s.freeCores t).length) →
    s.lostSeats k.context.toNat = [] →
    ∃ t : State, exec (.cyclicSlotLead n) s = .next t ∧ n ∈ t.sched.cyc.open_ ∧ (t.ctx k.context.toNat).sched.placed = true
      ∧ (t.ctx k.context.toNat).sched.restoring = true ∧ t.sched.cyc.live = s.sched.cyc.live) ∧
  (∀ (s : State) (n : Nat) (k : CycSlot), s.liveSlot n = some k → ∃ t : State, exec (.cyclicSlotStart n) s = .next t ∧
    n ∈ t.sched.cyc.started ∧ t = { s with sched := { s.sched with cyc := t.sched.cyc } } ∧
    (let x := s.ctx k.context.toNat
     if x.slotMay && !(x.sched.placed && !x.sched.restoring && !x.sched.saving)
      then t.sched.cyc.late = true ∧ t.sched.cyc.lateCnt = satInc s.sched.cyc.lateCnt
      else t.sched.cyc.late = s.sched.cyc.late ∧ t.sched.cyc.lateCnt = s.sched.cyc.lateCnt)) ∧
  (∀ (s : State) (n : Nat) (k : CycSlot), s.liveSlot n = some k → s.slotFollows k = false →
    (s.ctx k.context.toNat).sched.placed = true → (s.ctx k.context.toNat).st = .run → (s.ctx k.context.toNat).sched.saving = false →
    (s.ctx k.context.toNat).sched.restoring = false → s.slotsFree k.context.toNat = true → (s.ctx k.context.toNat).descs = [] →
    ∃ t : State, exec (.cyclicSlotEnd n) s = .next t ∧ n ∉ t.sched.cyc.open_ ∧ n ∉ t.sched.cyc.started ∧
      t.sched.cyc.overrun = s.sched.cyc.overrun ∧ (t.ctx k.context.toNat).sched.saving = true ∧
      (t.ctx k.context.toNat).sched.images = (s.ctx k.context.toNat).sched.images
        ++ (s.ctx k.context.toNat).sched.place.map (fun p => (p.1, p.2.1)) ∧
      (∀ j, j ≠ k.context.toNat → t.ctx j = s.ctx j) ∧ t.mem = s.mem)

/-- A legal MODEL_LOAD of 0 bytes ends with 0x01; one whose model is RESIDENT for its domain becomes a holder and ends with HIT; on a miss
with a slot to take and no earlier load of the same model waiting, the slot is LOADING with the descriptor's MODEL_ID, BYTES, SHARE and
its domain as owner, and the descriptor goes on; commanded again, a copy whose reads all pass leaves the slot RESIDENT and held and ends
with the slot in RESULT. MODEL_EVICT by a holder ends its hold, and with DISCARD an unheld, unpinned slot becomes EMPTY. MODEL_PIN by a
holder of its own domain's slot below PIN_MAX sets PIN; MODEL_UNPIN of a pinned slot of the domain clears it. Every completion of a load
or evict counts the use counter; with 0x00 the slot that RESULT names takes its value as stamp, and with another status a slot that the
load was filling is EMPTY. (R382, R383, R384, R385, R386) -/
def Obligations.ModelCache : Prop :=
  (∀ (s : State) (ref : DescRef) (d : Desc) (i : Nat), s.issues ref 0xA00 d → d.st = .waiting →
    (d.word 1).toNat % 64 = 0 → (d.word 2).toNat % 64 = 0 → d.word 3 ≠ 0 → (d.word 4).toNat < 2 →
    (∀ j ∈ [5, 6, 7], d.word j = 0) → (s.dom (s.ctxDom ref.ctx)).modelOk = true →
    (bit (d.word 4) 0 = true → (s.dom (s.ctxDom ref.ctx)).shareOk = true) → (s.ctx ref.ctx).frozen = false → (s.ctx ref.ctx).cyclic = false →
    s.boot.stkGib ≠ 0 → (d.word 2).toNat ≤ s.modelCapacity →
    (d.word 2 = 0 → exec (.modelLoad ref) s = .next ((s.begun ref d).ended ref 0x01 0)) ∧
    (d.word 2 ≠ 0 → s.modelMatch ref.ctx (d.word 3) (d.word 2).toNat = some i → (s.model i).state = .resident →
      exec (.modelLoad ref) s = .next (((s.begun ref d).modModel i (fun m => m.hold ref.ctx)).ended ref 0x00 (BitVec.ofNat 64 (i + 8)))) ∧
    (d.word 2 ≠ 0 → s.modelMatch ref.ctx (d.word 3) (d.word 2).toNat = none → (s.begun ref d).modelAhead d = false → s.modelVictim = some i →
      exec (.modelLoad ref) s = .next ((s.begun ref d).modModel i (fun _ => { ModelSlot.reset with
        state := .loading, share := bit (d.word 4) 0, owner := (s.ctx ref.ctx).sched.domain, bytes := BitVec.ofNat 46 (d.word 2).toNat,
        id := d.word 3, loader := some (ref.ctx, ref.ring, ref.index) })))) ∧
  (∀ (s s1 : State) (ref : DescRef) (d : Desc) (i : Nat), s.runs ref 0xA00 d → i < 8 →
    (List.range 8).find? (fun j => (s.model j).loader == some (ref.ctx, ref.ring, ref.index)) = some i →
    (do let bs ← rdVa (d.who ref.ctx) (d.word 1).toNat (d.word 2).toNat; wrPa (d.who ref.ctx) (modelView i) bs : Act Unit) s.tick
      = .ok () s1 →
    exec (.modelLoad ref) s = .next ((s1.modModel i (fun m =>
      ({ m with state := .resident, loader := none } : ModelSlot).hold ref.ctx)).ended ref 0x00 (BitVec.ofNat 64 i))) ∧
  (∀ (s : State) (ref : DescRef) (d : Desc) (i : Nat), s.issues ref 0xA01 d → (d.word 2).toNat < 2 → (∀ j ∈ [3, 4, 5, 6, 7], d.word j = 0) →
    (s.ctx ref.ctx).frozen = false → (s.ctx ref.ctx).cyclic = false → s.modelNamed ref.ctx (d.word 1) = some i →
    (s.model i).holders.contains ref.ctx = true →
    exec (.modelEvict ref) s = .next (((s.begun ref d).modModel i (fun m =>
        let left := m.holders.filter (· != ref.ctx)
        if bit (d.word 2) 0 = true ∧ left = [] ∧ m.pin = false then ModelSlot.reset
        else { m with holders := left })).ended ref 0x00 (BitVec.ofNat 64 i))) ∧
  (∀ (s : State) (c : Nat) (d : Desc), d.opcode = 0xA00 ∨ d.opcode = 0xA01 →
    (let z := s.endModel c d
     let i := fld d.result 0 3
     z = { s with modelUse := s.modelUse + 1, models := z.models } ∧
     (d.status = 0 → (s.model i).state ≠ .empty → (s.model i).loader = none → (s.model i).id = (if d.opcode = 0xA00 then d.word 3 else d.word 1) →
       z.model i = { s.model i with stamp := s.modelUse + 1 }) ∧
     (∀ j, (s.model j).loader = some (c, d.ring, d.index) → d.status ≠ 0 → z.model j = ModelSlot.reset))) ∧
  (∀ (s : State) (ref : DescRef) (d : Desc) (i : Nat), (∀ j ∈ [2, 3, 4, 5, 6, 7], d.word j = 0) →
    (s.ctx ref.ctx).frozen = false → (s.ctx ref.ctx).cyclic = false → s.modelNamed ref.ctx (d.word 1) = some i →
    (s.model i).owner = (s.ctx ref.ctx).sched.domain →
    (s.issues ref 0xA02 d → (s.model i).holders.contains ref.ctx = true →
      s.pins_ (s.ctx ref.ctx).sched.domain < (s.dom (s.ctx ref.ctx).sched.domain.toNat).pinMax.toNat →
      exec (.modelPin ref) s = .next (((s.begun ref d).modModel i (fun m => { m with pin := true })).ended ref 0x00 (BitVec.ofNat 64 i))) ∧
    (s.issues ref 0xA03 d → (s.model i).pin = true →
      exec (.modelUnpin ref) s = .next (((s.begun ref d).modModel i (fun m => { m with pin := false })).ended ref 0x00 (BitVec.ofNat 64 i))))

/-- A MATMUL that passes every item of R97 and the check of its plan (a chain it names is loaded) and issues outside FROZEN: with a run-time
dimension of 0 it ends with 0x01 and RESULT 0; with M, N and K above 0, no row to be held whole beyond the 64 KiB of the chain buffer,
and its operands read, it goes on executing with its passes, in order, and the RESULT of R101 kept for its end. With immediate
dimensions, no chain and a scratchpad without uncorrectable words its operands can always be read: the issue then changes the
descriptor's progress and the ring's armed snapshot, and no scratchpad byte. PASS_CLEAN on the oldest pass of its core, the array
working, with no snapshot due and not standing at a checkpoint of it, in such a scratchpad: the pass's rows are stored in the seat in
drain order, the roots have gone through the PEs' shadow registers, and nothing else changes (no other seat, ring or descriptor of the
context); after the last pass the descriptor ends with 0x00 and that RESULT (0x30 where an array fault has abandoned a later pass of
it), and before it the other passes stay queued. (R96, R97, R100, R101, R105, R108, R489) -/
def Obligations.MatmulPassesAndCommit : Prop :=
  (∀ (s : State) (ref : DescRef) (d : Desc), s.issues ref 0x100 d → (s.ctx ref.ctx).frozen = false →
    firstFail (d.matmul.checks d ((s.ctx ref.ctx).judged d.muse)) = none → firstFail ((s.ctx ref.ctx).planCheck d.muse) = none →
    (let m := d.matmul
     let tq := s.ringSeat ref.ctx d.ring
     let narrowed := s.narrowedSeat ref.ctx tq.1 tq.2
     let csky := ((s.ctx ref.ctx).ring d.ring).csky
     let ch := if m.chainEn then (s.ctx ref.ctx).chain m.slot else none
     let u := (s.begun ref d).modRing ref.ctx d.ring (fun r => { r with csky := none })
     (m.chainEn = true → ch.isSome) →
     (∀ v, runDims (d.who ref.ctx) d.muse u = .ok none v → exec (.matmul ref) s = .next (v.ended ref 0x01 0)) ∧
     (∀ mm nn kk v w passes fl, runDims (d.who ref.ctx) d.muse u = .ok (some [mm, nn, kk]) v →
       (rowHeld ((ch.map (·.stages)).getD []) = false ∨ (passRanges m.shape nn narrowed).length ≤ 1 ∨
         (shapeOf m.shape).maxM * ((passRanges m.shape nn narrowed).getLastD (0, 0)).1 * 4 ≤ 65536) → m.compute (d.who ref.ctx) tq.1 tq.2 ch narrowed mm nn kk csky v = .ok (passes, fl) w →
       exec (.matmul ref) s = .next (w.setProg ref.ctx ref.ring ref.index
         (.matmul tq.1 tq.2 w.free passes (csky.map (fun k => (k.1.toNat, k.2.1)))
           (m.result mm (passRanges m.shape nn narrowed).length fl) none))))) ∧
  (∀ (s : State) (ref : DescRef) (d : Desc), s.issues ref 0x100 d → (s.ctx ref.ctx).frozen = false → d.matmul.chainEn = false →
    fld (d.word 3) 40 12 = 0xFFF → fld (d.word 3) 52 2 = 0 → firstFail (d.matmul.checks d ((s.ctx ref.ctx).judged d.muse)) = none →
    (let m := d.matmul
     let mm := fld (d.word 3) 0 9
     let nn := fld (d.word 3) 9 9
     let kk := fld (d.word 3) 18 22
     let tq := s.ringSeat ref.ctx d.ring
     let narrowed := s.narrowedSeat ref.ctx tq.1 tq.2
     let csky := ((s.ctx ref.ctx).ring d.ring).csky
     let u := (s.begun ref d).modRing ref.ctx d.ring (fun r => { r with csky := none })
     (mm = 0 ∨ nn = 0 ∨ kk = 0 → exec (.matmul ref) s = .next (u.ended ref 0x01 0)) ∧
     (mm ≠ 0 → nn ≠ 0 → kk ≠ 0 → ((s.ctx ref.ctx).seat tq.1 tq.2).bad = [] → ∃ (passes : List Pass) (fl : NumFlags),
       m.compute (d.who ref.ctx) tq.1 tq.2 none narrowed mm nn kk csky u = .ok (passes, fl) u ∧
       passes.length = (passRanges m.shape nn narrowed).length ∧
       exec (.matmul ref) s = .next (u.setProg ref.ctx ref.ring ref.index
         (.matmul tq.1 tq.2 u.free passes (csky.map (fun k => (k.1.toNat, k.2.1)))
           (m.result mm (passRanges m.shape nn narrowed).length fl) none))))) ∧
  (∀ (s : State) (ref : DescRef) (d : Desc) (t q st : Nat) (p : Pass) (rest : List Pass) (cs : Option (Nat × Nat)) (res : DWord)
    (f : Option DWord), s.arrayWorks ref d → d.prog = .matmul t q st (p :: rest) cs res f → (s.ctx ref.ctx).oldestPass t q st = true → p.snaps = [] →
    ((s.ctx ref.ctx).seat t q).stands = false → ((s.ctx ref.ctx).seat t q).bad = [] →
    ∃ v : State, exec (.passClean ref) s = .next v ∧
      (v.ctx ref.ctx).seat t q = ((p.writes.foldl (fun k e => k.store e.1 e.2) ((s.ctx ref.ctx).seat t q)).finalise p
        (if d.matmul.seg = 0 then none else some d.matmul.seg)).oneReleased ∧
      v = { s with free := s.free + 1, ctxs := v.ctxs } ∧ (∀ j, j ≠ ref.ctx → v.ctx j = s.ctx j) ∧
      (s.ctx ref.ctx).onlySeatDesc (v.ctx ref.ctx) t q ref.ring ref.index ∧
      v.desc ref = some (if rest = [] then { d with st := .done, status := if f = none then 0x00 else 0x30, result := f.getD res, prog := .none }
        else { d with prog := .matmul t q st rest cs res f }))

/-- An array fault on a seat on which one pass of a MATMUL, or a work tile, is outstanding ends that descriptor with 0x30 and the fault's
KIND, tile, seat, pass, row and column in RESULT; the core's FAULT_CNT counts and the core is held, the tile's ARRAY flag is set and
counted, and no scratchpad byte, no byte of memory and no other seat, ring or descriptor of the context changes. Of several outstanding
passes some one (a free value, log entry 71) and the later ones are abandoned; the descriptor goes on with the earlier ones, or ends
with 0x30 if there are none. A check that fails in the commit queue after some rows of the oldest pass were released leaves those in the
scratchpad and ends the descriptor with 0x31, SOURCE 6 and the line of the next row. CHECKPOINT on a seat being saved under a running
pass or work tile holds the array at that multiple of 128 feed lines, or at the end of the pass's feed, and changes no scratchpad byte.
CSKY_ARM with an aligned buffer in a DEBUG context keeps the buffer, row group, interval and count for the ring's next MATMUL and ends
with 0x00; without DEBUG it ends with 0x21 and RESULT 0. A snapshot whose write passes is taken off the pass and the buffer goes on
behind it. (R114, R115, R118, R119, R120, R453, R454) -/
def Obligations.ArrayFaultsAndClearSky : Prop :=
  (∀ (s : State) (ref : DescRef) (d : Desc) (t q kind row col pass n : Nat), s.desc ref = some d → d.st = .executing →
    s.arrayPasses ref.ctx d t q = [pass] → (s.ctx ref.ctx).coreOf t q = some n → ((s.tile t).core n).held = false →
    kind < 16 → kind ≠ 5 → t < 16 → q < 16 → pass < 256 → row < 256 → col < 128 →
    ∃ v : State, exec (.arrayFault ref t q kind row col) s = .next v ∧
      v.desc ref = some { d with
        st := .done, status := 0x30, prog := .none,
        result := BitVec.ofNat 64 (kind + t * 2 ^ 4 + q * 2 ^ 8 + pass * 2 ^ 12 + row * 2 ^ 20 + col * 2 ^ 28 + s.logIndex * 2 ^ 54) } ∧
      (v.tile t).array = true ∧ (v.tile t).arrayCnt = satInc (s.tile t).arrayCnt ∧ ((v.tile t).core n).held = true ∧
      ((v.tile t).core n).faultCnt = satInc ((s.tile t).core n).faultCnt ∧ (v.tile t).pool = (s.tile t).pool ∧
      (∀ j, j ≠ t → v.tile j = s.tile j) ∧ (∀ j, j ≠ ref.ctx → v.ctx j = s.ctx j) ∧
      (v.ctx ref.ctx).seat t q = { (s.ctx ref.ctx).seat t q with pes := [], held := none } ∧ v.mem = s.mem ∧ v.outs = s.outs ∧
      (s.ctx ref.ctx).onlySeatDesc (v.ctx ref.ctx) t q ref.ring ref.index) ∧
  (∀ (s : State) (ref : DescRef) (d : Desc) (t q kind row col st : Nat) (ps : List Pass) (cs : Option (Nat × Nat)) (res : DWord)
    (f : Option DWord), s.desc ref = some d → d.st = .executing → d.prog = .matmul t q st ps cs res f → ps ≠ [] → kind ≠ 5 →
    ∃ v k e, exec (.arrayFault ref t q kind row col) s = .next v ∧ k < ps.length ∧ v.desc ref = some e ∧ v.mem = s.mem ∧
      (v.tile t).arrayCnt = satInc (s.tile t).arrayCnt ∧ ((v.ctx ref.ctx).seat t q).sp = ((s.ctx ref.ctx).seat t q).sp ∧
      (s.ctx ref.ctx).onlySeatDesc (v.ctx ref.ctx) t q ref.ring ref.index ∧
      (if k = 0 then e.st = .done ∧ e.status = 0x30
       else ∃ r, e = { d with prog := .matmul t q st (ps.take k) cs res (some r) })) ∧
  (∀ (s s1 : State) (ref : DescRef) (d : Desc) (t q st row col : Nat) (p : Pass) (rest : List Pass) (cs : Option (Nat × Nat)) (res : DWord)
    (f : Option DWord), s.arrayWorks ref d → d.prog = .matmul t q st (p :: rest) cs res f → (s.ctx ref.ctx).oldestPass t q st = true →
    p.snaps = [] → ((s.ctx ref.ctx).seat t q).stands = false → row < p.writes.length → t < 16 → q < 16 →
    (p.writes.take row).forM (fun e => wrSeat (d.who ref.ctx) t q e.1 e.2) s.tick = .ok () s1 →
    ∃ v e, exec (.arrayFault ref t q 5 row col) s = .next v ∧ v.desc ref = some e ∧ e.st = .done ∧ e.status = 0x31 ∧
      fld e.result 0 4 = 6 ∧ fld e.result 4 4 = t ∧ fld e.result 8 4 = q ∧ fld e.result 12 42 = (p.writes.getD row (0, [])).1 / 64 % 2 ^ 42 ∧
      (v.ctx ref.ctx).seat t q = (s1.ctx ref.ctx).seat t q ∧ (v.tile t).ueCnt = satInc (s.tile t).ueCnt ∧ v.mem = s.mem ∧
      (s.ctx ref.ctx).onlySeatDesc (v.ctx ref.ctx) t q ref.ring ref.index) ∧
  (∀ (s : State) (c t q cp : Nat), (s.ctx c).sched.saving = true → s.arrayRuns c t q = true → ((s.ctx c).seat t q).held = none →
    ((s.ctx c).arrayQueue t q = [] → ∃ v line, exec (.arrayCheckpointReached c t q cp) s = .next v ∧
      ((v.ctx c).seat t q).held = some (line, 0) ∧ line ≤ 128 * cp ∧
      v = { (s.modSeat c t q (fun k => { k with held := some (line, 0), pes := ((v.ctx c).seat t q).pes })) with free := v.free }) ∧
    ((s.ctx c).arrayQueue t q ≠ [] → ∃ v k d p, exec (.arrayCheckpointReached c t q cp) s = .next v ∧
      ((s.ctx c).arrayQueue t q)[k]? = some (d, p) ∧ ((v.ctx c).seat t q).held = some (min (128 * cp) (d.matmul.aLines p.steps), k) ∧
      ((v.ctx c).seat t q).sp = ((s.ctx c).seat t q).sp ∧ v.mem = s.mem ∧ v.ctx c = { s.ctx c with seats := (v.ctx c).seats } ∧
      (∀ a b, 16 * a + b ≠ 16 * t + q → (v.ctx c).seat a b = (s.ctx c).seat a b))) ∧
  (∀ (s : State) (ref : DescRef) (d : Desc), s.issues ref 0xF00 d → (d.word 1).toNat % 64 = 0 → fld (d.word 2) 8 8 ≠ 0 →
    fld (d.word 2) 16 48 = 0 → (∀ j ∈ [3, 4, 5, 6, 7], d.word j = 0) →
    ((s.ctx ref.ctx).cfg.debug = true → exec (.cskyArm ref) s = .next (((s.begun ref d).modRing ref.ctx d.ring (fun r =>
      { r with csky := some (d.word 1, fld (d.word 2) 0 5, fld (d.word 2) 5 3, fld (d.word 2) 8 8) })).ended ref 0x00 0)) ∧
    ((s.ctx ref.ctx).cfg.debug = false → exec (.cskyArm ref) s = .next ((s.begun ref d).ended ref 0x21 0))) ∧
  (∀ (s s1 : State) (ref : DescRef) (d : Desc) (t q st va group : Nat) (p : Pass) (rest : List Pass) (res : DWord)
    (sn : Nat × Bool × Nat) (more : List (Nat × Bool × Nat)) (f : Option DWord), s.arrayWorks ref d →
    d.prog = .matmul t q st (p :: rest) (some (va, group)) res f → p.snaps = sn :: more →
    (let r := (passRanges d.matmul.shape 256 (s.narrowedSeat ref.ctx t q)).getD p.num (0, 128)
     let bs := snapBytes d.seq d.ring t group (r.2 - r.1) p sn
     wrVa (d.who ref.ctx) va bs s.tick = .ok () s1 → exec (.cskySnapshot ref) s = .next (s1.setProg ref.ctx ref.ring ref.index
       (.matmul t q st ({ p with snaps := more } :: rest) (some (va + bs.length, group)) res f))))

/-- A VSTREAM that issues outside FROZEN with an inline stage or a loaded chain, no failing item of R124 and a plan, if it names one, of its
kind: with a dimension of 0 it ends with 0x01 and writes nothing, with one above its plan's with 0x13; else its rows run in order, row
(i1, i2) before (i1 + 1, i2), and it ends with 0x00, the count of elements written and the flags met; a row that fails ends it with that
status and keeps the rows before. The dimensions are the immediates, or with a plan and a bound slot those that BSEL takes from the
slot; the first above the plan's maximum gives 0x13 naming it. CHAIN_LOAD of a readable record that R128 accepts puts it in the slot
(empties the slot at zero stages), takes every cached copy of that slot away and ends with the stage count and the slot; a record that
it refuses ends with 0x10 naming the record's field and changes no slot. A fill that a waiting descriptor needs enters the core's cache,
which holds at most eight records. (R123, R124, R127, R128, R135, R489) -/
def Obligations.VectorStreamsAndChains : Prop :=
  (∀ (s : State) (ref : DescRef) (d : Desc) (ch : Chain), s.issues ref 0x200 d → (s.ctx ref.ctx).frozen = false →
    (if d.vstream.chainEn then (s.ctx ref.ctx).chain d.vstream.slot = some ch else ch = ⟨0, [d.word 7], d.vstream.consts⟩) →
    firstFail (d.vstream.checks d ch.stages ((s.ctx ref.ctx).judged d.vuse)) = none → firstFail ((s.ctx ref.ctx).planCheck d.vuse) = none →
    (let w := d.who ref.ctx
     let b := s.begun ref d
     (∀ v, runDims w d.vuse b = .ok none v → exec (.vstream ref) s = .next (v.ended ref 0x01 0)) ∧
     (∀ st v, runDims w d.vuse b = .error st v → exec (.vstream ref) s = .next (v.ended ref st.status st.result)) ∧
     (∀ d0 d1 d2 u, runDims w d.vuse b = .ok (some [d0, d1, d2]) u →
       (let tq := u.ringSeat ref.ctx d.ring
        let rows := ((List.range d2).map (fun i2 => (List.range d1).map (fun i1 => (i1, i2)))).flatten
        let all : Act (Nat × NumFlags) := rows.foldlM (fun (a : Nat × NumFlags) p => do
          let r ← d.vstream.row w tq.1 tq.2 ch d0 d1 p.1 p.2
          pure (a.1 + r.1, a.2 ||| r.2)) (0, 0)
        (∀ n fl v, all u = .ok (n, fl) v →
          exec (.vstream ref) s = .next (v.ended ref 0x00 (at_ (n % 2 ^ 48) 0 ||| nfResult fl))) ∧
        (∀ st v, all u = .error st v → exec (.vstream ref) s = .next (v.ended ref st.status st.result)))))) ∧
  (∀ (s : State) (w : Who) (u : PlanUse), u.imm.length = 3 →
    (u.plan = 0xFFF → runDims w u s = .ok (if 0 ∈ u.imm then none else some u.imm) s) ∧
    (∀ p, u.plan ≠ 0xFFF → (s.ctx w.ctx).plan u.plan = some p → u.bound = false ∨ p.bsrc = 0 →
      (let bound := tget (0, 0, 0) (s.ctx w.ctx).bounds p.bslot
       let dim (i : Nat) : Nat := if u.bound && p.bsel i then [bound.1.toNat, bound.2.1.toNat, bound.2.2.toNat].getD i 0 else u.imm.getD i 0
       ((∃ i < 3, dim i = 0) → runDims w u s = .ok none s) ∧
       ((∀ i < 3, dim i ≠ 0 ∧ dim i ≤ p.max i) → runDims w u s = .ok (some [dim 0, dim 1, dim 2]) s) ∧
       (∀ i < 3, (∀ j < 3, dim j ≠ 0) → (∀ j < i, dim j ≤ p.max j) → p.max i < dim i →
         runDims w u s = .error ⟨0x13, at_ i 0 ||| at_ (if u.bound && p.bsel i then 1 else 0) 2 ||| at_ u.plan 4 ||| at_ (dim i % 2 ^ 32) 16⟩ s)))) ∧
  (∀ (s s1 : State) (ref : DescRef) (d : Desc) (bs : List Byte), s.issues ref 0x201 d → (d.word 1).toNat % 64 = 0 →
    (d.word 2).toNat < 64 → (∀ j ∈ [3, 4, 5, 6, 7], d.word j = 0) →
    rdVa (d.who ref.ctx) (d.word 1).toNat 128 (s.begun ref d) = .ok bs s1 →
    (let ws := bytesWords 16 bs
     let slot := (d.word 2).toNat
     (chainBad ws = none → (s1.ctx ref.ctx).frozen = false → ∃ v : State, exec (.chainLoad ref) s = .next v ∧
       (v.ctx ref.ctx).chain slot = (if fld (wrd ws 0) 0 4 = 0 then none else some (chainOf ws)) ∧
       (∀ j, j ≠ slot → (v.ctx ref.ctx).chain j = (s1.ctx ref.ctx).chain j) ∧
       (∀ t q, ((v.ctx ref.ctx).seat t q).chainCache.contains slot = false) ∧
       (∃ e, v.desc ref = some e ∧ e.st = .done ∧ e.status = 0x00 ∧
         e.result = BitVec.ofNat 64 (fld (wrd ws 0) 0 4 + slot * 2 ^ 4)) ∧ v.mem = s1.mem ∧ (∀ j, j ≠ ref.ctx → v.ctx j = s1.ctx j)) ∧
     (∀ w b, chainBad ws = some (w, b) → exec (.chainLoad ref) s = .next (s1.ended ref 0x10
       (at_ w 0 ||| at_ b 4 ||| at_ 9 10 ||| at_ 1 16))))) ∧
  (∀ (s : State) (c t q slot : Nat), s.awaitsChain c t q slot = true → ((s.ctx c).seat t q).chainCache.length ≤ 8 →
    ∃ v : State, exec (.chainCacheFill c t q slot) s = .next v ∧ ((v.ctx c).seat t q).chainCache.contains slot = true ∧
      ((v.ctx c).seat t q).chainCache.length ≤ 8 ∧ s.onlyCtx v c ∧
      v.ctx c = { s.ctx c with seats := (v.ctx c).seats } ∧ ((v.ctx c).seat t q).sp = ((s.ctx c).seat t q).sp)

/-- PLAN_LOAD of a readable record that R143 accepts puts it in the named plan (empties the plan at KIND 0) and ends with 0x00 and the plan
in RESULT; one that it refuses ends with 0x10 naming the record's field and changes no plan. BOUND_SET writes the three dimensions of
its slot and nothing else. WC_SET of a counter that the context holds and no descriptor uses, with STEP above 0, sets NEXT, LIMIT and
STEP and empties its redo list; of a busy counter it ends with 0x12, reason 0x0303, and leaves it. In FROZEN each, otherwise legal, ends
with 0x12 and the state byte and changes nothing. (R143, R144, R145, R147, R148, R149, R151, R152) -/
def Obligations.PlansBoundsAndCounters : Prop :=
  (∀ (s s1 : State) (ref : DescRef) (d : Desc) (bs : List Byte), s.issues ref 0x300 d → (d.word 1).toNat % 64 = 0 →
    (d.word 2).toNat < 0xFFF → (∀ j ∈ [3, 4, 5, 6, 7], d.word j = 0) →
    rdVa (d.who ref.ctx) (d.word 1).toNat 64 (s.begun ref d) = .ok bs s1 →
    (let ws := bytesWords 8 bs
     let plan := (d.word 2).toNat
     (planBad ws = none → (s1.ctx ref.ctx).frozen = false → ∃ v : State, exec (.planLoad ref) s = .next v ∧
       (v.ctx ref.ctx).plan plan = (if fld (wrd ws 0) 0 4 = 0 then none else some ⟨ws⟩) ∧
       (∀ j, j ≠ plan → (v.ctx ref.ctx).plan j = (s1.ctx ref.ctx).plan j) ∧
       (∃ e, v.desc ref = some e ∧ e.st = .done ∧ e.status = 0x00 ∧ e.result = BitVec.ofNat 64 plan) ∧
       v.mem = s1.mem ∧ (∀ j, j ≠ ref.ctx → v.ctx j = s1.ctx j)) ∧
     (planBad ws = none → (s1.ctx ref.ctx).frozen = true →
       exec (.planLoad ref) s = .next (s1.ended ref 0x12 (BitVec.ofNat 64 (s1.ctx ref.ctx).stateByte))) ∧
     (∀ w b, planBad ws = some (w, b) → exec (.planLoad ref) s = .next (s1.ended ref 0x10
       (at_ w 0 ||| at_ b 4 ||| at_ 9 10 ||| at_ 1 16))))) ∧
  (∀ (s : State) (ref : DescRef) (d : Desc), s.issues ref 0x301 d → fld (d.word 2) 38 26 = 0 → (∀ j ∈ [3, 4, 5, 6, 7], d.word j = 0) →
    ((s.ctx ref.ctx).frozen = false → exec (.boundSet ref) s = .next (((s.begun ref d).modCtx ref.ctx (fun x =>
      { x with bounds := tput x.bounds (fld (d.word 2) 32 6) (BitVec.ofNat 32 (fld (d.word 1) 0 32),
          BitVec.ofNat 32 (fld (d.word 1) 32 32), BitVec.ofNat 32 (fld (d.word 2) 0 32)) })).ended ref 0x00 0)) ∧
    ((s.ctx ref.ctx).frozen = true →
      exec (.boundSet ref) s = .next ((s.begun ref d).ended ref 0x12 (BitVec.ofNat 64 (s.ctx ref.ctx).stateByte)))) ∧
  (∀ (s : State) (ref : DescRef) (d : Desc), s.issues ref 0x302 d → fld (d.word 1) 16 48 = 0 → fld (d.word 3) 0 8 ≠ 0 →
    fld (d.word 3) 8 56 = 0 → (∀ j ∈ [4, 5, 6, 7], d.word j = 0) →
    (let x := s.ctx ref.ctx
     let t := fld (d.word 1) 0 4
     let n := fld (d.word 1) 4 12
     n < x.wcAllot t →
     (x.frozen = true → exec (.wcSet ref) s = .next ((s.begun ref d).ended ref 0x12 (BitVec.ofNat 64 x.stateByte))) ∧
     (x.frozen = false → ((s.tile t).counter (x.wcAt t n)).holder = none → exec (.wcSet ref) s = .next (((s.begun ref d).modTile t (fun k =>
       k.modCounter (x.wcAt t n) (fun _ => ⟨BitVec.ofNat 32 (fld (d.word 2) 0 32), BitVec.ofNat 32 (fld (d.word 2) 32 32),
         BitVec.ofNat 8 (fld (d.word 3) 0 8), [], none⟩))).ended ref 0x00 0)) ∧
     (x.frozen = false → ((s.tile t).counter (x.wcAt t n)).holder.isSome → exec (.wcSet ref) s = .next
       ((s.begun ref d).ended ref 0x12 (at_ x.stateByte 0 ||| at_ 0x0303 16)))))

/-- A TILED_GEMM with immediate dimensions above 0 that passes every item of R157 outside FROZEN, with its counters free, bitmap units left
on its home tile and a slice left on every tile of its mask: it goes on executing with MB × NB × S work tiles, every counter of its
tiles serves it from an empty redo list, every tile of the mask gives it a slice, and no byte of memory changes. A core that may ask for
a work tile gets the head of the redo list, else NEXT while NEXT < LIMIT (and NEXT advances by STEP, saturating), and holds it at its
leaf node; else the counter is unchanged and the core leaves the descriptor (EXHAUSTED). (R149, R150, R152, R154, R156, R157, R160,
R205) -/
def Obligations.TiledGemmAndCounterFetch : Prop :=
  (∀ (s : State) (ref : DescRef) (d : Desc), s.issues ref 0x303 d → d.prog = .none → fld (d.word 8) 48 12 = 0xFFF →
    fld (d.word 8) 60 2 = 0 → (s.ctx ref.ctx).frozen = false →
    firstFail (d.tiled.checks (s.ctx ref.ctx) d ((s.ctx ref.ctx).judged d.tuse)) = none → s.jobBusy ref.ctx d = false →
    (let mm := fld (d.word 8) 0 24
     let nn := fld (d.word 8) 24 24
     let kk := fld (d.word 9) 0 24
     mm ≠ 0 → nn ≠ 0 → kk ≠ 0 → s.unitsLack ref.ctx d (d.tiled.bits mm nn kk) = false → s.sliceLack d = [] →
     ∃ (v : State) (j : Job), exec (.tiledGemm ref) s = .next v ∧
       v.desc ref = some { d with st := .executing, issued := true, prog := .job j } ∧ j.started = true ∧ j.dims = [mm, nn, kk] ∧
       j.total = d.tiled.mb mm * d.tiled.nb nn * (d.tiled.splitOf kk).s ∧ j.run = 0 ∧ j.dups = 0 ∧ j.section_ = 0 ∧
       (∀ t ∈ d.jobTiles, ((v.tile t).counter ((s.ctx ref.ctx).wcAt t d.jobWc)).holder = some (ref.ctx, ref.ring, ref.index)
         ∧ ((v.tile t).counter ((s.ctx ref.ctx).wcAt t d.jobWc)).redo = []
         ∧ ((v.tile t).counter ((s.ctx ref.ctx).wcAt t d.jobWc)).step = 1) ∧
       (∀ t ∈ tilesOf d.jobMask, (v.tile t).slices = (s.tile t).slices ++ [(ref.ctx, ref.ring, ref.index)]) ∧
       v.mem = s.mem ∧ (∀ j, j ≠ ref.ctx → v.ctx j = s.ctx j))) ∧
  (∀ (s : State) (ref : DescRef) (d : Desc) (j : Job) (t q : Nat), s.desc ref = some d → d.running = some j →
    s.mayFetch ref.ctx d j t q = true →
    (let tc := if d.jobShared then d.jobHome else t
     let k := (s.ctx ref.ctx).wcAt tc d.jobWc
     let w := (s.tile tc).counter k
     ∃ v : State, exec (.workCounterFetch ref t q) s = .next v ∧ v.mem = s.mem ∧ (∀ i, i ≠ tc → v.tile i = s.tile i) ∧
       (∀ i, i ≠ k → (v.tile tc).counter i = (s.tile tc).counter i) ∧
       (∀ n r, w.redo = n :: r → (v.tile tc).counter k = { w with redo := r } ∧
         ((v.ctx ref.ctx).seat t q).work = some (ref.ring, ref.index, n, d.leafNode j n)) ∧
       (w.redo = [] → w.next.toNat < w.limit.toNat →
         (v.tile tc).counter k = { w with next := BitVec.ofNat 32 (min (w.next.toNat + w.step.toNat) 0xFFFFFFFF) } ∧
         ((v.ctx ref.ctx).seat t q).work = some (ref.ring, ref.index, w.next.toNat, d.leafNode j w.next.toNat)) ∧
       (w.redo = [] → w.limit.toNat ≤ w.next.toNat → (v.tile tc).counter k = w ∧ (v.ctx ref.ctx).seats = (s.ctx ref.ctx).seats ∧
         v.desc ref = some { d with prog := .job { j with left := j.left ++ [(t, q)] } })))

/-- A core at a node whose bit is set discards its work: the tile's duplicate count and the descriptor's go up, the core is free, no byte of
memory changes. A core whose work tile is a single node, once its computation has passed, sets the bit, counts the tile, is free, and
leaves its work area unspecified; when every root is marked the descriptor ends with 0x00 and its RESULT. When every work tile of a
section of 262,144 is marked and more remain, with units left for the next, the bits clear, cores that left may ask again and the
counters serve the numbers of the next section. (R160, R161, R164, R165, R203) -/
def Obligations.NodeMarksAndSections : Prop :=
  (∀ (s : State) (ref : DescRef) (d : Desc) (j : Job) (t q n node : Nat), s.desc ref = some d → d.running = some j →
    ((s.ctx ref.ctx).seat t q).work = some (ref.ring, ref.index, n, node) → (s.ctx ref.ctx).coresRun = true →
    ((s.ctx ref.ctx).coreOf t q).isSome → node ≠ d.leafNode j n → j.bits.contains (d.bitOf j n node) = true → d.allMarked j = false →
    ∃ v : State, exec (.nodeMark ref t q) s = .next v ∧ (v.tile d.jobHome).dupCnt = satInc (s.tile d.jobHome).dupCnt ∧
      ((v.ctx ref.ctx).seat t q).work = none ∧ ((v.ctx ref.ctx).seat t q).sp = ((s.ctx ref.ctx).seat t q).sp ∧ v.mem = s.mem ∧
      v.desc ref = some { d with prog := .job { j with dups := j.dups + 1 } } ∧ (∀ i, i ≠ d.jobHome → v.tile i = s.tile i) ∧
      (∀ i, i ≠ ref.ctx → v.ctx i = s.ctx i)) ∧
  (∀ (s s1 : State) (ref : DescRef) (d e : Desc) (j j1 : Job) (t q n : Nat), s.desc ref = some d → d.running = some j →
    ((s.ctx ref.ctx).seat t q).work = some (ref.ring, ref.index, n, 1) → (s.ctx ref.ctx).coresRun = true →
    ((s.ctx ref.ctx).coreOf t q).isSome → d.leafNode j n = 1 → runLeaf (d.whoAt ref.ctx t q) d j n (s.tick.modSeat ref.ctx t q (fun k => { k with workStamp := s.tick.free })) = .ok (some j1) s1 →
    s1.desc ref = some e → d.bitOf j1 n 1 ∉ j1.bits →
    ∃ v : State, exec (.nodeMark ref t q) s = .next v ∧ ((v.ctx ref.ctx).seat t q).work = none ∧
      ((v.ctx ref.ctx).seat t q).workStamp = s1.free ∧ v.mem = s1.mem ∧ v.tiles = s1.tiles ∧
      (let j2 := { j1 with bits := j1.bits ++ [d.bitOf j1 n 1] }
       v.desc ref = some (if d.allMarked j2 then { e with st := .done, status := 0x00, result := d.jobResult j2, prog := .none }
         else { e with prog := .job j2 }))) ∧
  (∀ (s : State) (ref : DescRef) (d : Desc) (j : Job), s.desc ref = some d → d.running = some j → d.opcode ≠ 0x303 →
    d.opcode ∈ [0x407, 0x710, 0x722] → j.sectionTiles ≤ j.bits.length → j.section_ + j.sectionTiles < j.total →
    s.unitsLack ref.ctx d (min j.total (j.section_ + 2 * 262144) - (j.section_ + 262144)) = false →
    ∃ v : State, exec (.sectionStart ref) s = .next v ∧
      v.desc ref = some { d with prog := .job { j with section_ := j.section_ + 262144, bits := [], left := [] } } ∧
      (d.jobShared = true → ((v.tile d.jobHome).counter ((s.ctx ref.ctx).wcAt d.jobHome d.jobWc)) =
        { (s.tile d.jobHome).counter ((s.ctx ref.ctx).wcAt d.jobHome d.jobWc) with
          next := BitVec.ofNat 32 (j.section_ + 262144), limit := BitVec.ofNat 32 (min j.total (j.section_ + 2 * 262144)),
          step := 1, redo := [] }) ∧ v.mem = s.mem ∧ (∀ i, i ≠ ref.ctx → v.ctx i = s.ctx i))

/-- KV_SPACE_SET of a readable record: one that R176 refuses ends with 0x10 naming the record's field and changes no space; one with GEOM 0,
for a space that holds no sequence, outside FROZEN, empties the space; one that defines the space, with its regions translated in their
tiers and no sequence held, sets the space and starts its owned region; both end with 0x00. KV_SEQ_SET of a readable record that R183
accepts, for a defined space, a number below SEQ_MAX and a sequence without pages, writes the record into the sequence table and, where
VALID is 1, zero lengths and a map that names no page, and ends with 0x00; a number from SEQ_MAX on ends with 0x12, reason 0x0403.
Model's choices (log entry 10): fields without a value are 0, a record that empties is judged for its reserved fields alone, and a
number from SEQ_MAX on has reason 0x0403; that SRC_VA of KV_SEQ_SET is 64 B aligned is log entry 89. (R175, R176, R183, R489) -/
def Obligations.KeyValueSpacesAndSequences : Prop :=
  (∀ (s s1 : State) (ref : DescRef) (d : Desc) (bs : List Byte), s.issues ref 0x400 d → (d.word 1).toNat % 64 = 0 →
    fld (d.word 2) 3 61 = 0 → (∀ j ∈ [3, 4, 5, 6, 7], d.word j = 0) →
    rdVa (d.who ref.ctx) (d.word 1).toNat 128 (s.begun ref d) = .ok bs s1 →
    (let ws := bytesWords 16 bs
     let k := fld (d.word 2) 0 3
     let w := d.who ref.ctx
     let x := s1.ctx ref.ctx
     let p := spaceOf ws
     (∀ wd b, spaceBad ws x.cfg.cls.toNat = some (wd, b) → exec (.kvSpaceSet ref) s = .next (s1.ended ref 0x10
       (at_ wd 0 ||| at_ b 4 ||| at_ 9 10 ||| at_ 1 16))) ∧
     (spaceBad ws x.cfg.cls.toNat = none → p.geom = 0 → x.frozen = false → ∀ s2, anySeq w k s1 = .ok false s2 →
       exec (.kvSpaceSet ref) s = .next ((s2.modCtx ref.ctx (fun y => { y with spaces := tput y.spaces k KvSpace.reset })).ended ref 0x00 0)) ∧
     (spaceBad ws x.cfg.cls.toNat = none → p.geom ≠ 0 → x.frozen = false → (p.tier 2).frames = 0 ∨ s1.capBit 0 = true →
       ∀ (s2 s3 s4 : State) (o : List (Nat × Nat)) (t0 t1 t2 : List (Nat × Nat)) (u0 u1 : State),
       xlRange w p.ownVa p.ownSize true s1 = .ok o s2 →
       xlRange w (p.tier 0).va ((p.tier 0).frames * p.fb) true s2 = .ok t0 u0 → t0.all (fun q => s1.ofTier 0 q.1) = true →
       xlRange w (p.tier 1).va ((p.tier 1).frames * p.fb) true u0 = .ok t1 u1 → t1.all (fun q => s1.ofTier 1 q.1) = true →
       xlRange w (p.tier 2).va ((p.tier 2).frames * p.fb) true u1 = .ok t2 s3 → t2.all (fun q => s1.ofTier 2 q.1) = true →
       anySeq w k s3 = .ok false s4 →
       ∀ v, initOwned w p (s4.modCtx ref.ctx (fun y => { y with spaces := tput y.spaces k p })) = .ok () v →
       exec (.kvSpaceSet ref) s = .next (v.ended ref 0x00 0)))) ∧
  (∀ (s s1 : State) (ref : DescRef) (d : Desc) (bs : List Byte), s.issues ref 0x401 d → (d.word 1).toNat % 64 = 0 →
    fld (d.word 2) 19 45 = 0 → (∀ j ∈ [3, 4, 5, 6, 7], d.word j = 0) →
    rdVa (d.who ref.ctx) (d.word 1).toNat 64 (s.begun ref d) = .ok bs s1 →
    (let r : SeqRec := ⟨bytesWords 8 bs⟩
     let w := d.who ref.ctx
     let k := fld (d.word 2) 0 3
     let q := fld (d.word 2) 3 16
     let p := (s1.ctx ref.ctx).space k
     seqBad r p (s1.ctx ref.ctx).cfg.cls.toNat = none → (s1.ctx ref.ctx).frozen = false → p.geom ≠ 0 →
     (p.seqMax ≤ q → exec (.kvSeqSet ref) s = .next (s1.ended ref 0x12 (at_ (s1.ctx ref.ctx).stateByte 0 ||| at_ 0x0403 16))) ∧
     (q < p.seqMax → ∀ (s2 s3 s4 : State) (old : SeqRec), rdSeq w k q s1 = .ok old s2 → holdsPages w p old s2 = .ok false s3 →
       wrVa w (p.seqVa q) bs s3 = .ok () s4 →
       (r.valid = false → exec (.kvSeqSet ref) s = .next (s4.ended ref 0x00 0)) ∧
       (r.valid = true → ∀ s5 s6, (List.range r.layers).forM (fun l => wr32 w (lenVa p r l) 0) s4 = .ok () s5 →
         (mapSlots p r).forM (fun a => wr32 w a noPage) s5 = .ok () s6 → exec (.kvSeqSet ref) s = .next (s6.ended ref 0x00 0)))))

/-- A KV_APPEND or KV_SCATTER that passes its checks of fields and state, with N or its layer count 0, ends with 0x01 and RESULT 0; past
MAXLEN it ends with 0x13 naming POS + N. Where every page of its span may be written in place (REFCNT 1, TIER 0, FILL at the position),
it takes no page and copies none. Else, once it holds a page entry and a frame for every other page and the pages to be copied can be
read, each of these in turn takes the tokens before the position from the old page, where there is one, and its entry, its place in the
sequence's map and the old page's reference change as R188 says; then the tokens of every page are written and it ends with 0x00, the
RESULT counting the pages taken and those copied, with the flags met. An append that finds too few frames while none is free or on its
way ends with 0x12, reason 0x0407, what it took is given back, and ALLOC_FAILS counts. Model's choices: the other fields of 0x13's
RESULT (log entry 83), the order in which frames and pages are taken, and that an append which waits keeps what it has taken (log entry
10). (R185, R186, R187, R188, R489) -/
def Obligations.KeyValueAppends : Prop :=
  ∀ (s s1 s2 : State) (ref : DescRef) (d : Desc) (r : SeqRec) (op : Nat), (op = 0x402 ∨ op = 0x403) → s.issues ref op d →
    (∀ k l, d.prog ≠ .kvAlloc k l) →
    (let w := d.who ref.ctx
     let k := d.kvSpace
     let a := d.kvAppend
     let b := s.begun ref d
     let p := (b.ctx ref.ctx).space k
     let ex := exec (if op = 0x402 then .kvAppend ref else .kvScatter ref) s
     rdSeq w k d.kvSeq b = .ok r s1 → firstFail (a.checks d p r) = none → appendState w (b.ctx ref.ctx) op a p r s1 = .ok () s2 →
     (a.n = 0 ∨ a.layers = 0 → ex = .next (s2.ended ref 0x01 0)) ∧
     (a.n ≠ 0 → a.layers ≠ 0 → r.maxLen < a.pos + a.n →
       ex = .next (s2.ended ref 0x13 (at_ 0xFFF 4 ||| at_ ((a.pos + a.n) % 2 ^ 32) 16))) ∧
     (a.n ≠ 0 → a.layers ≠ 0 → a.pos + a.n ≤ r.maxLen → ∀ (s3 : State) (parts : List PagePart), appendParts w k a r s2 = .ok parts s3 →
       (parts.all PagePart.inPlace = true → ∀ (r' : SeqRec) (s4 s5 s6 v : State) (fl : NumFlags), rdSeq w k d.kvSeq s3 = .ok r' s4 →
         appendParts w k a r' s4 = .ok parts s5 → appendParts w k a r' s5 = .ok parts s6 →
         (parts.foldlM (fun (f : NumFlags) g => do
           let x ← writePart w k a r' g
           pure (f ||| x)) 0 : Act NumFlags) s6 = .ok fl v →
         ex = .next (v.ended ref 0x00 (nfResult fl))) ∧
       (∀ (r' : SeqRec) (s4 s5 s6 s7 s8 s9 s10 s11 v : State) (parts' now : List PagePart) (got : List (Nat × Nat)) (zero : Bool)
         (copies : Nat) (fl : NumFlags),
         (if parts.any PagePart.copies then takeEpoch w k else pure () : Act Unit) s3 = .ok () s4 →
         rdSeq w k d.kvSeq s4 = .ok r' s5 → appendParts w k a r' s5 = .ok parts' s6 →
         (let fresh (ps : List PagePart) := ps.filter (fun g => !g.inPlace)
          let old := (parts'.filter (fun g => g.copies && decide (0 < g.from_))).map (·.old)
          let place : Act (Bool × Nat) := ((fresh now).zip got).foldlM (fun (t : Bool × Nat) (e : PagePart × Nat × Nat) => do
            let q ← getSpace w k
            let use ← hdr w k hUse
            let n := e.1.from_ * q.d * q.esz
            if e.1.copies then do
              [false, true].forM (fun v => do
                let bs ← readPage w e.1.entry.tier (q.tokenVa (q.frameVa e.1.entry.tier e.1.entry.frame) 0 v) n
                wrVa w (q.tokenVa (q.frameVa 0 e.2.2) 0 v) bs)
              hdrInc w k hCow
            else pure ()
            wrEntry w k e.2.1 { state := pgOpen, tier := 0, pin := false, refcnt := 1, frame := e.2.2, fill := if e.1.copies then e.1.from_ else 0,
                                layer := e.1.layer, head := e.1.head, creator := d.kvSeq, freeEpoch := 0, lastUse := use,
                                pos0 := e.1.page * q.tok, link := noPage }
            wr32 w e.1.slot e.2.1
            let z ← if e.1.copies then decRef w k e.1.old else pure false
            pure (t.1 || z, t.2 + b2n e.1.copies)) (false, 0)
          takePairs w k old (fresh parts').length ((fresh parts').length + 1) [] s6 = .ok got s7 → got.length = (fresh parts').length →
          sourcesReady w k parts' s7 = .ok true s8 → appendParts w k a r' s8 = .ok now s9 → (fresh now).length = got.length →
          place s9 = .ok (zero, copies) s10 → (if zero then advanceEpoch w k else pure () : Act Unit) s10 = .ok () s11 →
          (now.foldlM (fun (f : NumFlags) g => do
            let x ← writePart w k a r' g
            pure (f ||| x)) 0 : Act NumFlags) s11 = .ok fl v →
          ex = .next (v.ended ref 0x00 (at_ (got.length % 2 ^ 24) 0 ||| at_ (copies % 2 ^ 16) 24 ||| nfResult fl)))) ∧
       (parts.any PagePart.copies = false → ∀ (r' : SeqRec) (s4 s5 s7 s8 s9 v : State) (got : List (Nat × Nat)) (pages : Nat),
         rdSeq w k d.kvSeq s3 = .ok r' s4 → appendParts w k a r' s4 = .ok parts s5 →
         (let need := (parts.filter (fun g => !g.inPlace)).length
          takePairs w k [] need (need + 1) [] s5 = .ok got s7 → got.length < need → noFrameComing w k s7 = .ok true s7 →
          hdr w k hPagesFree s7 = .ok pages s8 → returnTaken w k got s8 = .ok () s9 → hdrInc w k hAllocFails s9 = .ok () v →
          ex = .next (v.ended ref 0x12 (at_ (v.ctx ref.ctx).stateByte 0 ||| at_ 0x0407 16))))))

/-- With fields in order, a defined space and outside FROZEN. KV_FORK of L = 0 between two defined sequences of equal shape whose lengths
permit it ends with 0x01; with a page whose REFCNT would pass 65,535 it ends with 0x12, reason 0x0409, and nothing has changed in
memory; else each of the pages 0 to ceil(L / TOK) − 1 of each layer and head gains a reference and enters the child's map, each LEN of
the child becomes L, and it ends with 0x00 and the count of entries shared. KV_FREE of no layers ends with 0x01; a range beyond LAYERS
gives 0x12, reason 0x0404; else every page wholly at or beyond KEEP leaves the map and loses a reference, each LEN becomes the lesser of
LEN and KEEP, UNDEFINE clears the sequence's record, and it ends with 0x00 and the entries removed and pages retired. KV_PREFETCH of no
layers or tokens ends with 0x01; of more pages to move than frames can be had with 0x12, reason 0x0407; where every page it covers is
ready in the stack tier once asked for, PIN as asked, it ends with 0x00 and the counts of moves and recomputes. An undefined sequence
ends each with 0x12, reason 0x0403, an undefined child of a fork with reason 0x0408. Each reads and writes its tables through the
context's own pages, which must translate. (R191, R196, R197, R181, R489) -/
def Obligations.KeyValueForkFreePrefetch : Prop :=
  (∀ (s s1 s2 s3 : State) (ref : DescRef) (d : Desc) (a b : SeqRec), s.issues ref 0x404 d → fld (d.word 1) 35 29 = 0 →
    fld (d.word 2) 32 32 = 0 → (∀ j ∈ [3, 4, 5, 6, 7], d.word j = 0) → (s.ctx ref.ctx).frozen = false →
    (let w := d.who ref.ctx
     let k := fld (d.word 1) 32 3
     let l := fld (d.word 2) 0 32
     let p := (s.ctx ref.ctx).space k
     p.geom ≠ 0 → rdSeq w k (fld (d.word 1) 0 16) (s.begun ref d) = .ok a s1 → rdSeq w k (fld (d.word 1) 16 16) s1 = .ok b s2 →
     (a.valid = false → exec (.kvFork ref) s = .next (s2.ended ref 0x12 (at_ (s.ctx ref.ctx).stateByte 0 ||| at_ 0x0403 16))) ∧
     (a.valid = true → b.valid = false → exec (.kvFork ref) s = .next (s2.ended ref 0x12 (at_ (s.ctx ref.ctx).stateByte 0 ||| at_ 0x0408 16))) ∧
     (a.valid = true → b.valid = true → a.layers = b.layers → a.hkv = b.hkv →
       ((List.range a.layers).forM (fun i => do
         let la ← rd32 w (lenVa p a i)
         let lb ← rd32 w (lenVa p b i)
         require (decide (l ≤ la) && decide (lb = 0)) (badState (s.ctx ref.ctx) 0x0408)) : Act Unit) s2 = .ok () s3 →
       (let slots := ((List.range a.layers).map (fun i => ((List.range a.hkv).map (fun h =>
           (List.range (cdiv l p.tok)).map (fun n => (mapVa p a i h n, mapVa p b i h n)))).flatten)).flatten
        let fits (pages : List Nat) : Act Unit := pages.forM (fun m => do
          let e ← rdEntry w k m
          require (decide (e.refcnt + (pages.filter (· == m)).length ≤ 65535)) (badState (s.ctx ref.ctx) 0x0409))
        let share : Act Bool := slots.foldlM (fun (z : Bool) t => do
          let m ← rd32 w t.1
          let e ← rdEntry w k m
          wrEntry w k m { e with refcnt := e.refcnt + 1 }
          let old ← rd32 w t.2
          wr32 w t.2 m
          let y ← if old = noPage then pure false else decRef w k old
          pure (z || y)) false
        (l = 0 → exec (.kvFork ref) s = .next (s3.ended ref 0x01 0)) ∧
        (l ≠ 0 → l ≤ b.maxLen → ∀ (pages : List Nat) (s4 : State), slots.mapM (fun t => rd32 w t.1) s3 = .ok pages s4 →
          (∀ s5, fits pages s4 = .error (badState (s.ctx ref.ctx) 0x0409) s5 →
            exec (.kvFork ref) s = .next (s5.ended ref 0x12 (at_ (s.ctx ref.ctx).stateByte 0 ||| at_ 0x0409 16)) ∧ s5.mem = s.mem) ∧
          (∀ s5 s6 s7 v zero, fits pages s4 = .ok () s5 → share s5 = .ok zero s6 →
            (if zero then advanceEpoch w k else pure () : Act Unit) s6 = .ok () s7 →
            (List.range a.layers).forM (fun i => wr32 w (lenVa p b i) l) s7 = .ok () v →
            exec (.kvFork ref) s = .next (v.ended ref 0x00 (BitVec.ofNat 64 (slots.length % 2 ^ 24)))))))) ) ∧
  (∀ (s s1 : State) (ref : DescRef) (d : Desc) (r : SeqRec), s.issues ref 0x405 d → fld (d.word 1) 19 13 = 0 →
    fld (d.word 2) 33 31 = 0 → (∀ j ∈ [3, 4, 5, 6, 7], d.word j = 0) → (s.ctx ref.ctx).frozen = false →
    (let w := d.who ref.ctx
     let k := fld (d.word 1) 16 3
     let l0 := fld (d.word 1) 32 16
     let nl := fld (d.word 1) 48 16
     let keep := fld (d.word 2) 0 32
     let undef := bit (d.word 2) 32
     let p := (s.ctx ref.ctx).space k
     p.geom ≠ 0 → rdSeq w k (fld (d.word 1) 0 16) (s.begun ref d) = .ok r s1 →
     (r.valid = false → exec (.kvFree ref) s = .next (s1.ended ref 0x12 (at_ (s.ctx ref.ctx).stateByte 0 ||| at_ 0x0403 16))) ∧
     (r.valid = true → r.layers < l0 + nl ∨ (undef = true ∧ (keep ≠ 0 ∨ l0 ≠ 0 ∨ nl ≠ r.layers)) →
       exec (.kvFree ref) s = .next (s1.ended ref 0x12 (at_ (s.ctx ref.ctx).stateByte 0 ||| at_ 0x0404 16))) ∧
     (r.valid = true → l0 + nl ≤ r.layers → (undef = true → keep = 0 ∧ l0 = 0 ∧ nl = r.layers) →
       (nl = 0 → exec (.kvFree ref) s = .next (s1.ended ref 0x01 0)) ∧
       (nl ≠ 0 →
         (let first := cdiv keep p.tok
          let slots := ((List.range nl).map (fun i => ((List.range r.hkv).map (fun h =>
            (List.range (r.mapW p.tok - first)).map (fun n => mapVa p r (l0 + i) h (first + n)))).flatten)).flatten
          let drop : Act (Nat × Nat) := slots.foldlM (fun (t : Nat × Nat) a => do
            let m ← rd32 w a
            if m = noPage then pure t
            else do
              wr32 w a noPage
              let z ← decRef w k m
              pure (t.1 + 1, t.2 + b2n z)) (0, 0)
          ∀ gone zeros s2 s3 s4 v, drop s1 = .ok (gone, zeros) s2 →
            ((List.range nl).forM (fun i => do
              let len ← rd32 w (lenVa p r (l0 + i))
              wr32 w (lenVa p r (l0 + i)) (min len keep)) : Act Unit) s2 = .ok () s3 →
            (if zeros ≠ 0 then advanceEpoch w k else pure () : Act Unit) s3 = .ok () s4 →
            (if undef then wrVa w (p.seqVa (fld (d.word 1) 0 16)) (List.replicate 64 0) else pure () : Act Unit) s4 = .ok () v →
            exec (.kvFree ref) s = .next (v.ended ref 0x00 (at_ (gone % 2 ^ 24) 0 ||| at_ (zeros % 2 ^ 24) 24))))))) ∧
  (∀ (s s1 : State) (ref : DescRef) (d : Desc) (r : SeqRec), s.issues ref 0x406 d → (∀ a b, d.prog ≠ .kvFetch a b) →
    fld (d.word 1) 19 13 = 0 → fld (d.word 3) 0 64 ≤ 2 → (∀ j ∈ [4, 5, 6, 7], d.word j = 0) → (s.ctx ref.ctx).frozen = false →
    (let w := d.who ref.ctx
     let k := fld (d.word 1) 16 3
     let l0 := fld (d.word 1) 32 16
     let nl := fld (d.word 1) 48 16
     let n := fld (d.word 2) 32 32
     let p := (s.ctx ref.ctx).space k
     let cover : Act (List Nat) := coverPages w k r l0 nl (fld (d.word 2) 0 32) n
     p.geom ≠ 0 → rdSeq w k (fld (d.word 1) 0 16) (s.begun ref d) = .ok r s1 →
     (r.valid = false → exec (.kvPrefetch ref) s = .next (s1.ended ref 0x12 (at_ (s.ctx ref.ctx).stateByte 0 ||| at_ 0x0403 16))) ∧
     (r.valid = true → l0 + nl ≤ r.layers → nl = 0 ∨ n = 0 → exec (.kvPrefetch ref) s = .next (s1.ended ref 0x01 0)) ∧
     (r.valid = true → l0 + nl ≤ r.layers → nl ≠ 0 → n ≠ 0 → ∀ (s2 s3 s4 : State) (ms others : List Nat) (es : List PageEntry),
       cover s1 = .ok ms s2 → ms.eraseDups.mapM (fun m => rdEntry w k m) s2 = .ok es s3 →
       (((List.range p.pagesMax).filter (fun m => !ms.contains m)).filterM (fun m => do
         let e ← rdEntry w k m
         pure (e.settled && decide (e.tier = 0) && !e.pin)) : Act (List Nat)) s3 = .ok others s4 →
       (let toMove := (es.filter (fun e => decide (e.tier ≠ 0))).length
        let pin : Act Unit := if d.word 3 = 0 then pure () else ms.forM (fun m => do
          let e ← rdEntry w k m
          wrEntry w k m { e with pin := bit (d.word 3) 0 })
        let ask (pages : List Nat) : Act (Bool × Nat × Nat) := pages.foldlM (fun (t : Bool × Nat × Nat) m => do
          let (need, x, y) ← needPage w k pages m true
          let e ← rdEntry w k m
          pure (t.1 && decide (need = .ready) && e.settled && decide (e.tier = 0), t.2.1 + x, t.2.2 + y)) (true, 0, 0)
        ((p.tier 0).free + others.length < toMove → ∀ v, hdrInc w k hAllocFails s4 = .ok () v →
          exec (.kvPrefetch ref) s = .next (v.ended ref 0x12 (at_ (s.ctx ref.ctx).stateByte 0 ||| at_ 0x0407 16))) ∧
        (toMove ≤ (p.tier 0).free + others.length → ∀ s5 s6 v pages mv rc, pin s4 = .ok () s5 → cover s5 = .ok pages s6 →
          ask pages s6 = .ok (true, mv, rc) v →
          exec (.kvPrefetch ref) s = .next (v.ended ref 0x00 (at_ (mv % 2 ^ 24) 0 ||| at_ (rc % 2 ^ 24) 24)))))))

/-- An ATTN that passes every item of R168 and R169 for a defined sequence outside FROZEN with its counters free: with NQ or KLEN 0 it ends
with 0x01; past MAXLEN it ends with 0x13 naming QPOS0 + NQ; else it takes a read-epoch and counts USE, and, with bitmap units and slices
left, goes on executing with T work tiles, none of them marked (T = ceil(NQ / 128) × H_kv × G, or ceil(KLEN / 128) × H_kv for DIR 2),
and the memory stays as the epoch and the use count left it. (R168, R169, R170, R171, R198) -/
def Obligations.AttentionStarts : Prop :=
  ∀ (s s1 s2 : State) (ref : DescRef) (d : Desc) (r : SeqRec) (klen : Nat), s.issues ref 0x407 d → (∀ j, d.prog ≠ .job j) →
    (let w := d.who ref.ctx
     let a := d.attn
     let b := s.begun ref d
     let p := (b.ctx ref.ctx).space a.space
     firstFail (a.checks (b.ctx ref.ctx) d) = none → (s.ctx ref.ctx).frozen = false → p.geom ≠ 0 →
     rdSeq w a.space a.seq b = .ok r s1 →
     (r.valid = false → exec (.attn ref) s = .next (s1.ended ref 0x12 (at_ (s.ctx ref.ctx).stateByte 0 ||| at_ 0x0403 16))) ∧
     (r.valid = true → a.layer < r.layers → (feedClass a.qFmt p.fmt).isSome → r.hkv * a.g ≤ 256 → a.shortStride p r = false →
       b.jobBusy ref.ctx d = false → ∀ sh, holdCounters ref.ctx d s1 = .ok () sh → rd32 w (lenVa p r a.layer) sh = .ok klen s2 →
       (a.nq = 0 ∨ klen = 0 → exec (.attn ref) s = .next (s2.ended ref 0x01 0)) ∧
       (a.nq ≠ 0 → klen ≠ 0 → r.maxLen < a.qpos + a.nq →
         exec (.attn ref) s = .next (s2.ended ref 0x13 (at_ 0xFFF 4 ||| at_ ((a.qpos + a.nq) % 2 ^ 32) 16))) ∧
       (a.nq ≠ 0 → klen ≠ 0 → a.qpos + a.nq ≤ r.maxLen → ∀ s3 s4, takeEpoch w a.space s2 = .ok () s3 →
         hdrInc w a.space hUse s3 = .ok () s4 →
         (let n := if a.dir = 2 then cdiv klen 128 * r.hkv else cdiv a.nq 128 * r.hkv * a.g
          s4.unitsLack ref.ctx d (min n 262144) = false → s4.sliceLack d = [] → s4.desc ref = some { d with st := .executing, issued := true } →
          ∃ (v : State) (j : Job), exec (.attn ref) s = .next v ∧ v.desc ref = some { d with st := .executing, issued := true, prog := .job j } ∧
            j.started = true ∧ j.total = n ∧ j.dims = [a.nq, klen, r.hkv] ∧ j.bits = [] ∧ j.section_ = 0 ∧ v.mem = s4.mem))))

/-- DIR 0: a key block folds into a query row by the online rule: scores are (root × (Q_DEQ × K_DEQ)) × (SCALE × log2 e), −∞ where a key is
not admitted, each product rounded once; with no NaN the new m is the largest of the old m and the scores; l becomes FMA(alpha, l, the
tree sum of EXP2(score − m)); each output element FMA(alpha, O, root × V_DEQ), the root alone where alpha is 0, P entering the array in
the space's format by RNE, saturating. A row of the tile that admits no key of the block keeps its state; every other row takes the fold
of the query read for it. A row that has met no admitted key at its end writes O = 0 and, with STAT_VA, m = −∞, l = 0 and zeros in slots
2 and 3. DIR 1 and 2: P is EXP2(score − m) × RCP(l), +0 where not admitted, and dS is P × ((dO · V root) × V_DEQ − D). That dO enters
the array in the format of P is the model's choice (log entry 11). DIR 2 of a key block that no query block admits writes zero rows of
dK and dV in no step. (R171, R172) -/
def Obligations.AttentionTileValues : Prop :=
  (∀ (t : AttnCtx) (kd vd : SV) (ks vs : List (List Val)) (adm : List Bool) (q : List Val) (st : OnlineRow),
    (let r := (t.foldRow kd vd ks vs adm q st).1
     let score (i : Nat) : Val := if adm.getD i false then
         f32val (toF32 (vMul (f32val (toF32 (vMul (rootOf t.a.qFmt q (ks.getD i [])).val (f32val (toF32 (vMul (f32val t.a.qDeq) kd.val))))))
           (f32val (toF32 (vMul (f32val t.a.scale) (f32val 0x3FB8AA3B)))))) else .inf true
     let alpha := if st.m.val = .inf true then f32val 0
       else f32val (toF32 (transc 0x10 (f32val (toF32 (vAdd st.m.val (vNeg r.m.val))))))
     let e (i : Nat) : Word := toF32 (transc 0x10 (if r.m.val = .inf true then .inf true else f32val (toF32 (vAdd (score i) (vNeg r.m.val)))))
     let p (i : Nat) : Val := decodeVal (codeFmt t.pFmt) (convert (codeFmt t.pFmt) .rne true (f32val (e i))).1
     let root (c : Nat) : Word :=
       toF32 (vMul (rootOf t.pFmt ((List.range ks.length).map p) (vs.map (fun v => v.getD c .nan))).val vd.val)
     (st.m.val ≠ .nan → (∀ i < ks.length, score i ≠ .nan) → vLt r.m.val st.m.val = false ∧ (∀ i < ks.length, vLt r.m.val (score i) = false) ∧
       (r.m.val = st.m.val ∨ ∃ i < ks.length, r.m.val = score i)) ∧
     r.l.w = toF32 (vAdd (vMul alpha st.l.val) (svTree ((List.range ks.length).map (fun i => SV.of (e i)))).val) ∧
     r.o.length = t.p.d ∧
     (∀ c < t.p.d, ((∃ n x, alpha = .fin n 0 x) → (r.o.getD c svZero).w = root c) ∧
       ((∀ n x, alpha ≠ .fin n 0 x) →
         (r.o.getD c svZero).w = toF32 (vAdd (vMul alpha (st.o.getD c svZero).val) (f32val (root c))))))) ∧
  (∀ (s s' : State) (t : AttnCtx) (w : Who) (qb hq j : Nat) (cs : List KvChunk) (run run' : AttnRun), t.p.narrow = false →
    t.forwardBlock w qb hq j cs run s = .ok run' s' →
    run'.rows.length = (t.a.rows qb).length ∧ run'.next = run.next ∧ run'.low = run.low ∧
    ∀ i < (t.a.rows qb).length,
      (let st := run.rows.getD i (OnlineRow.start 0)
       let adm := (keysOf t.klen j).map (t.a.admits (t.a.qpos + (t.a.rows qb).getD i 0))
       ((∀ k ∈ adm, k = false) → run'.rows[i]? = some st) ∧
       (true ∈ adm → ∃ q, run'.rows[i]? = some (t.foldRow (SV.of 0x3F800000) (SV.of 0x3F800000) (t.kv false cs) (t.kv true cs) adm q st).1))) ∧
  (∀ (s : State) (t : AttnCtx) (w : Who) (qb hq : Nat) (run : AttnRun), t.a.oFmt ≤ 2 →
    run.rows = (t.a.rows qb).map (fun _ => OnlineRow.start t.p.d) →
    (let es := codeBytes t.a.oFmt 1
     t.forwardEnd w qb hq run s = (do
       (t.a.rows qb).forM (fun tok => do
         wrVa w (t.a.o + tok * t.a.oLd + hq * t.p.d * es) (List.replicate (t.p.d * es) 0)
         if t.a.stat = 0 then pure () else wrVa w (t.a.stat + 16 * (hq * t.a.nq + tok)) ([0, 0, 0x80, 0xFF] ++ List.replicate 12 0))
       pure run.flags : Act NumFlags) s)) ∧
  (∀ (t : AttnCtx) (kd vd : SV) (ks vs : List (List Val)) (ps : List Nat) (b : BackRow) (i : Nat), i < ks.length → vs.length = ks.length →
    (let score := f32val (toF32 (vMul (f32val (toF32 (vMul (rootOf t.a.qFmt b.q (ks.getD i [])).val (f32val (toF32 (vMul (f32val t.a.qDeq) kd.val))))))
       (f32val (toF32 (vMul (f32val t.a.scale) (f32val 0x3FB8AA3B))))))
     let e := f32val (toF32 (transc 0x10 (if b.m.val = .inf true then .inf true else f32val (toF32 (vAdd score (vNeg b.m.val))))))
     let p : Word := if t.a.admits (t.a.qpos + b.tok) (ps.getD i 0) then toF32 (vMul e (f32val (toF32 (transc 0x14 b.l.val)))) else 0
     let dp := f32val (toF32 (vMul (rootOf t.pFmt (t.gradIn b.dO) (vs.getD i [])).val vd.val))
     ((t.probs kd ks ps b).getD i svNan).w = p ∧
     ((t.dscores vd vs b (t.probs kd ks ps b)).getD i svNan).w = toF32 (vMul (f32val p) (f32val (toF32 (vAdd dp (vNeg b.dd.val))))))) ∧
  (∀ (s : State) (t : AttnCtx) (w : Who) (kb h : Nat) (cs : List KvChunk), t.p.narrow = false → t.a.gFmt ≤ 2 →
    (∀ qb < cdiv t.a.nq 128, t.a.meets t.klen (t.a.rows qb) kb = false) →
    (let es := codeBytes t.a.gFmt 1
     t.backKV w kb h cs s = (do
       (keysOf t.klen kb).forM (fun pos => do
         wrVa w (t.a.d1 + (pos * t.a.kvLd + h * t.p.d * es)) (List.replicate (t.p.d * es) 0)
         wrVa w (t.a.d2 + (pos * t.a.kvLd + h * t.p.d * es)) (List.replicate (t.p.d * es) 0))
       pure (0, 0) : Act (Nat × NumFlags)) s))

/-- At the end of a page's move whose source frame can be read, whose copy passes and whose destination tier takes writes now: the
destination frame holds the source frame's bytes when FRAME and TIER switch, the source frame is given back, the count of spills or
promotes goes up and the page is settled (or RETIRED where no map names it); a move that no space of the context has under way changes
nothing. At the end of a recompute whose contents pass, the page is settled in the frame taken for it in the stack tier, the count goes
up, and the work areas of the cores that ran it become unspecified; one that no space has under way changes nothing. (R190, R194, R195) -/
def Obligations.PageMovesAndRecomputesEnd : Prop :=
  (∀ (s : State) (c k page : Nat), (s.ctx c).st ≠ .dead →
    (((s.ctx c).space k).moves.find? (fun m => m.page == page) = none → exec (.pageMoveComplete c k page) s = .next s) ∧
    (∀ (m : KvMove) (s1 s2 s3 s4 s5 v : State) (e : PageEntry) (bs : List Byte),
      ((s.ctx c).space k).moves.find? (fun m => m.page == page) = some m →
      s.moveWaits c k m = false →
      (let w := agentWho c
       let p := { (s.ctx c).space k with moves := ((s.ctx c).space k).moves.filter (fun x => x.page != page) }
       let u := s.tick.modCtx c (fun x => { x with spaces := tput x.spaces k p })
       rdEntry w k page u = .ok e s1 → s1.vaBad (agentWho c) (p.frameVa m.tier m.frame) p.fb = false →
       (if m.tier = 2 then lookVa w (p.frameVa m.tier m.frame) p.fb else rdVa w (p.frameVa m.tier m.frame) p.fb) s1 = .ok bs s2 → wrVa w (p.frameVa m.dstTier m.dstFrame) bs s2 = .ok () s3 →
       giveFrame w k m.tier m.frame s3 = .ok () s4 → hdrInc w k (if m.dstTier = 0 then hPromotes else hSpills) s4 = .ok () s5 →
       (settlePage w k page { e with tier := m.dstTier, frame := m.dstFrame } >>= fun _ => reclaim w k >>= fun _ => resumeRelief w k) s5 = .ok () v →
       exec (.pageMoveComplete c k page) s = .next v))) ∧
  (∀ (s : State) (c k page : Nat), (s.ctx c).st ≠ .dead →
    (((s.ctx c).space k).recomps.find? (fun m => m.page == page) = none → exec (.pageRecomputeComplete c k page) s = .next s) ∧
    (∀ (g : KvRecomp) (s1 s2 s3 s4 s5 v : State) (e : PageEntry) (use : Nat),
      ((s.ctx c).space k).recomps.find? (fun m => m.page == page) = some g → (s.ctx c).atUnits = true →
      (let w : Who := { ctx := c, ring := g.ring, index := g.index }
       let p := { (s.ctx c).space k with recomps := ((s.ctx c).space k).recomps.filter (fun x => x.page != page) }
       let u := s.tick.modCtx c (fun x => { x with spaces := tput x.spaces k p })
       rdEntry w k page u = .ok e s1 → recomputePage w k g e s1 = .ok () s2 → hdrInc w k hRecomputes s2 = .ok () s3 →
       hdr w k hUse s3 = .ok use s4 → settlePage w k page { e with tier := 0, frame := g.frame, lastUse := use } s4 = .ok () s5 →
       reclaim w k s5 = .ok () v → exec (.pageRecomputeComplete c k page) s = .next (v.stampTile c g.tile))))

/-- A write of PT_ROOT in BOUND or PAUSED takes bits 47:12 as the root and changes nothing else of the machine but that context. XLATE_INVAL
with aligned words takes every cached translation that its range meets out of the context's cache, all of them for SIZE 0, and ends with
0x00. The walk of an executing descriptor that reaches a page enters the translation that the tables give, once; one that does not ends
the descriptor with 0x20 and its address, and records level and cause in the context's fault register. A translation in force is one
that the cache holds or the tables give; each byte of its page is the byte at the same offset of the physical page, and no write passes
without W, and none outside the windows. (R208, R209, R210, R211, R212) -/
def Obligations.TranslationsOfAContext : Prop :=
  (∀ (s : State) (c : Nat) (v : DWord), (s.ctx c).st = .bound ∨ (s.ctx c).st = .paused →
    ∃ t, exec (.ptRootWrite c v) s = .next t ∧ s.onlyCtx t c ∧ (t.ctx c).xl = { (s.ctx c).xl with ptRoot := BitVec.ofNat 36 (fld v 12 36) }
      ∧ (t.ctx c).sched.rootWritten = true ∧ (t.ctx c).st = (s.ctx c).st) ∧
  (∀ (s : State) (ref : DescRef) (d : Desc), s.issues ref 0x506 d → (d.word 1).toNat % 65536 = 0 → (d.word 2).toNat % 65536 = 0 →
    (∀ j ∈ [3, 4, 5, 6, 7], d.word j = 0) →
    ∃ u, exec (.xlateInval ref) s = .next (u.ended ref 0x00 0) ∧ (s.begun ref d).onlyCtx u ref.ctx ∧
      (u.ctx ref.ctx).xl.ptRoot = (s.ctx ref.ctx).xl.ptRoot ∧
      (∀ p ∈ (u.ctx ref.ctx).xl.ptrs, p ∈ (s.ctx ref.ctx).xl.ptrs ∧ (d.word 2).toNat ≠ 0 ∧
        ((p.prefix_ + 1) * p.span ≤ (d.word 1).toNat ∨ (d.word 1).toNat + (d.word 2).toNat ≤ p.prefix_ * p.span)) ∧
      ∀ e, e ∈ (u.ctx ref.ctx).xl.cache ↔ e ∈ (s.ctx ref.ctx).xl.cache ∧ (d.word 2).toNat ≠ 0 ∧
        (e.va + e.size ≤ (d.word 1).toNat ∨ (d.word 1).toNat + (d.word 2).toNat ≤ e.va)) ∧
  (∀ (s : State) (ref : DescRef) (d : Desc) (va : DWord) (write : Bool), s.desc ref = some d → d.st = .executing →
    (∀ e ps, s.walk ref.ctx (s.unitOf (d.who ref.ctx)) va.toNat = .ok (e, ps) →
      ∃ t, exec (.pageWalkComplete ref va write) s = .next t ∧ s.onlyCtx t ref.ctx ∧ e ∈ (t.ctx ref.ctx).xl.cache ∧
      (∀ p ∈ ps, p ∈ (t.ctx ref.ctx).xl.ptrs) ∧
      (∀ f, f ∈ (s.ctx ref.ctx).xl.cache → f.unit ≠ e.unit ∨ f.va + f.size ≤ e.va ∨ e.va + e.size ≤ f.va → f ∈ (t.ctx ref.ctx).xl.cache) ∧
      ((t.ctx ref.ctx).xl.cache.length ≤ (s.ctx ref.ctx).xl.cache.length + 1)) ∧
    (∀ perm level cause, s.walk ref.ctx (s.unitOf (d.who ref.ctx)) va.toNat = .error (.fault perm level cause) →
      exec (.pageWalkComplete ref va write) s =
      .next ((s.recordFault ref.ctx va write level cause (d.index.toNat % 65536)).ended ref (if perm then 0x21 else 0x20) va))) ∧
  (∀ (s : State) (c u va n : Nat) (e : XEntry) (ps : List PEntry), s.xentry c u va = .ok (e, ps) →
    (e ∈ (s.ctx c).xl.cache ∨ s.walk c u va = .ok (e, ps)) ∧
    (∀ write p e' ps', s.xlate c u va n write = .ok (p, e', ps') → p = e.pa + (va - e.va) ∧ e' = e ∧ (write = true → e.w = true)
      ∧ (write = false → e.r = true) ∧ s.windowOk c p n write = true) ∧
    (e.w = false → s.xlate c u va n true = .error (.fault true e.level 5)))

/-- A DMA_COPY with immediate dimensions whose fields are in order and which the phase permits: with a dimension of 0 it ends with 0x01; a
plain copy of one row whose destination is judged, whose source bytes can be read and whose write passes writes those bytes there and
ends with 0x00 and the count of bytes; a plain copy of more rows, or one with a layout, whose accesses pass ends with 0x00 and its count
of bytes. PARAM_PREFETCH with its fields in order: of 0 bytes it ends with 0x01; else it reads its source once, writes the bytes at
DST_OFF of the pool window of every tile of its mask, in tile order, and ends with 0x00; where a window is shorter than DST_OFF + BYTES
it ends with 0x21 and nothing is written. No byte of the physical address space changes but for what its read does. Model's choices (log
entry 49): where FROZEN and the guard are judged for a copy's destination, and RESULT of PARAM_PREFETCH. (R218, R220, R221, R231, R60,
R489) -/
def Obligations.CopiesAndPrefetches : Prop :=
  (∀ (s : State) (ref : DescRef) (d : Desc), s.issues ref 0x500 d → d.cuse.plan = 0xFFF → d.cuse.bound = false →
    firstFail (d.copy.checks (s.ctx ref.ctx) d (some d.cuse.imm)) = none → firstFail [frozenSp (s.ctx ref.ctx) d.copy.dst.sp] = none →
    (let k := d.copy
     let w := d.who ref.ctx
     let d0 := fld (d.word 4) 0 32
     let d1 := fld (d.word 4) 32 32
     let d2 := fld (d.word 5) 0 32
     (d0 = 0 ∨ d1 = 0 ∨ d2 = 0 → exec (.dmaCopy ref) s = .next ((s.begun ref d).ended ref 0x01 0)) ∧
     (d0 ≠ 0 → d1 = 1 → d2 = 1 → k.layout = 0 → ∀ (s1 s2 v : State) (bs : List Byte),
       judgeDst w k.dst.sp d0 [k.dst.addr] (s.begun ref d) = .ok () s1 → rdSp w k.src.sp k.src.addr d0 s1 = .ok bs s2 →
       wrSp w k.dst.sp k.dst.addr bs s2 = .ok () v → exec (.dmaCopy ref) s = .next (v.ended ref 0x00 (at_ (d0 % 2 ^ 48) 0))) ∧
     (d0 ≠ 0 → d1 ≠ 0 → d2 ≠ 0 → k.layout = 0 → ∀ n v, (do k.judge w [d0, d1, d2]; k.plain w d0 d1 d2 : Act Nat) (s.begun ref d) = .ok n v →
       n = d0 * d1 * d2 ∧ exec (.dmaCopy ref) s = .next (v.ended ref 0x00 (at_ (n % 2 ^ 48) 0))) ∧
     (d0 ≠ 0 → d1 ≠ 0 → d2 ≠ 0 → k.layout ≠ 0 → ∀ n v, k.laid w d0 d1 (s.begun ref d) = .ok n v →
       exec (.dmaCopy ref) s = .next (v.ended ref 0x00 (at_ (n % 2 ^ 48) 0))))) ∧
  (∀ (s : State) (ref : DescRef) (d : Desc), s.issues ref 0x505 d → fld (d.word 3) 0 32 % 64 = 0 → fld (d.word 2) 26 6 = 0 →
    fld (d.word 2) 44 20 = 0 → fld (d.word 3) 32 32 = 0 → (∀ j ∈ [4, 5, 6, 7], d.word j = 0) → (s.ctx ref.ctx).frozen = false →
    (let w := d.who ref.ctx
     let off := fld (d.word 2) 0 26
     let n := fld (d.word 3) 0 32
     let ts := tilesOf (fld (d.word 2) 32 12)
     (n = 0 → exec (.paramPrefetch ref) s = .next ((s.begun ref d).ended ref 0x01 0)) ∧
     (n ≠ 0 → (∃ t ∈ ts, ((s.ctx ref.ctx).poolWindow t).2 < off + n) → exec (.paramPrefetch ref) s =
       .next (((s.begun ref d).recordFault ref.ctx (BitVec.ofNat 64 off) true 0 8 d.seq).ended ref 0x21 (BitVec.ofNat 64 off))) ∧
     (n ≠ 0 → (∀ t ∈ ts, off + n ≤ ((s.ctx ref.ctx).poolWindow t).2) → ∀ (s1 v : State) (bs : List Byte),
       rdVa w (d.word 1).toNat n (s.begun ref d) = .ok bs s1 →
       ts.forM (fun t => wrPool w t (((s.ctx ref.ctx).poolWindow t).1 + off) bs) s1 = .ok () v →
       exec (.paramPrefetch ref) s = .next (v.ended ref 0x00 0) ∧ v.mem = s1.mem)))

/-- ACT_POOL_SET of a readable record with its fields in order: with VALID 1 and every region translated in its tier it sets a pool that
holds no save, with VALID 0 it empties it, and ends with 0x00; a pool that holds saves answers 0x12, reason 0x0501, and stays. ACT_SAVE
into a pool that is not set ends with 0x12, reason 0x0507; into a full table with 0x0503; without room for the largest stored form with
0x0502; a RAW save of one whole block whose accesses pass writes one directory line, the block behind it and its table entry, advances
the region's top by 65 lines and appends one save. ACT_LOAD of an index that the pool does not hold ends with 0x12, reason 0x0504, and
one that releases a save that is not the last with 0x0505; a RAW load of one block returns the stored bytes. Model's choices: the order
of 0x0507, 0x0503 and 0x0502, and RESULT of ACT_LOAD (log entry 49); that ACT_POOL_SET translates its regions for writing (log entry
90). (R222, R223, R224, R225) -/
def Obligations.ActivationPools : Prop :=
  (∀ (s s1 : State) (ref : DescRef) (d : Desc) (bs : List Byte), s.issues ref 0x501 d → (d.word 1).toNat % 64 = 0 →
    fld (d.word 2) 4 60 = 0 → (∀ j ∈ [3, 4, 5, 6, 7], d.word j = 0) →
    rdVa (d.who ref.ctx) (d.word 1).toNat 64 (s.begun ref d) = .ok bs s1 →
    (let ws := bytesWords 8 bs
     let p := fld (d.word 2) 0 4
     let x := s1.ctx ref.ctx
     let set_ : Act Unit := (List.range 3).forM (fun t => do
       let r := (poolOf ws).regions.getD t (0, 0)
       if r.2 ≠ 0 then do
         let ps ← xlRange (d.who ref.ctx) r.1 r.2 true
         require (ps.all (fun q => s1.ofTier t q.1)) (badRecord (2 + 2 * t) 0)
       else pure ())
     (poolBad ws = none → bit (wrd ws 0) 0 = true → ((poolOf ws).regions.getD 2 (0, 0)).2 = 0 ∨ s1.capBit 0 = true → x.frozen = false →
       (x.pool p).saves = [] → ∀ s2, set_ s1 = .ok () s2 →
       exec (.actPoolSet ref) s = .next ((s2.modCtx ref.ctx (fun y => y.setPool p (poolOf ws))).ended ref 0x00 0)) ∧
     (poolBad ws = none → bit (wrd ws 0) 0 = false → x.frozen = false →
     ((x.pool p).saves = [] → exec (.actPoolSet ref) s = .next ((s1.modCtx ref.ctx (fun y => y.setPool p ActPool.reset)).ended ref 0x00 0)) ∧
     ((x.pool p).saves ≠ [] → exec (.actPoolSet ref) s = .next (s1.ended ref 0x12 (at_ x.stateByte 0 ||| at_ 0x0501 16)))))) ∧
  (∀ (s : State) (ref : DescRef) (d : Desc), s.issues ref 0x502 d → firstFail (d.act.checks (s.ctx ref.ctx)) = none →
    fld (d.word 2) 6 2 = 0 → fld (d.word 2) 15 49 = 0 → fld (d.word 4) 32 32 = 0 →
    (∀ j ∈ [5, 6, 7, 8, 9, 10, 13, 14], d.word j = 0) →
    (let x := s.ctx ref.ctx
     let b := s.begun ref d
     let k := d.act
     let w := d.who ref.ctx
     let p := x.pool k.pool
     let stop (r : Nat) := exec (.actSave ref) s = .next (b.ended ref 0x12 (at_ x.stateByte 0 ||| at_ r 16))
     (p.valid = false → stop 0x0507) ∧
     (p.valid = true → p.entries ≤ p.saves.length → stop 0x0503) ∧
     (k.d0 = 64 → k.d1 = 64 → p.valid = true → p.saves.length < p.entries →
       (p.room b w 4160 = none → stop 0x0502) ∧
       (∀ t, p.room b w 4160 = some t →
         (let off := p.tops.getD t 0 * 64
          let base := (p.regions.getD t (0, 0)).1 + off
          let i := p.saves.length
          ∀ (s1 s2 s3 s4 s5 v : State) (rows : List (List Byte)), judgeVa w base 4160 b = .ok () s1 →
            judgeVa w (p.tableVa.toNat + 16 * i) 16 s1 = .ok () s2 →
            (List.range 64).mapM (fun r => rdSp w k.opnd.sp (k.opnd.addr + r * k.str) 64) s2 = .ok rows s3 →
            rows.flatten.length = 4096 → wrVa w base (pad64 (leBytes 4 64)) s3 = .ok () s4 → wrVa w (base + 64) rows.flatten s4 = .ok () s5 →
            wrVa w (p.tableVa.toNat + 16 * i) (wordsBytes [at_ t 0 ||| at_ (fld (d.word 2) 8 4) 4 ||| at_ 65 8, BitVec.ofNat 64 off]) s5
              = .ok () v →
            exec (.actSave ref) s = .next ((v.modCtx ref.ctx (fun y => y.setPool k.pool { y.pool k.pool with
                tops := (y.pool k.pool).tops.set t ((y.pool k.pool).tops.getD t 0 + 65),
                saves := (y.pool k.pool).saves ++ [[t, 0, fld (d.word 2) 8 4, 65, off, 4096, i]] })).ended ref 0x00
              (at_ i 0 ||| at_ t 24 ||| at_ 65 26))))))) ∧
  (∀ (s : State) (ref : DescRef) (d : Desc), s.issues ref 0x503 d → firstFail (d.act.checks (s.ctx ref.ctx)) = none →
    fld (d.word 2) 7 1 = 0 → fld (d.word 2) 32 32 = 0 → fld (d.word 4) 32 32 = 0 → (s.ctx ref.ctx).frozen = false →
    (∀ j ∈ [5, 6, 7, 8, 9, 10, 11, 12, 13, 14], d.word j = 0) →
    (let x := s.ctx ref.ctx
     let b := s.begun ref d
     let k := d.act
     let w := d.who ref.ctx
     let p := x.pool k.pool
     let i := fld (d.word 2) 8 24
     let rel := bit (d.word 2) 6
     let e := p.saves.getD i []
     let stop (r : Nat) := exec (.actLoad ref) s = .next (b.ended ref 0x12 (at_ x.stateByte 0 ||| at_ r 16))
     (p.valid = false → stop 0x0507) ∧
     (p.valid = true → p.saves.length ≤ i → stop 0x0504) ∧
     (p.valid = true → i < p.saves.length → e.getD 5 0 = k.bytes → rel = true → i + 1 ≠ p.saves.length → stop 0x0505) ∧
     (p.valid = true → i < p.saves.length → k.d0 = 4096 → k.d1 = 1 → e.getD 5 0 = 4096 → e.getD 1 0 = 0 → rel = false →
       (let base := (p.regions.getD (e.getD 0 0) (0, 0)).1 + e.getD 4 0
        ∀ (s1 s2 s3 v : State) (dir bs : List Byte), judgeDst w k.opnd.sp 4096 [k.opnd.addr] b = .ok () s1 → rdVa w base 64 s1 = .ok dir s2 →
          leNat (dir.take 4) = 64 → rdVa w (base + 64) 4096 s2 = .ok bs s3 → bs.length = 4096 →
          wrSp w k.opnd.sp k.opnd.addr bs s3 = .ok () v → exec (.actLoad ref) s = .next (v.ended ref 0x00 0)))))

/-- MEM_ADD with immediate dimensions above 0 that passes its checks, every row of its source (in context memory, a scratchpad or a pool
window) readable, every row of its destination translated in stack memory and outside every guard: it goes on executing with one line
per 64 B piece of each destination row, in row order, and its issue changes no byte of memory but for what its reads do; while its
destination overlaps that of one on its engine it waits to start, with its dimensions, not issued. Each line of the lowest row that
reaches its controller is one read, the addition of its elements and one write, all in one step, and the descriptor goes on with the
lines left; the last line ends it with 0x00, the rows and the flags met. With ZERO_FIRST the line is written without being read. A last
line that fails ends the descriptor with its status; the lines that it kept say how many rows were added should it be withdrawn. (R226,
R227, R228, R215) -/
def Obligations.MemoryAdds : Prop :=
  (∀ (s : State) (ref : DescRef) (d : Desc), s.issues ref 0x504 d → (∀ ds, d.prog ≠ .memWait ds) → d.adduse.plan = 0xFFF → d.adduse.bound = false →
    firstFail (addChecks (s.ctx ref.ctx) d (some d.adduse.imm)) = none → (s.ctx ref.ctx).frozen = false →
    (let w := d.who ref.ctx
     let d0 := fld (d.word 4) 0 32
     let d1 := fld (d.word 4) 32 32
     let sf := fld (d.word 3) 2 4
     let eb := codeBytes (fld (d.word 3) 6 4) 1
     (d0 = 0 ∨ d1 = 0 → exec (.memAdd ref) s = .next ((s.begun ref d).ended ref 0x01 0)) ∧
     (d0 ≠ 0 → d1 ≠ 0 → judgeAdd ref.ctx d [d0, d1] (s.begun ref d) = .ok () (s.begun ref d) →
       ∀ (s1 s2 : State) (pss : List (List (Nat × Nat))),
       ((List.range d1).forM (fun r => do
         if d.addSrc.sp = 0 then let _ ← xlRange w (d.addSrc.addr + r * fld (d.word 5) 0 32) (d0 * codeBytes sf 1) false
         else pure ()) : Act Unit) (s.begun ref d) = .ok () s1 →
       ((List.range d1).mapM (fun r => xlRange w ((d.word 2).toNat + r * fld (d.word 5) 32 32) (d0 * eb) true)
         : Act (List (List (Nat × Nat)))) s1 = .ok pss s2 →
       (∀ p ∈ pss.flatten, (∃ n, s2.backing p.1 = .stack n) ∧ s2.guardedRange (s2.home p.1) p.2 = false) →
       (let tq := s2.ringSeat ref.ctx d.ring
        (s2.addBusy ref.ctx tq.1 tq.2 d pss.flatten = true → exec (.memAdd ref) s =
          .next ((s2.setProg ref.ctx ref.ring ref.index (.memWait [d0, d1])).modDesc ref.ctx ref.ring ref.index
            (fun e => { e with st := .waiting, issued := false }))) ∧
        (s2.addBusy ref.ctx tq.1 tq.2 d pss.flatten = false → ∀ (s3 : State) (bss : List (List Byte)),
          ((List.range d1).mapM (fun r => rdSp w d.addSrc.sp (d.addSrc.addr + r * fld (d.word 5) 0 32) (d0 * codeBytes sf 1))
            : Act (List (List Byte))) s2 = .ok bss s3 →
          (let lines := ((List.range d1).map (fun r => rowLines eb r d0
             ((List.range d0).map (fun i => elemF32 sf (elemBits (bss.getD r []) (codeBits sf) i))) (pss.getD r [])
             ((d.word 2).toNat + r * fld (d.word 5) 32 32) 0)).flatten
           exec (.memAdd ref) s = .next (s3.setProg ref.ctx ref.ring ref.index (.memAdd tq.1 tq.2 lines d1 0 false pss.flatten)) ∧
           (d.addSrc.sp ≠ 0 → s3.mem = s.mem))))))) ∧
  (∀ (s s1 : State) (ref : DescRef) (d : Desc) (t q rows : Nat) (l : AddLine) (fl g : NumFlags) (r : Bool) (ps : List (Nat × Nat)), s.runs ref 0x504 d →
    d.prog = .memAdd t q [l] rows g r ps → l.row < rows →
    addLine (d.who ref.ctx) d.addForm l s = .ok fl s1 →
    exec (.memAddLine ref 0) s = .next (s1.ended ref 0x00 (at_ rows 0 ||| nfResult (g ||| fl)))) ∧
  (∀ (s s1 : State) (ref : DescRef) (d : Desc) (t q rows : Nat) (l : AddLine) (st : Stop) (g : NumFlags) (r : Bool) (ps : List (Nat × Nat)), s.runs ref 0x504 d →
    d.prog = .memAdd t q [l] rows g r ps → l.row < rows →
    addLine (d.who ref.ctx) d.addForm l s = .error st s1 → exec (.memAddLine ref 0) s =
      .next ((s1.tick.ended ref st.status st.result).setProg ref.ctx ref.ring ref.index d.prog)) ∧
  (∀ (s s1 : State) (ref : DescRef) (d : Desc) (t q rows k : Nat) (ls : List AddLine) (l : AddLine) (fl g : NumFlags) (r : Bool)
    (ps : List (Nat × Nat)), s.runs ref 0x504 d → d.prog = .memAdd t q ls rows g r ps →
    (ls.filter (fun x => x.row == lowestRow ls rows))[k]? = some l → ls.filter (· == l) = [l] → ls ≠ [l] →
    addLine (d.who ref.ctx) d.addForm l s = .ok fl s1 →
    (let rest := ls.filter (fun x => !(x == l))
     exec (.memAddLine ref k) s = .next (s1.setProg ref.ctx ref.ring ref.index
       (.memAdd t q rest rows (g ||| fl) (rest.any (fun x => x.row == lowestRow ls rows)) ps)))) ∧
  (∀ (w : Who) (f : AddForm) (l : AddLine) (s s1 : State) (fl : NumFlags), addLine w f l s = .ok fl s1 →
    ∃ old s0, (if f.zero then old = [] ∧ s0.mem = s.mem else rdPa w l.pa (l.vals.length * codeBytes f.fmt 1) s = .ok old s0) ∧
      fl = (f.apply l old).2 ∧ ((f.apply l old).1.length = l.vals.length * codeBytes f.fmt 1 ∧ wrPa w l.pa (f.apply l old).1 s0 = .ok () s1))

/-- A stack's scrub that has read every line counts itself; every uncorrectable line that it found on that stack is one that no access can
have until it is written whole, and no byte of memory, register of a context or descriptor changes. A scrub of a DIMM channel in
service, of a tile's pool, and of the scratchpad of a core that holds a seat does the same for its lines and words. An uncorrectable
word of a context's own state is kept for that context, and a DMA_COPY that uses it and would run ends with 0x31 and the store's SOURCE
and changes no byte of memory; a bad routing entry counts as not VALID; ring-engine state that held a descriptor ends it with 0x7F and
the log entry's index; bad Bluone SRAM restarts Bluone (how these come in: model's choice, log 92). A held core that passes its self-
test with fewer than three faults is free again; one that fails, met a fault during the test or has three faults, is retired: its
ENABLED and NARROWED bits clear and the count of retired cores goes up. A lost stack is marked lost and ALERT is raised, and a failing
DIMM channel leaves service; no context changes at that moment, and no byte of memory. That lines become uncorrectable by findings alone
is log entry 62; that MGT_ALERT_N stays low is log entry 81. (R214, R217, R451, R452, R454, R456, R457, R460) -/
def Obligations.ScrubsAndSelfTests : Prop :=
  (∀ (s : State) (n : Nat) (found : List Finding), n < s.nStacks → (s.stack n).inService = true → (s.stack n).lost = false →
    ∃ t, exec (.stackPatrolScrub n found) s = .next t ∧ (t.stack n).scrubCnt = satInc (s.stack n).scrubCnt ∧ t.mem = s.mem ∧
      t.ctxs = s.ctxs ∧ (∀ j, j ≠ n → t.stack j = s.stack j) ∧ t.outs = s.outs ∧
      (∀ a, .uncorrectable a ∈ found → s.backing a = .stack n → a / 64 ∈ t.ueLines ∧ (t.stack n).ue = true) ∧ (∀ m ∈ s.ueLines, m ∈ t.ueLines)) ∧
  (∀ (s : State) (ch : Nat) (found : List Finding), ch < 16 → (s.dimm ch).state = 1 →
    ∃ t, exec (.dimmPatrolScrub ch found) s = .next t ∧ t.mem = s.mem ∧ t.ctxs = s.ctxs ∧ t.stks = s.stks ∧ (t.dimm ch).state = 1 ∧
      (∀ a, .uncorrectable a ∈ found → s.backing a = .dimm ch → a / 64 ∈ t.ueLines) ∧ (∀ m ∈ s.ueLines, m ∈ t.ueLines)) ∧
  (∀ (s : State) (t : Nat) (found : List Finding), t < s.nTiles → (s.tile t).inService = true → (∀ u, Finding.upset u ∉ found) →
    ∃ v, exec (.sramPatrolScrub t none found) s = .next v ∧ v.mem = s.mem ∧ v.ctxs = s.ctxs ∧ (v.tile t).pool = (s.tile t).pool ∧
      (∀ a, .uncorrectable a ∈ found → a / 8 ∈ (v.tile t).poolBad) ∧ (∀ m ∈ (s.tile t).poolBad, m ∈ (v.tile t).poolBad)) ∧
  (∀ (s : State) (t n c q : Nat) (found : List Finding), t < s.nTiles → (s.tile t).inService = true → s.seatOn t n = some (c, q) →
    (∀ u, Finding.upset u ∉ found) →
    ∃ v, exec (.sramPatrolScrub t (some n) found) s = .next v ∧ v.mem = s.mem ∧ (v.tile t).pool = (s.tile t).pool ∧
      v.ctx c = { s.ctx c with seats := (v.ctx c).seats } ∧ (∀ j, j ≠ c → v.ctx j = s.ctx j) ∧
      ((v.ctx c).seat t q).sp = ((s.ctx c).seat t q).sp ∧ (∀ a, .uncorrectable a ∈ found → a / 8 ∈ ((v.ctx c).seat t q).bad) ∧
      (∀ m ∈ ((s.ctx c).seat t q).bad, m ∈ ((v.ctx c).seat t q).bad)) ∧
  (∀ (s : State) (t : Nat), t < s.nTiles → (s.tile t).inService = true →
    (∀ (c : Nat) (b : BadWord), (s.ctx c).st ≠ .empty → ∃ v, exec (.sramPatrolScrub t none [.upset (.store c b)]) s = .next v ∧ s.onlyCtx v c ∧
      b ∈ (v.ctx c).badWords ∧ v.ctx c = { s.ctx c with badWords := (v.ctx c).badWords }) ∧
    (∀ (e : Nat), e ≠ s.lnk.epid.toNat → ∃ v, exec (.sramPatrolScrub t none [.upset (.route e)]) s = .next v ∧ v.route e = .noEntry ∧
      v.ctxs = s.ctxs ∧ v.mem = s.mem ∧ ∀ j, j ≠ e → v.route j = s.route j) ∧
    (∀ (r : DescRef) (d : Desc), s.desc r = some d → d.st ≠ .done → (s.ctx r.ctx).st = .run ∨ (s.ctx r.ctx).st = .paused ∨ (s.ctx r.ctx).st = .drain →
      ∃ v e, exec (.sramPatrolScrub t none [.upset (.ringEngine [r])]) s = .next v ∧ v.desc r = some e ∧ e.st = .done ∧ e.status = 0x7F ∧
        e.result = BitVec.ofNat 64 s.logIndex ∧ v.err.internal = true ∧ v.err.internalCnt = satInc s.err.internalCnt ∧ v.mem = s.mem) ∧
    (s.blu.halted = false → s.pins.inputGood = true → ∃ v, exec (.sramPatrolScrub t none [.upset .bluone]) s = .next v ∧ v.blu.stage = 0 ∧
      v.blu.nonce = none ∧ v.sec.wdogCnt = s.sec.wdogCnt ∧ v.ctxs = s.ctxs ∧ v.mem = s.mem)) ∧
  (∀ (s : State) (ref : DescRef) (d : Desc) (b : BadWord), s.desc ref = some d → d.opcode = 0x500 → s.mayIssue ref.ctx d = true →
    s.badFor ref.ctx d = [b] → b.unit < 16 → (∃ o t, unitDmaCopy ref.ctx d (s.begun ref d) = .ok o t ∧ ∀ st, o = some st → st.status = 0) →
    ∃ v e, exec (.dmaCopy ref) s = .next v ∧ v.desc ref = some e ∧ e.st = .done ∧ e.status = 0x31 ∧ fld e.result 0 4 = storeSource b.store ∧
      fld e.result 4 4 = b.unit ∧ fld e.result 12 42 = b.line % 2 ^ 42 ∧ v.mem = s.mem ∧ ∀ j, j ≠ ref.ctx → v.ctx j = s.ctx j) ∧
  (∀ (s : State) (t n : Nat) (pass : Bool), ((s.tile t).core n).held = true → n < 18 →
    (pass = true → ((s.tile t).core n).faultInTest = false → ((s.tile t).core n).faultCnt.toNat < 3 →
      exec (.coreSelfTestDone t n pass) s = .next (s.modTile t (fun e => e.modCore n (fun x => { x with held := false })))) ∧
    (pass = false ∨ ((s.tile t).core n).faultInTest = true ∨ 3 ≤ ((s.tile t).core n).faultCnt.toNat → ∃ v, exec (.coreSelfTestDone t n pass) s = .next v ∧
      (v.tile t).enabled.getLsbD n = false ∧ (v.tile t).narrowed.getLsbD n = false ∧ ((v.tile t).core n).held = false ∧
      (∀ j, j ≠ n → (v.tile t).enabled.getLsbD j = (s.tile t).enabled.getLsbD j) ∧
      (v.tile t).retiredCnt = satInc (s.tile t).retiredCnt ∧ v.ctxs = s.ctxs ∧ v.mem = s.mem)) ∧
  (∀ (s : State) (n : Nat), n < s.nStacks → (s.stack n).lost = false → ∃ t, exec (.stackLost n) s = .next t ∧ t.stack n = { s.stack n with lost := true } ∧
    (∀ j, j ≠ n → t.stack j = s.stack j) ∧ t.ctxs = s.ctxs ∧ t.mem = s.mem ∧ t.pins.alert = true) ∧
  (∀ (s : State) (ch : Nat), ch < 16 → (s.dimm ch).state = 1 → ∃ t, exec (.dimmChannelFail ch) s = .next t ∧ (t.dimm ch).state = 3 ∧
    (∀ j, j ≠ ch → t.dimm j = s.dimm j) ∧ t.ctxs = s.ctxs ∧ t.mem = s.mem)

/-- RDD that ends a read which decodes (at most 16 corrected bits, the right tag): the request is gone, a line with corrected bits and a
retried read are counted, a line with 14 bits or a retry waits for a rewrite, and no byte of memory or context changes. One that does
not decode before the fifth attempt sends the read again with the next VSHIFT; the fifth counts the line and, with no swap running,
marks it unreadable. WRA with STATUS 0 ends its write, and where no descriptor awaits it no context changes; with STATUS 1, a spare left
and no swap running the line's slot stands for the next spare line and the write stays, to be sent again. MRD of the identity, the
temperature and the factory map takes the value; EVT 1 and 2 say that the device is above 85 °C and at 95 °C, 4 that it is below 85 °C
again, 3 that the hold-up ended. RDD, MRD and EVT accept the packet: the expected sequence number advances. A device out of service
answers to none. Model's choices: reads take their bytes at issue (log entry 57), rewrites come at the next Dew read (58), VERIFY_FAIL
of copies is free (76). (R238, R239, R243, R244, R250, R252) -/
def Obligations.PermafrostResponses : Prop :=
  (∀ (s : State) (n ack tag : Nat) (x : Sense) (r : PmtReq), (s.pdev n).reqByTag false tag = some r → s.frostTalks n = true →
    (∀ b, x.bits = some b → b ≤ 16 → x.tag = true → ∃ v, exec (.rdd n ack tag 0 x) s = .next v ∧ v.mem = s.mem ∧ v.ctxs = s.ctxs ∧
      (∀ q ∈ (v.pdev n).reqs, q.id ≠ r.id) ∧ (v.pdev n).rxSeq = ((s.pdev n).rxSeq + 1) % 4096 ∧
      (v.pdev n).corrCnt = (if 0 < b then satInc (s.pdev n).corrCnt else (s.pdev n).corrCnt) ∧
      (v.pdev n).retryCnt = (if 0 < r.tries then satInc (s.pdev n).retryCnt else (s.pdev n).retryCnt) ∧
      (14 ≤ b ∨ 0 < r.tries → (s.pdev n).lineOf r.line ∈ (v.pdev n).rewriteQ) ∧
      ((s.pdev n).swap = none → (v.pdev n).bad = (s.pdev n).bad)) ∧
    ((∀ b, x.bits = some b → 16 < b ∨ x.tag = false) → r.tries < 4 → ∃ v more line, exec (.rdd n ack tag 0 x) s = .next v ∧ v.ctxs = s.ctxs ∧
      ((s.pdev n).swap = none → line = (s.pdev n).lineOf r.line) ∧
      v.outs = s.outs ++ .pmt n (pmtPacket 1 [tag, line, [0, 1, 15, 2, 14].getD (r.tries + 1) 0] [] (s.pdev n).txSeq
        (((s.pdev n).rxSeq + 1) % 4096)) :: more) ∧
    ((∀ b, x.bits = some b → 16 < b ∨ x.tag = false) → 4 ≤ r.tries → ∃ v, exec (.rdd n ack tag 0 x) s = .next v ∧
      ((s.pdev n).swap = none → ∃ e ∈ (v.pdev n).bad, e.1 = (s.pdev n).lineOf r.line) ∧ (v.pdev n).uncorr = true ∧
      (v.pdev n).uncorrCnt = satInc (s.pdev n).uncorrCnt)) ∧
  (∀ (s : State) (n ack tag : Nat) (r : PmtReq), (s.pdev n).reqByTag true tag = some r → s.frostTalks n = true →
    ((∀ e ∈ s.ctxs, ∀ d ∈ e.2.descs, ∀ ids rc, d.prog = .persist ids rc → r.id ∉ ids) → ∃ v, exec (.wra n ack tag 0) s = .next v ∧
      v.ctxs = s.ctxs ∧ v.mem = s.mem ∧ (∀ q ∈ (v.pdev n).reqs, q.id ≠ r.id)) ∧
    ((s.pdev n).spares < 1966 * 262144 → (s.pdev n).swap = none → ∃ v, exec (.wra n ack tag 1) s = .next v ∧ v.mem = s.mem ∧ v.ctxs = s.ctxs ∧
      (v.pdev n).remapped (r.slot (s.pdev n)) = 28672 * 262144 + (s.pdev n).spares ∧ (v.pdev n).spares = (s.pdev n).spares + 1 ∧
      (v.pdev n).grownCnt = satInc (s.pdev n).grownCnt ∧ ∃ q ∈ (v.pdev n).reqs, q.id = r.id)) ∧
  (∀ (s : State) (n ack value : Nat), s.frostTalks n = true →
    (∃ v, exec (.mrd n ack 0x00 value) s = .next v ∧ s.onlyPdev v n ∧ (v.pdev n).id = BitVec.ofNat 24 value
      ∧ (v.pdev n).rxSeq = ((s.pdev n).rxSeq + 1) % 4096) ∧
    (∃ v, exec (.mrd n ack 0x01 value) s = .next v ∧ (v.pdev n).temp = BitVec.ofNat 8 value ∧ (v.pdev n).hot = decide (85 < value) ∧
      (v.pdev n).veryHot = (decide (95 ≤ value) || (decide (85 < value) && (s.pdev n).veryHot)) ∧ v.mem = s.mem ∧ v.ctxs = s.ctxs
      ∧ (v.pdev n).rxSeq = ((s.pdev n).rxSeq + 1) % 4096) ∧
    (∃ v, exec (.mrd n ack 0x02 value) s = .next v ∧ s.onlyPdev v n ∧ (v.pdev n).factoryMap = BitVec.ofNat 24 value
      ∧ (v.pdev n).rxSeq = ((s.pdev n).rxSeq + 1) % 4096) ∧
    (∃ v, exec (.evt n ack 3) s = .next v ∧ s.onlyPdev v n ∧ (v.pdev n).heldUp = true ∧ (v.pdev n).alertN = false
      ∧ (v.pdev n).rxSeq = ((s.pdev n).rxSeq + 1) % 4096) ∧
    (∀ code ∈ [1, 2, 4], ∃ v, exec (.evt n ack code) s = .next v ∧ (v.pdev n).hot = decide (code ≠ 4) ∧
      (v.pdev n).veryHot = (decide (code = 2) || (decide (code = 1) && (s.pdev n).veryHot)) ∧ (v.pdev n).heldUp = (s.pdev n).heldUp ∧
      (v.pdev n).rxSeq = ((s.pdev n).rxSeq + 1) % 4096 ∧ v.mem = s.mem ∧ v.ctxs = s.ctxs ∧ ∀ j, j ≠ n → v.pdev j = s.pdev j)) ∧
  (∀ (s : State) (n a b c : Nat) (x : Sense) (w : Bool), s.frostTalks n = false → exec (.rdd n a b c x) s = .next s ∧
    exec (.wra n a b c) s = .next s ∧ exec (.mrd n a b c) s = .next s ∧ exec (.evt n a b) s = .next s ∧ exec (.pmtNak n a b) s = .next s ∧
    exec (.pmtResendTimeout n a b) s = .next s ∧ exec (.pmtResponseTimeout n w a b) s = .next s ∧ exec (.pmtBadPacket n a b) s = .next s)

/-- A NAK sends every unacknowledged packet again with its own sequence number, and the resend timeout the packet of its number, but no WR
once a power failure is announced or the hold-up has ended; the response timeout sends its request again, up to three times, and then
the request is gone and the executing descriptor that read ends with 0x32, CAUSE 3; a packet with a bad CRC and no NAK outstanding is
answered by one, one that is dropped counts in the sequence, and each counts a violation. A retrain's end makes the device active again,
a read-only one read-only. A wear evaluation after 2^24 writes starts the swap of R246 where the pair's wear differs by the threshold,
and none otherwise; the swap's end exchanges the two physical regions in the map. A Dew pass starts at line 0 with 4,096 canary writes;
a read line that decodes below the margins moves on to the next, and past the last line the pass ends and counts. No other of these
changes a context. Model's choices: ACK follows a dropped response, and a swap's pace is free (log entry 76); a read takes its bytes at
its issue, and one that fails later ends its descriptor (log entry 57). (R239, R240, R245, R246, R247, R248, R249) -/
def Obligations.PermafrostReplayWearAndDew : Prop :=
  (∀ (s : State) (n ack seq now : Nat), s.frostTalks n = true → (∀ p ∈ (s.pdev n).sent, p.resends < 7) →
    (∃ v, exec (.pmtNak n ack now) s = .next v ∧ v.ctxs = s.ctxs ∧ v.mem = s.mem ∧
      v.outs = s.outs ++ ((((s.pdev n).accept ack).sent.filter (fun p => !(p.code == 2 && s.pmtMute n))).map (fun p => .pmt n (pmtPacket p.code p.args p.payload p.seq (((s.pdev n).rxSeq + 1) % 4096))))) ∧
    (∃ v, exec (.pmtResendTimeout n seq now) s = .next v ∧ v.ctxs = s.ctxs ∧ v.mem = s.mem ∧
      v.outs = s.outs ++ (((s.pdev n).sent.filter (fun p => p.seq == seq && !(p.code == 2 && s.pmtMute n))).map (fun p => .pmt n (pmtPacket p.code p.args p.payload p.seq (s.pdev n).rxSeq))))) ∧
  (∀ (s : State) (n tag now : Nat) (w : Bool) (r : PmtReq), s.frostTalks n = true → (s.pdev n).reqByTag w tag = some r → r.reissues < 3 → s.pmtMute n = false →
    (s.pdev n).violTimes.length < 15 → ∃ v, exec (.pmtResponseTimeout n w tag now) s = .next v ∧ v.ctxs = s.ctxs ∧ v.mem = s.mem ∧
      (v.pdev n).protoCnt = satInc (s.pdev n).protoCnt ∧ (v.pdev n).proto = true ∧ v.outs.length = s.outs.length + 1 ∧
      ∃ q ∈ (v.pdev n).reqs, q.id = r.id ∧ q.reissues = r.reissues + 1) ∧
  (∀ (s : State) (n tag now : Nat) (w : Bool) (r : PmtReq), s.frostTalks n = true → (s.pdev n).reqByTag w tag = some r → 3 ≤ r.reissues →
    (s.pdev n).violTimes.length < 15 → ∃ v, exec (.pmtResponseTimeout n w tag now) s = .next v ∧
      (v.pdev n).protoCnt = satInc (s.pdev n).protoCnt ∧ (∀ q ∈ (v.pdev n).reqs, q.id ≠ r.id) ∧
      (∀ d, r.write = false → r.keep = false → (∀ q ∈ (s.pdev n).reqs, q.after_ ≠ some r.id) → s.desc ⟨r.ctx, r.ring, r.index⟩ = some d →
        d.st = .executing → d.issued = true → ∃ e, v.desc ⟨r.ctx, r.ring, r.index⟩ = some e ∧ e.st = .done ∧ e.status = 0x32 ∧
          fld e.result 0 3 = n % 8 ∧ fld e.result 39 4 = 3 ∧ (∀ j, j ≠ r.ctx → v.ctx j = s.ctx j) ∧ v.mem = s.mem)) ∧
  (∀ (s : State) (n now : Nat), s.frostTalks n = true → (s.pdev n).nakOut = false → (s.pdev n).violTimes.length < 15 →
    ∃ v, exec (.pmtBadPacket n 1 now) s = .next v ∧ (v.pdev n).nakOut = true ∧ (v.pdev n).protoCnt = satInc (s.pdev n).protoCnt ∧
      v.outs = s.outs ++ [.pmt n (pmtPacket 6 [] [] (s.pdev n).txSeq (s.pdev n).rxSeq)] ∧ v.ctxs = s.ctxs ∧ v.mem = s.mem) ∧
  (∀ (s : State) (n now : Nat), s.frostTalks n = true → (s.pdev n).violTimes.length < 15 →
    ∃ v, exec (.pmtBadPacket n 2 now) s = .next v ∧ s.onlyPdev v n ∧ (v.pdev n).rxSeq = ((s.pdev n).rxSeq + 1) % 4096 ∧
      (v.pdev n).protoCnt = satInc (s.pdev n).protoCnt) ∧
  (∀ (s : State) (n : Nat), n < 8 → s.variant.full = true → (s.pdev n).state = 1 → ∃ v, exec (.pmtRetrainDone n) s = .next v ∧
    (v.pdev n).state = (if (s.pdev n).rdonly then 3 else 2) ∧ v.ctxs = s.ctxs ∧ v.mem = s.mem ∧ (∀ q ∈ (s.pdev n).reqs, ∃ p ∈ (v.pdev n).reqs, p.id = q.id)) ∧
  (∀ (s : State) (n : Nat), s.frostTalks n = true → 2 ^ 24 ≤ (s.pdev n).taken → (s.pdev n).swap = none → ∃ v,
    exec (.wearSwapEval n) s = .next v ∧ s.onlyPdev v n ∧ (v.pdev n).taken = (s.pdev n).taken - 2 ^ 24 ∧ (v.pdev n).map = (s.pdev n).map ∧
    (∀ h l, (s.pdev n).swapPair = some (h, l) →
      (v.pdev n).swap = (if (s.pdev n).wearOf ((s.pdev n).phys l) + (s.pdie n).swapDelta.toNat * 1024
        ≤ (s.pdev n).wearOf ((s.pdev n).phys h) then some (h, l) else none)) ∧
    ((s.pdev n).swapPair = none → (v.pdev n).swap = none)) ∧
  (∀ (s : State) (n h l : Nat), (s.pdev n).swap = some (h, l) → h ≠ l →
    (∀ p, (s.pdev n).wearOf p + 2 < 18000000) → ∃ v, exec (.wearSwapComplete n) s = .next v ∧
    (v.pdev n).swap = none ∧ (v.pdev n).phys h = (s.pdev n).phys l ∧ (v.pdev n).phys l = (s.pdev n).phys h ∧
    (∀ k, k ≠ h → k ≠ l → (v.pdev n).phys k = (s.pdev n).phys k) ∧ v.ctxs = s.ctxs ∧ v.mem = s.mem) ∧
  (∀ (s : State) (n : Nat), s.frostTalks n = true → (s.pdev n).dew = false → ∃ v, exec (.dewPassStart n) s = .next v ∧ s.onlyPdev v n ∧
    (v.pdev n).dew = true ∧ (v.pdev n).dewNext = 0 ∧ (v.pdev n).taken = (s.pdev n).taken + 4096) ∧
  (∀ (s : State) (n b : Nat) (x : Sense) (more : List Sense), s.frostTalks n = true → (s.pdev n).dew = true → (s.pdev n).rewriteQ = [] →
    senseGood x = some b → b < (s.pdie n).dewBits.toNat → x.margin < (s.pdie n).dewMargin.toNat →
    (∀ e ∈ (s.pdev n).bad, e.1 ≠ (s.pdev n).dewNext) → ∃ v, exec (.dewLineRead n (x :: more)) s = .next v ∧ v.ctxs = s.ctxs ∧ v.mem = s.mem ∧
      ((s.pdev n).dewNext + 1 ≠ 2 ^ 33 → (v.pdev n).dewNext = (s.pdev n).dewNext + 1 ∧ (v.pdev n).dew = true) ∧
      ((s.pdev n).dewNext + 1 = 2 ^ 33 → (v.pdev n).dew = false ∧ (v.pdev n).dewNext = 0 ∧ (v.pdie n).passCnt = satInc (s.pdie n).passCnt)) ∧
  (∀ (s : State) (n : Nat), ∃ v, exec (.urgentDewEnd n) s = .next v ∧ s.onlyPdev v n ∧ v.pdev n = { s.pdev n with urgent := false })

/-- PMT_CKPT_SET outside FROZEN with aligned words: of SIZE 0 it empties its slot; of a range that lies on the tier and meets no other
checkpoint region it sets the slot, and ends with 0x00; in FROZEN it ends with 0x12, reason 0x0511; over another region with 0x0513.
PMT_PERSIST of everything ends with 0x00 at once where no write of the context's completed descriptors is outstanding, and else goes on
executing and awaits exactly those. PMT_COMMIT with no checkpoint region that holds its record ends with 0x12, reason 0x0512; with its
source read and nothing outstanding in the region it writes the 256 B record and awaits that write; with writes outstanding it awaits
them first and writes no byte. The order of PMT_CKPT_SET's checks is the model's (log entry 59). (R254, R255, R256) -/
def Obligations.PermafrostCheckpoints : Prop :=
  (∀ (s : State) (ref : DescRef) (d : Desc), s.issues ref 0x510 d → (d.word 1).toNat % 65536 = 0 → (d.word 2).toNat % 65536 = 0 →
    fld (d.word 3) 2 62 = 0 → (∀ j ∈ [4, 5, 6, 7], d.word j = 0) →
    (let k := fld (d.word 3) 0 2
     let va := (d.word 1).toNat
     let n := (d.word 2).toNat
     let x := s.ctx ref.ctx
     (x.frozen = true → exec (.pmtCkptSet ref) s = .next ((s.begun ref d).ended ref 0x12 (at_ x.stateByte 0 ||| at_ 0x0511 16))) ∧
     (x.frozen = false → n = 0 → exec (.pmtCkptSet ref) s = .next (((s.begun ref d).modCtx ref.ctx (fun y =>
       { y with ckpts := tdel y.ckpts k })).ended ref 0x00 0)) ∧
     (x.frozen = false → n ≠ 0 → (∃ e ∈ x.ckpts, e.1 ≠ k ∧ va < e.2.1 + e.2.2 ∧ e.2.1 < va + n) →
       exec (.pmtCkptSet ref) s = .next ((s.begun ref d).ended ref 0x12 (at_ x.stateByte 0 ||| at_ 0x0513 16))) ∧
     (x.frozen = false → n ≠ 0 → (∀ e ∈ x.ckpts, e.1 = k ∨ e.2.1 + e.2.2 ≤ va ∨ va + n ≤ e.2.1) → ∀ ps s1,
       frostRange (d.who ref.ctx) va n true (s.begun ref d) = .ok ps s1 → exec (.pmtCkptSet ref) s = .next ((s1.modCtx ref.ctx (fun y =>
         { y with ckpts := tput y.ckpts k (va, n) })).ended ref 0x00 0)))) ∧
  (∀ (s : State) (ref : DescRef) (d : Desc), s.issues ref 0x511 d → (d.word 2) = 0 → (∀ j ∈ [3, 4, 5, 6, 7], d.word j = 0) →
    (let b := s.begun ref d
     (b.frostPending ref.ctx none = [] → exec (.pmtPersist ref) s = .next (b.ended ref 0x00 0)) ∧
     (b.frostPending ref.ctx none ≠ [] →
       exec (.pmtPersist ref) s = .next (b.setProg ref.ctx ref.ring ref.index (.persist (b.frostPending ref.ctx none) none))))) ∧
  (∀ (s : State) (ref : DescRef) (d : Desc), s.issues ref 0x512 d → (d.word 1).toNat % 64 = 0 → (d.word 2).toNat % 256 = 0 →
    (∀ j ∈ [3, 4, 5, 6, 7], d.word j = 0) →
    (let w := d.who ref.ctx
     let b := s.begun ref d
     let dst := (d.word 2).toNat
     let x := s.ctx ref.ctx
     ((∀ e ∈ x.ckpts, dst < e.2.1 ∨ e.2.1 + e.2.2 < dst + 256) →
       exec (.pmtCommit ref) s = .next (b.ended ref 0x12 (at_ x.stateByte 0 ||| at_ 0x0512 16))) ∧
     (∀ (k va n : Nat), x.ckpts = [(k, va, n)] → va ≤ dst → dst + 256 ≤ va + n → ∀ (bs : List Byte) (ps : List (Nat × Nat)) (s1 s2 : State),
       rdVa w (d.word 1).toNat 256 b = .ok bs s1 → frostRange w va n true s1 = .ok ps s2 →
       (s2.frostPending ref.ctx (some ps) = [] → ∀ v, wrVa w dst bs s2 = .ok () v →
         exec (.pmtCommit ref) s = .next (v.setProg ref.ctx ref.ring ref.index (.persist [s2.pmt.nextReq] none))) ∧
       (s2.frostPending ref.ctx (some ps) ≠ [] → exec (.pmtCommit ref) s =
         .next (s2.setProg ref.ctx ref.ring ref.index (.persist (s2.frostPending ref.ctx (some ps)) (some (dst, bs))))))))

/-- HAIL_PREPARE without a front, for a valid IDLE group outside UPDATE and FROZEN: the context enters UPDATE; where TAG is EXPECT the group
becomes PREPARED with that tag and it ends with 0x00, TAG and the count of its ranges; else with 0x50 and EXPECT twice; a PARTIAL group
with its own tag becomes PREPARED at once, with another tag it ends with 0x12, reason 0x0603. HAIL_COMMIT of a PREPARED group with its
tag and no range ends with 0x01; with no units' progress yet it goes on executing, the group COMMITTING and no byte of memory changed;
once every range of its group is done it ends with 0x00, or 0x31 where a line could not be read. HAIL_ABORT of a PREPARED group returns
it to IDLE, or to PARTIAL where a range has been begun. Working out a weight line gives 64 bytes and at most 32 skipped elements and
writes nothing. (R266, R271, R272, R273, R274, R275, R277) -/
def Obligations.HailTransactions : Prop :=
  (∀ (s : State) (ref : DescRef) (d : Desc), s.issues ref 0x600 d → fld (d.word 1) 3 29 = 0 → fld (d.word 2) 32 32 = 0 →
    (∀ j ∈ [3, 4, 5, 6, 7], d.word j = 0) → d.frontId 2 = 0xFFFFFFFF → (s.ctx ref.ctx).update = false → (s.ctx ref.ctx).frozen = false →
    (let g := fld (d.word 1) 0 3
     let tag := BitVec.ofNat 32 (fld (d.word 1) 32 32)
     let x := s.ctx ref.ctx
     let grp := x.group g
     let u := (s.begun ref d).modCtx ref.ctx (fun y => { y with update := true })
     (grp.valid = true → grp.state = .partial_ →
       (tag = grp.prepTag → exec (.hailPrepare ref) s = .next ((u.modCtx ref.ctx (fun y =>
         { y with groups := tput y.groups g { grp with state := .prepared, prepTag := tag } })).ended ref 0x00
           (at_ tag.toNat 0 ||| at_ (x.ranges.filter (fun r => r.2.valid && r.2.group == g)).length 32))) ∧
       (tag ≠ grp.prepTag → exec (.hailPrepare ref) s = .next ((s.begun ref d).ended ref 0x12 (at_ x.stateByte 0 ||| at_ 0x0603 16)))) ∧
     (grp.valid = true → grp.state = .idle →
     (tag = grp.expect → exec (.hailPrepare ref) s = .next ((u.modCtx ref.ctx (fun y =>
       { y with groups := tput y.groups g { grp with state := .prepared, prepTag := tag } })).ended ref 0x00
         (at_ tag.toNat 0 ||| at_ (x.ranges.filter (fun r => r.2.valid && r.2.group == g)).length 32))) ∧
     (tag ≠ grp.expect → exec (.hailPrepare ref) s =
       .next (u.ended ref 0x50 (at_ grp.expect.toNat 0 ||| at_ grp.expect.toNat 32)))))) ∧
  (∀ (s : State) (ref : DescRef) (d : Desc) (adv : List Nat), s.issues ref 0x601 d → etaOk (BitVec.ofNat 32 (fld (d.word 2) 0 32)) = true →
    lambdaOk (BitVec.ofNat 32 (fld (d.word 2) 32 32)) = true → roundBad (fld (d.word 1) 3 3) = false → fld (d.word 1) 6 26 = 0 →
    (∀ j ∈ [3, 4, 5, 6, 7], d.word j = 0) → (s.ctx ref.ctx).update = true →
    (let g := fld (d.word 1) 0 3
     let x := s.ctx ref.ctx
     let u := ((s.begun ref d).modCtx ref.ctx (fun y => { y with groups := tput y.groups g { y.group g with state := .committing } })).setProg
       ref.ctx ref.ring ref.index (.hail 0 0 0 none)
     (x.group g).state = .prepared → (x.group g).prepTag.toNat = fld (d.word 1) 32 32 →
     ((∀ e ∈ x.ranges, e.2.valid = true → e.2.group ≠ g) → exec (.hailCommit ref adv) s = .next (u.ended ref 0x01 0)) ∧
     ((∃ n < 12, (s.hailNext ref.ctx g n).isSome) → exec (.hailCommit ref []) s = .next u))) ∧
  (∀ (s : State) (ref : DescRef) (d : Desc) (adv : List Nat) (e sk : Nat) (fl : NumFlags) (bad : Option DWord), s.runs ref 0x601 d →
    d.prog = .hail e sk fl bad → (s.ctx ref.ctx).waitsHere = true → (∀ n < 12, s.hailNext ref.ctx (fld (d.word 1) 0 3) n = none) →
    s.groupStacks ref.ctx (fld (d.word 1) 0 3) ≠ [] →
    exec (.hailCommit ref adv) s = .next (match bad with
      | some r => s.ended ref 0x31 r
      | none => s.ended ref 0x00 (at_ (e % 2 ^ 36) 0 ||| at_ (min sk 1048575) 36 ||| nfResult fl))) ∧
  (∀ (s : State) (ref : DescRef) (d : Desc), s.issues ref 0x602 d → fld (d.word 1) 3 61 = 0 → (∀ j ∈ [2, 3, 4, 5, 6, 7], d.word j = 0) →
    (s.ctx ref.ctx).update = true →
    (let g := fld (d.word 1) 0 3
     let grp := (s.ctx ref.ctx).group g
     let to_ (v : HailGroup) := exec (.hailAbort ref) s = .next (((s.begun ref d).modCtx ref.ctx (fun y =>
       { y with groups := tput y.groups g v })).ended ref 0x00 0)
     grp.state = .prepared →
     ((∀ e ∈ (s.ctx ref.ctx).ranges, e.2.valid = true → e.2.group = g → e.2.ptr = 0) → to_ { grp with state := .idle, prepTag := 0 }) ∧
     ((∃ e ∈ (s.ctx ref.ctx).ranges, e.2.valid = true ∧ e.2.group = g ∧ 0 < e.2.ptr) → to_ { grp with state := .partial_ }))) ∧
  (∀ (w : Who) (n i sk : Nat) (k : HailUse) (r : HailRange) (ws bs : List Byte) (s s2 : State) (fl : NumFlags) (e : Option Stop),
    ws.length = 64 → hailParts w n k r i ws (r.gBytes / 2) s = (s2, bs, sk, fl, e) → bs.length = 64 ∧ sk ≤ 32 ∧ s2.mem = s.mem)

/-- Of an element with weight w and gradient g a COMMIT keeps the bits where g is NaN or w is NaN or infinite; else the new bits are v
converted to W_FMT with ROUND and the element's random value n = LOG_OFF + i, where a = ETA × LAMBDA (0 without DECAY_EN), u = w where a
is 0 and FMA(−a, w, w) else, and v is u − ETA, u + ETA or u as g is above, below or equal to 0, each one FP32 operation. Where stack n's
unit goes on by one line that can be read, of a range with more lines after it, the 32 elements of that line hold the new bits, or the
old ones where skipped, every other byte of memory is as it was, the pointer goes on by 32, ELEMENTS by 32 and SKIPPED by the elements
skipped, and the descriptor executes on; where the weight line is uncorrectable no byte of memory changes, the pointer goes on all the
same, UE_CNT counts and the descriptor will end with 0x31 of that stack. When a COMMIT that finished with 0x00 or 0x01 completes in RUN,
its group is IDLE with LAST_TAG the tag, EXPECT one above it modulo 2^32, its ranges' pointers are 0, UPDATE is clear, and no other
group or range changes. That ELEMENTS counts the elements of a line that could not be read is the model's choice (log entry 51). (R266,
R267, R268, R274, R277, R282) -/
def Obligations.HailWeightLines : Prop :=
  (∀ (d : Desc) (grp : HailGroup) (r : HailRange) (i wb gb : Nat),
    (let k := d.hailUse grp
     let w := f32val (elemF32 r.wFmt wb)
     let g := f32val (elemF32 r.gFmt gb)
     let eta := f32val (BitVec.ofNat 32 (fld (d.word 2) 0 32))
     let a := if r.decay then f32val (toF32 (vMul eta (f32val (BitVec.ofNat 32 (fld (d.word 2) 32 32))))) else .fin false 0 0
     let u := match a with
       | .fin _ 0 _ => elemF32 r.wFmt wb
       | _ => toF32 (vAdd (vMul (vNeg a) w) w)
     let v := if vLt (.fin false 0 0) g then toF32 (vAdd (f32val u) (vNeg eta))
       else if vLt g (.fin false 0 0) then toF32 (vAdd (f32val u) eta) else u
     let keep := g == .nan || w.special
     (keep = true → k.elem r i wb gb = none) ∧
     (keep = false → (k.elem r i wb gb).map (·.1) = some (convert (codeFmt r.wFmt)
       (roundOf (fld (d.word 1) 3 3) ⟨grp.key, grp.stream, BitVec.ofNat 32 (fld (d.word 1) 32 32)⟩ (r.logOff + i))
       (roundSat (fld (d.word 1) 3 3)) (f32val v)).1))) ∧
  (∀ (s : State) (ref : DescRef) (d : Desc) (e sk : Nat) (fl : NumFlags) (bad : Option DWord) (n k : Nat) (r : HailRange),
    s.runs ref 0x601 d → d.prog = .hail e sk fl bad → (s.ctx ref.ctx).waitsHere = true → n < 12 →
    s.hailNext ref.ctx (fld (d.word 1) 0 3) n = some (k, r) → r.wFmt = 1 ∨ r.wFmt = 2 → r.ptr % 32 = 0 → r.ptr + 32 < r.count →
    r.wPa % 64 = 0 → r.gPa % 64 = 0 → s.stackOf r.wPa (2 * r.count) = some n → s.stackOf r.gPa (r.gBytes * r.count) = some n →
    s.mem.wf = true →
    (let step := Instr.hailCommit ref (List.replicate n 0 ++ [1])
     let wl := r.wPa + 2 * r.ptr
     let gl := r.gPa + r.gBytes * r.ptr
     (s.lineBad (wl / 64) = false → (∀ l ∈ linesOf gl (32 * r.gBytes), s.lineBad l = false) →
       (let old (j : Nat) : Nat := elemBits (s.peek wl 64) 16 j
        let new (j : Nat) := (d.hailUse ((s.ctx ref.ctx).group (fld (d.word 1) 0 3))).elem r (r.ptr + j) (old j)
          (elemBits (s.peek gl (32 * r.gBytes)) (8 * r.gBytes) j)
        ∃ (t : State) (fl' : NumFlags), exec step s = .next t ∧ s.sameOutside t wl 64 ∧
          (∀ j < 32, elemBits (t.peek wl 64) 16 j = (match new j with
            | some x => x.1
            | none => old j)) ∧
          (let u := (s.modCtx ref.ctx (fun x => { x with ranges := tput x.ranges k { r with ptr := r.ptr + 32 } })).setProg
            ref.ctx ref.ring ref.index (.hail (e + 32) (sk + ((List.range 32).filter (fun j => (new j).isNone)).length) (fl ||| fl') bad)
           t = { u with mem := t.mem }))) ∧
     (s.lineBad (wl / 64) = true → ∃ (t : State) (res : DWord), exec step s = .next t ∧ t.mem = s.mem ∧
       (t.ctx ref.ctx).range k = { r with ptr := r.ptr + 32 } ∧ (t.stack n).hailUeCnt = satInc (s.stack n).hailUeCnt ∧
       fld res 0 4 = 3 ∧ fld res 4 4 = n ∧ t.progOf ref.ctx ref.ring ref.index = .hail (e + 32) sk fl (some (bad.getD res))))) ∧
  (∀ (s : State) (ref : DescRef) (d : Desc), s.desc ref = some d → d.opcode = 0x601 → d.st = .done → d.issued = true →
    d.status = 0x00 ∨ d.status = 0x01 → (s.ctx ref.ctx).st = .run → s.frostWaits ref.ctx ref.ring ref.index = false →
    (let g := fld (d.word 1) 0 3
     let tag := BitVec.ofNat 32 (fld (d.word 1) 32 32)
     let x := s.ctx ref.ctx
     ∃ t : State, exec (.descriptorComplete ref) s = .next t ∧
       (t.ctx ref.ctx).group g = { x.group g with state := .idle, lastTag := tag, expect := tag + 1, prepTag := 0 } ∧
       (t.ctx ref.ctx).update = false ∧ (∀ j, j ≠ g → (t.ctx ref.ctx).group j = x.group j) ∧
       (∀ j, (t.ctx ref.ctx).range j = (if (x.range j).group = g then { x.range j with ptr := 0 } else x.range j))))

/-- HAIL_GROUP_SET of a readable record in order, for an IDLE group: VALID 1 sets the group with EXPECT, LAST_TAG one below it, key and
stream; VALID 0 empties a group that no range names; of a group that is not IDLE, or emptying one that a range names, it ends with 0x12,
reason 0x0604. HAIL_RANGE_SET of a readable record in order waits while another opcode that names its groups is under way; then VALID 0
empties the range, and VALID 1, for a valid IDLE group, a weight area and a gradient area that are each one run on one stack and meet no
other range, sets it with nothing updated yet; both end with 0x00. HAIL_STATUS writes the 64 bytes of the group's status at its address
and ends with 0x00. The order in which HAIL_RANGE_SET judges is the model's (log entry 83), and so is the order in which waiting ones go
on (log entry 51). (R262, R263, R264, R270, R279, R281) -/
def Obligations.HailObjects : Prop :=
  (∀ (s s1 : State) (ref : DescRef) (d : Desc) (bs : List Byte), s.issues ref 0x603 d → (d.word 1).toNat % 64 = 0 →
    fld (d.word 2) 3 61 = 0 → (∀ j ∈ [3, 4, 5, 6, 7], d.word j = 0) →
    rdVa (d.who ref.ctx) (d.word 1).toNat 64 (s.begun ref d) = .ok bs s1 →
    (let ws := bytesWords 8 bs
     let g := fld (d.word 2) 0 3
     let x := s1.ctx ref.ctx
     let first := BitVec.ofNat 32 (fld (wrd ws 0) 32 32)
     let fresh : HailGroup := { HailGroup.reset with
       valid := true, expect := first, lastTag := first - 1, key := wrd ws 1, stream := BitVec.ofNat 32 (fld (wrd ws 2) 0 32) }
     recordRsv ws [(0, 1, 31), (2, 32, 32), (3, 0, 64), (4, 0, 64), (5, 0, 64), (6, 0, 64), (7, 0, 64)] = none →
     ((x.group g).state ≠ .idle → exec (.hailGroupSet ref) s = .next (s1.ended ref 0x12 (at_ x.stateByte 0 ||| at_ 0x0604 16))) ∧
     ((x.group g).state = .idle → bit (wrd ws 0) 0 = true → exec (.hailGroupSet ref) s = .next ((s1.modCtx ref.ctx (fun y =>
       { y with groups := tput y.groups g fresh })).ended ref 0x00 0)) ∧
     ((x.group g).state = .idle → bit (wrd ws 0) 0 = false → (∃ r ∈ x.ranges, r.2.valid = true ∧ r.2.group = g) →
       exec (.hailGroupSet ref) s = .next (s1.ended ref 0x12 (at_ x.stateByte 0 ||| at_ 0x0604 16))) ∧
     ((x.group g).state = .idle → bit (wrd ws 0) 0 = false → (∀ r ∈ x.ranges, r.2.valid = true → r.2.group ≠ g) →
       exec (.hailGroupSet ref) s = .next ((s1.modCtx ref.ctx (fun y => { y with groups := tput y.groups g HailGroup.reset })).ended ref 0x00 0)))) ∧
  (∀ (s s1 : State) (ref : DescRef) (d : Desc) (bs : List Byte), s.issues ref 0x604 d → (∀ l g, d.prog ≠ .hailSet l g) →
    (d.word 1).toNat % 64 = 0 → fld (d.word 2) 6 58 = 0 → (∀ j ∈ [3, 4, 5, 6, 7], d.word j = 0) →
    rdVa (d.who ref.ctx) (d.word 1).toNat 64 (s.begun ref d) = .ok bs s1 →
    (let ws := bytesWords 8 bs
     let w := d.who ref.ctx
     let k := fld (d.word 2) 0 6
     let t := s1.setProg ref.ctx ref.ring ref.index (.hailSet ws [])
     let x := t.ctx ref.ctx
     let old := x.range k
     let u := t.setProg ref.ctx ref.ring ref.index (.hailSet ws (if old.valid then [old.group] else []))
     let me : Desc := { d with prog := .hailSet ws [], st := .executing }
     let g := fld (wrd ws 0) 1 3
     let count := fld (wrd ws 3) 0 36
     let gb := if fld (wrd ws 0) 12 4 = 0 then 4 else 2
     rangeBad ws = none →
     (x.rangeFree me = false → exec (.hailRangeSet ref) s = .next t) ∧
     (x.rangeFree me = true → (old.valid = true → (x.group old.group).state = .idle) →
       (bit (wrd ws 0) 0 = false → exec (.hailRangeSet ref) s =
         .next ((u.modCtx ref.ctx (fun y => { y with ranges := tdel y.ranges k })).ended ref 0x00 0)) ∧
       (bit (wrd ws 0) 0 = true → (x.group g).valid = true → (x.group g).state = .idle → (∀ e ∈ x.ranges, e.1 ≠ k → e.2.valid = false) →
         ∀ (wPa gPa n : Nat) (s2 s3 : State), xlRange w (wrd ws 1).toNat (2 * count) true u = .ok [(wPa, 2 * count)] s2 →
         xlRange w (wrd ws 2).toNat (gb * count) false s2 = .ok [(gPa, gb * count)] s3 →
         (s3.ctx ref.ctx).ranges = x.ranges → s3.stackOf wPa (2 * count) = some n → s3.stackOf gPa (gb * count) = some n →
         (let r : HailRange := ⟨true, g, bit (wrd ws 0) 4, fld (wrd ws 0) 8 4, fld (wrd ws 0) 12 4, wPa, gPa, count, fld (wrd ws 4) 0 48, 0⟩
          exec (.hailRangeSet ref) s =
            .next ((s3.modCtx ref.ctx (fun y => { y with ranges := tput y.ranges k r })).ended ref 0x00 0)))))) ∧
  (∀ (s v : State) (ref : DescRef) (d : Desc), s.issues ref 0x605 d → (d.word 1).toNat % 64 = 0 → fld (d.word 2) 3 61 = 0 →
    (∀ j ∈ [3, 4, 5, 6, 7], d.word j = 0) →
    (let bytes := wordsBytes ((s.ctx ref.ctx).hailStatus (fld (d.word 2) 0 3))
     wrVa (d.who ref.ctx) (d.word 1).toNat bytes (s.begun ref d) = .ok () v →
     exec (.hailStatus ref) s = .next (v.ended ref 0x00 0) ∧ bytes.length = 64))

/-- A good frame whose FSEQ the port expects and that carries one header flit of a packet without data, no NAK, no credits and no news in
its ACK: the packet joins its channel's buffer, the next LSEQ is expected, one flit more is held, and nothing outside the port changes.
A good frame of NULL slots, for a port whose replay buffer holds no descriptor's flits: its ACK takes the flits it acknowledges out of
the replay buffer, its NAK has the rest sent again, and its credits are added, up to the ceiling and the limit. A frame whose CRC fails,
its codewords correctable and no NAK out, puts a NAK in the next frame and is otherwise dropped. A frame time of an active or
quarantined port sends exactly one frame of twenty slots with its CRC, and clears the NAK to be sent; with nothing to send all slots are
NULL. A heartbeat updates what is known of the partner, and quarantines an active port where the expected EPID differs; LINK_ERR is
logged with 0x0C and counted, and answered with none. HB is sent with the port's number and count; a lost heartbeat retrains the port
from phase 1; the replay timeout marks the oldest flits to be sent again; the NAK is sent again. (R288, R289, R290, R291, R292, R304,
R306, R307) -/
def Obligations.VexjaFramesAndReplay : Prop :=
  (∀ (s : State) (p now : Nat) (f : Frame), s.hasPort p = true → (s.port p).state = 3 → f.good = true →
    (let k := s.port p
     let sl := f.slot 0
     let vc := sl.vc % 4
     let h : Pkt := ⟨(List.range 4).map (wrd sl.words), []⟩
     f.type 0 = 1 → (∀ i, 0 < i → i < 20 → f.type i = 0) → f.nak = false → (∀ c < 4, f.credit c = 0) → k.ackCount f.ack = some 0 →
     f.fseq = k.rxLseq → (∀ c < 4, k.credits.getD c 0 ≤ vcFlits.getD c 0) → k.rxHeld.length = 4 →
     k.rxHeld.getD vc 0 + k.ret.getD vc 0 < vcFlits.getD vc 0 → tget [] k.partial_ vc = [] → h.malformed { k with badFrames := 0 } vc = false →
     h.ndata = 0 → ∃ v, exec (.frameReceive p f now) s = .next v ∧ s.onlyPort v p ∧
       tget [] (v.port p).rxQ vc = tget [] k.rxQ vc ++ [⟨h, false⟩] ∧ (v.port p).rxLseq = (k.rxLseq + 1) % 2 ^ 24 ∧
       (v.port p).rxHeld.getD vc 0 = k.rxHeld.getD vc 0 + 1 ∧ (v.port p).nakOut = false ∧ (v.port p).sent = k.sent ∧
       (v.port p).state = 3 ∧ (v.port p).credits = k.credits ∧ (v.port p).peerSlow = f.slow)) ∧
  (∀ (s : State) (p now n : Nat) (f : Frame), s.hasPort p = true → (s.port p).state = 3 → f.good = true → (∀ i < 20, f.type i = 0) →
    f.fseq = (s.port p).rxLseq → (s.port p).ackCount f.ack = some n → (∀ x ∈ (s.port p).sent, x.flit.owner = none ∧ x.resends < 7) →
    (s.port p).credits.length = 4 → (∀ c < 4, (s.port p).credits.getD c 0 + f.credit c ≤ vcFlits.getD c 0) →
    ∃ v, exec (.frameReceive p f now) s = .next v ∧ s.onlyPort v p ∧ (v.port p).rxLseq = (s.port p).rxLseq ∧ (v.port p).rxQ = (s.port p).rxQ ∧
      (v.port p).sent.map (·.lseq) = ((s.port p).sent.drop n).map (·.lseq) ∧ (f.nak = false → (v.port p).sent = (s.port p).sent.drop n) ∧
      (f.nak = true → ∀ x ∈ (v.port p).sent, x.again = true) ∧
      (∀ c < 4, (v.port p).credits.getD c 0 = max ((s.port p).credits.getD c 0)
        (min ((s.port p).credits.getD c 0 + f.credit c) ((s.port p).limits.getD c 0)))) ∧
  (∀ (s : State) (p now : Nat) (f : Frame), s.hasPort p = true → (s.port p).state = 3 → f.good = false → f.fec = true →
    (s.port p).nakOut = false → ∃ v, exec (.frameReceive p f now) s = .next v ∧ s.onlyPort v p ∧
      v.port p = { s.port p with badFrames := 0, nakOut := true, nakPend := true }) ∧
  (∀ (s : State) (p : Nat), s.hasPort p = true → (s.port p).state = 3 ∨ (s.port p).state = 4 → ∃ v types slots lo hi, exec (.frameSend p) s = .next v ∧
    v.outs = s.outs ++ [.frame p types slots lo hi (frameCrc slots lo hi)] ∧ types.length = 20 ∧ slots.length = 20 ∧
    (v.port p).nakPend = false ∧ (v.port p).rxLseq = (s.port p).rxLseq ∧ (v.port p).rxQ = (s.port p).rxQ ∧
    (∀ j, j ≠ p → v.port j = s.port j) ∧ v = { s with lnk := v.lnk, outs := v.outs } ∧
    ((s.port p).sent = [] → (s.port p).egress = [] → (s.port p).links = [] →
      (v.port p).txLseq = (s.port p).txLseq ∧ ∀ t ∈ types, t = 0)) ∧
  (∀ (s : State) (p : Nat) (w : List DWord), (s.port p).linkFlit 2 = some w → ∃ v, exec (.hb p) s = .next v ∧
    (v.port p).peerEpid = BitVec.ofNat 14 (fld (wrd w 0) 16 16) ∧ (v.port p).hbCount = BitVec.ofNat 16 (fld (wrd w 0) 48 16) ∧
    ((s.port p).expectEn = false ∨ fld (wrd w 0) 16 16 = (s.port p).expectEpid.toNat → s.onlyPort v p ∧ (v.port p).state = (s.port p).state) ∧
    ((s.port p).expectEn = true → fld (wrd w 0) 16 16 ≠ (s.port p).expectEpid.toNat → (s.port p).state = 3 →
      (v.port p).state = 4 ∧ (v.port p).quar = true)) ∧
  (∀ (s : State) (p : Nat) (w : List DWord), (s.port p).linkFlit 3 = some w → ∃ v, exec (.linkErr p) s = .next v ∧ s.onlyPort v p ∧
    (v.port p).viol = true ∧ (v.port p).violCnt = satInc (s.port p).violCnt ∧ (v.port p).rxLinks = (s.port p).rxLinks.erase w ∧
    (v.port p).links = (s.port p).links ∧ (v.port p).log = (s.port p).log.add 64 (fun o => [at_ 0x0C 0 ||| at_ p 8 ||| at_ 0 12 |||
      at_ (fld (wrd w 0) 32 24) 14 ||| at_ (s.port p).peerEpid.toNat 38 ||| at_ 0 52, at_ o.toNat 0])) ∧
  (∀ (s : State) (p n now : Nat), s.hasPort p = true → (s.port p).state = 3 →
    (∃ v, exec (.hbSend p) s = .next v ∧ s.onlyPort v p ∧ (v.port p).hbSent = (s.port p).hbSent + 1 ∧
      (v.port p).links = (s.port p).links ++
        [[at_ 2 0 ||| at_ s.lnk.epid.toNat 16 ||| at_ p 32 ||| at_ (b2n s.lnk.slow) 40 ||| at_ (s.port p).hbSent.toNat 48]]) ∧
    ((s.port p).retrains.length < 3 → ∃ v, exec (.hbLoss p now) s = .next v ∧ s.onlyPort v p ∧ (v.port p).state = 2 ∧ (v.port p).phase = 1 ∧
      (v.port p).resume = true ∧ (v.port p).sent = (s.port p).sent ∧ (v.port p).retrainCnt = satInc (s.port p).retrainCnt) ∧
    ((∀ x ∈ (s.port p).sent, x.resends < 7) → ∃ v, exec (.replayTimeout p n now) s = .next v ∧ s.onlyPort v p ∧
      (v.port p).sent.map (·.lseq) = (s.port p).sent.map (·.lseq) ∧ (∀ x ∈ (v.port p).sent.take n, x.again = true) ∧
      (v.port p).sent.drop n = (s.port p).sent.drop n) ∧
    ((s.port p).nakOut = true → ∃ v, exec (.nakResendTimeout p) s = .next v ∧ s.onlyPort v p ∧
      v.port p = { s.port p with nakPend := true }))

/-- The phases follow one another: after phase 1 phase 2; after qualification with four or five good lanes phase 3 with the four lowest and
a spare where there is a fifth, with fewer the port fails; then the training flit is sent; then the port is active, keeping
unacknowledged flits where both sides resume and starting afresh otherwise. A partner without version 1 is refused; an overrun retrains.
Where one lane in use fails and the spare is held, the spare takes its place and the port trains from phase 3; without a spare, or where
two fail, it trains from phase 1; a failing spare is held no longer; lanes neither in use nor held change nothing. RELEASE starts
training where the cable lets it, and so does clearing DISABLE, but for a version-refused port, which stays down until RELEASE; RELEASE
leaves an active port alone; DISABLE takes the port down; pulling the cable takes an active port down, which keeps its replay buffer,
sequences and credits (model's choice, log 93); a readable passive copper cable of at most 2 m starts training and any other is logged
and keeps the port down. LNK_CFG changes the EPID only while every port is down, absent or disabled, and 0 keeps HOP_MAX and Q_THRESH; a
routing entry for an absent port, or LOCAL on another EPID, is refused and counted, any other is written; CRED_LIM reads as written, the
limit in force is held to the ceiling, and a write above one is counted. Model's choices: lane swaps retrain from phase 3, other lane
failures from 1, and when EPID may be written (log entry 54); a version-refused port stays down until RELEASE (log entry 82). (R284,
R285, R286, R287, R292, R295, R307, R309, R478, R491) -/
def Obligations.VexjaTrainingAndConfiguration : Prop :=
  (∀ (s : State) (p : Nat) (lanes : List Nat) (x : Exchange), s.hasPort p = true → (s.port p).state = 2 →
    ((s.port p).phase = 1 → exec (.trainingPhaseDone p lanes) s = .next (s.modPort p (fun k => { k with phase := 2 }))) ∧
    (let good := (List.range 5).filter (fun n => lanes.contains n && !s.laneExcluded p n)
     (s.port p).phase = 2 → (4 ≤ good.length → ∃ v, exec (.trainingPhaseDone p lanes) s = .next v ∧ s.onlyPort v p ∧
       (v.port p).phase = 3 ∧ (∀ n < 5, ((v.port p).lanes.getLsbD n = true ↔ n ∈ good.take 4)) ∧ ((v.port p).spareHeld = true ↔ good.length = 5)) ∧
     (good.length < 4 → ∃ v, exec (.trainingPhaseDone p lanes) s = .next v ∧ (v.port p).state = 5 ∧ (v.port p).lanes = 0 ∧ (v.port p).sent = [])) ∧
    ((s.port p).phase = 3 → exec (.trainingPhaseDone p lanes) s = .next ((s.modPort p (fun k => { k with phase := 4 })).emit
      (.train p 1 1 s.lnk.epid.toNat [32, 160, 64, 256] (s.port p).resume))) ∧
    ((s.port p).phase = 4 → (s.port p).exch = some x → (s.port p).resume = true → x.resume = true →
      ∃ v, exec (.trainingPhaseDone p lanes) s = .next v ∧ s.onlyPort v p ∧ (v.port p).state = 3 ∧ (v.port p).ver = 1 ∧
        (v.port p).sent.map (·.flit) = (s.port p).sent.map (·.flit) ∧ (∀ f ∈ (v.port p).sent, f.again = true) ∧
        (v.port p).txLseq = (s.port p).txLseq ∧ (v.port p).rxLseq = (s.port p).rxLseq) ∧
    ((s.port p).phase = 4 → (s.port p).exch = none → exec (.trainingPhaseDone p lanes) s = .next s) ∧
    ((s.port p).phase = 4 → (s.port p).exch = some x → (s.port p).resume = false ∨ x.resume = false →
      ∃ v, exec (.trainingPhaseDone p lanes) s = .next v ∧ (v.port p).state = 3 ∧ (v.port p).txLseq = 0 ∧ (v.port p).rxLseq = 0 ∧ (v.port p).txDseq = 0 ∧
        (v.port p).counter = 0xFFFFFF ∧ (v.port p).sent = [] ∧ (v.port p).egress = []) ∧
    (∀ verMin verMax epid credits r, (s.port p).phase = 4 →
      (verMin ≤ 1 → 1 ≤ verMax → exec (.train p verMin verMax epid credits r) s =
        .next (s.modPort p (fun k => { k with exch := some ⟨credits, r⟩ }))) ∧
      (1 < verMin ∨ verMax < 1 → ∃ v, exec (.train p verMin verMax epid credits r) s = .next v ∧ (v.port p).state = 1 ∧
        (v.port p).verRefused = true ∧ (v.port p).viol = true)) ∧
    (∀ now, (s.port p).retrains.length < 3 → ∃ v, exec (.trainingPhaseOverrun p now) s = .next v ∧ s.onlyPort v p ∧ (v.port p).state = 2 ∧
      (v.port p).phase = 1 ∧ (v.port p).resume = (s.port p).resume)) ∧
  (∀ (s : State) (p n now : Nat), s.hasPort p = true → (s.port p).state = 3 → (s.port p).retrains.length < 3 → n < 5 →
    ((s.port p).lanes.getLsbD n = true → (s.port p).spareHeld = true → ∃ v, exec (.laneLockLoss p n now) s = .next v ∧ s.onlyPort v p ∧
      exec (.laneBerWindow p [n] now) s = .next v ∧ (v.port p).lanes = 0x1F#5 ^^^ (1#5 <<< n) ∧ (v.port p).spareHeld = false ∧
      (v.port p).swap = true ∧ (v.port p).swapCnt = satInc (s.port p).swapCnt ∧ (v.port p).state = 2 ∧ (v.port p).phase = 3) ∧
    ((s.port p).lanes.getLsbD n = true → (s.port p).spareHeld = false → ∃ v, exec (.laneLockLoss p n now) s = .next v ∧ s.onlyPort v p ∧
      exec (.laneBerWindow p [n] now) s = .next v ∧ (v.port p).state = 2 ∧ (v.port p).phase = 1) ∧
    ((s.port p).lanes.getLsbD n = false → (s.port p).spareHeld = true → exec (.laneLockLoss p n now) s =
      .next (s.modPort p (fun k => { k with spareHeld := false })) ∧ exec (.laneBerWindow p [n] now) s = exec (.laneLockLoss p n now) s) ∧
    (∀ ns, 2 ≤ ((List.range 5).filter (fun i => ns.contains i && (s.port p).lanes.getLsbD i)).length → ∃ v,
      exec (.laneBerWindow p ns now) s = .next v ∧ s.onlyPort v p ∧ (v.port p).state = 2 ∧ (v.port p).phase = 1) ∧
    ((s.port p).lanes.getLsbD n = false → (s.port p).spareHeld = false → exec (.laneLockLoss p n now) s = .next s ∧
      exec (.laneBerWindow p [n] now) s = .next s ∧ exec (.laneBerWindow p [] now) s = .next s)) ∧
  (∀ (s : State) (p : Nat), s.hasPort p = true →
    ((s.port p).state = 4 → (s.port p).disable = false → cableGood (s.port p).cable → ∃ v, exec (.release p) s = .next v ∧ s.onlyPort v p ∧
      (v.port p).state = 2 ∧ (v.port p).phase = 1) ∧
    ((s.port p).state = 1 → (s.port p).verRefused = true → (s.port p).disable = false → cableGood (s.port p).cable → ∃ v, exec (.release p) s = .next v ∧
      s.onlyPort v p ∧ (v.port p).verRefused = false ∧ (v.port p).state = 2 ∧ (v.port p).phase = 1) ∧
    ((s.port p).state = 3 → (s.port p).verRefused = false → exec (.release p) s = .next s) ∧
    ((s.port p).state = 6 → (s.port p).disable = true → (s.port p).verRefused = true → ∃ v, exec (.disable p false) s = .next v ∧
      s.onlyPort v p ∧ (v.port p).disable = false ∧ (v.port p).state = 1 ∧ (v.port p).verRefused = true) ∧
    ((s.port p).state = 6 → (s.port p).disable = true → (s.port p).verRefused = false → cableGood (s.port p).cable → ∃ v, exec (.disable p false) s = .next v ∧ s.onlyPort v p ∧
      (v.port p).disable = false ∧ (v.port p).state = 2 ∧ (v.port p).phase = 1) ∧
    ((s.port p).state = 3 → (s.port p).disable = false → ∃ v, exec (.disable p true) s = .next v ∧ (v.port p).disable = true ∧
      (v.port p).state = 6 ∧ (v.port p).sent = [] ∧ (v.port p).egress = []) ∧
    ((s.port p).state = 3 → ∃ v, exec (.cablePresenceChange p .none) s = .next v ∧ (v.port p).cable = .none ∧ (v.port p).state = 1 ∧
      (v.port p).resume = true ∧ (v.port p).sent.map (·.flit.words) = (s.port p).sent.map (·.flit.words) ∧ (v.port p).txLseq = (s.port p).txLseq ∧
      (v.port p).rxLseq = (s.port p).rxLseq ∧ (v.port p).credits = (s.port p).credits) ∧
    (s.linksUp = true → (s.port p).state = 1 → (s.port p).verRefused = false → (s.port p).disable = false →
      (∀ mm ≤ 2000, ∃ v, exec (.cablePresenceChange p (.read mm true)) s = .next v ∧ s.onlyPort v p ∧ (v.port p).cable = .read mm true ∧
        (v.port p).state = 2 ∧ (v.port p).phase = 1 ∧ (v.port p).resume = (s.port p).resume) ∧
      (∀ c, c = .unreadable ∨ (∃ mm b, c = .read mm b ∧ (2000 < mm ∨ b = false)) → ∃ v, exec (.cablePresenceChange p c) s = .next v ∧
        s.onlyPort v p ∧ (v.port p).cable = c ∧ (v.port p).state = 1 ∧ (v.port p).viol = true ∧ (v.port p).violCnt = satInc (s.port p).violCnt ∧ (v.port p).links = []))) ∧
  (∀ (s : State) (v : DWord) (e : Half) (p : Nat),
    (∃ t, exec (.lnkCfgWrite v) s = .next t ∧ t = { s with lnk := { s.lnk with epid := t.lnk.epid, hopMax := t.lnk.hopMax, qThresh := t.lnk.qThresh } }
      ∧ ((∃ q < s.variant.ports, (s.port q).state ≠ 0 ∧ (s.port q).state ≠ 1 ∧ (s.port q).state ≠ 6) → t.lnk.epid = s.lnk.epid)
      ∧ ((∀ q < s.variant.ports, (s.port q).state = 0 ∨ (s.port q).state = 1 ∨ (s.port q).state = 6) → t.lnk.epid = BitVec.ofNat 14 (fld v 0 14))
      ∧ t.lnk.hopMax = (if fld v 14 4 = 0 then s.lnk.hopMax else BitVec.ofNat 4 (fld v 14 4))
      ∧ t.lnk.qThresh = (if fld v 18 8 = 0 then s.lnk.qThresh else BitVec.ofNat 8 (fld v 18 8))) ∧
    (bit e 9 = true → (s.lnk.routeIdx.toNat ≠ s.lnk.epid.toNat → exec (.lnkRouteDataWrite e) s =
        .next { s with lnk := { s.lnk with refusedCnt := satInc s.lnk.refusedCnt } }) ∧
      (s.lnk.routeIdx.toNat = s.lnk.epid.toNat → exec (.lnkRouteDataWrite e) s =
        .next { s with lnk := { s.lnk with routes := tput s.lnk.routes s.lnk.routeIdx.toNat (e &&& 0x3FF) } })) ∧
    (bit e 9 = false → bit e 8 = true → s.hasPort (fld e 0 4) = true → (fld e 4 4 = 15 ∨ s.hasPort (fld e 4 4) = true) →
      exec (.lnkRouteDataWrite e) s =
        .next { s with lnk := { s.lnk with routes := tput s.lnk.routes s.lnk.routeIdx.toNat (e &&& 0x3FF) } }) ∧
    (bit e 9 = false → bit e 8 = true → fld e 4 4 ≠ 15 → s.hasPort (fld e 4 4) = false → exec (.lnkRouteDataWrite e) s =
      .next { s with lnk := { s.lnk with refusedCnt := satInc s.lnk.refusedCnt } }) ∧
    (bit e 9 = false → bit e 8 = true → s.hasPort (fld e 0 4) = false → exec (.lnkRouteDataWrite e) s =
      .next { s with lnk := { s.lnk with refusedCnt := satInc s.lnk.refusedCnt } }) ∧
    (bit e 8 = false → bit e 9 = false → exec (.lnkRouteDataWrite e) s =
      .next { s with lnk := { s.lnk with routes := tput s.lnk.routes s.lnk.routeIdx.toNat (e &&& 0x3FF) } }) ∧
    (s.hasPort p = true → ∃ t, exec (.lnkTxCfgWrite p v) s = .next t ∧ s.onlyPort t p ∧
      (t.port p).credLim = [fld v 0 9, fld v 9 9, fld v 18 9, fld v 27 9] ∧
      (t.port p).ceilCnt = (if 32 < fld v 0 9 ∨ 160 < fld v 9 9 ∨ 64 < fld v 18 9 ∨ 256 < fld v 27 9 then satInc (s.port p).ceilCnt else (s.port p).ceilCnt) ∧
      (t.port p).limits = [min (fld v 0 9) 32, min (fld v 9 9) 160, min (fld v 18 9) 64, min (fld v 27 9) 256]))

/-- The oldest PUT for this module: for a context that is not RUN or PAUSED, or FROZEN, or without the window and key, it writes nothing, is
answered with NACK_RSP and takes its place in the order of commits; one that passes writes its flits in order and waits for its commit;
one that fails in a later check is answered with that failure's status. When its writes become visible it commits, the port's counter
takes its DSEQ, and COMMIT_RSP is sent where it was asked for. A signal moves to the hold stage in order, and stays there until the data
it covers has committed; then it acts on the front it names, or goes on to its next port. COMMIT_RSP ends the transfer of its TXID with
0x00 and its bytes; NACK_RSP ends it with the status it carries, and for 0x60 with CAUSE 4; one that names no transfer is taken from its
buffer alone. A packet for another module leaves with one hop fewer on the port its route names, a PUT counting as committed; a response
or VC3 packet with no hop left or no entry is dropped and logged; without an active port it is dropped. Model's choices: RESULT after a
NACK_RSP (log entry 13); drops without an active port, and when a received packet gives its buffer up (log entry 55). (R291, R294, R296,
R298, R301, R302, R303) -/
def Obligations.VexjaPacketsArrive : Prop :=
  (∀ (s : State) (p : Nat) (r : RxPkt) (more : List RxPkt), tget [] (s.port p).rxQ 1 = r :: more → s.route r.pkt.dst = .local_ →
    (let u := s.takeRx p 1
     let x := u.ctx r.pkt.window.1
     (∀ st reason, x.putRefused r.pkt = some (st, reason) → exec (.put p) s =
       .next ((u.nack r.pkt.src r.pkt.txid st reason).addCommit p ⟨r.pkt.dseq, true, none, r.old⟩) ∧
       ((u.nack r.pkt.src r.pkt.txid st reason).addCommit p ⟨r.pkt.dseq, true, none, r.old⟩).mem = s.mem) ∧
     (x.putRefused r.pkt = none → ∀ w, putFlits (agentWho r.pkt.window.1) ((x.exportWin r.pkt.window.2).va + r.pkt.arg.toNat) r.pkt.data u = .ok () w →
       ∃ v, exec (.put p) s = .next v ∧ v.mem = w.mem ∧ ((∀ e ∈ (w.port p).uncommitted, e.ready = false) →
         (v.port p).uncommitted = (w.port p).uncommitted ++ [⟨r.pkt.dseq, false, if r.pkt.ackreq then some (r.pkt.src, r.pkt.txid) else none, r.old⟩]
         ∧ (v.port p).counter = (w.port p).counter)) ∧
     (x.putRefused r.pkt = none → ∀ st w, putFlits (agentWho r.pkt.window.1) ((x.exportWin r.pkt.window.2).va + r.pkt.arg.toNat) r.pkt.data u = .error st w →
       exec (.put p) s = .next ((w.nack r.pkt.src r.pkt.txid st.nackStatus 0).addCommit p ⟨r.pkt.dseq, true, none, r.old⟩)))) ∧
  (∀ (x : Ctx) (p : Pkt), (x.putRefused p = none ↔ ((x.st = .run ∨ x.st = .paused) ∧ x.frozen = false ∧ (x.exportWin p.window.2).bytes ≠ 0 ∧
    (x.exportWin p.window.2).key.toNat = fld (p.w 2) 32 32 ∧ (x.exportWin p.window.2).write = true ∧
    p.arg.toNat + p.bytes ≤ (x.exportWin p.window.2).bytes))) ∧
  (∀ (s : State) (p : Nat) (u : Uncommitted) (more : List Uncommitted), (s.port p).uncommitted = u :: more →
    (∀ e, more.head? = some e → e.ready = false) → ∃ v, s.onlyPort v p ∧ (v.port p).uncommitted = more ∧
      (v.port p).counter = (if u.old then (s.port p).counter else u.dseq) ∧
      exec (.putCommit p) s = .next (match u.rsp with | some (e, t) => v.respond 2 e t 0 | none => v)) ∧
  (∀ (s : State) (p : Nat) (r : RxPkt) (more : List RxPkt), tget [] (s.port p).rxQ 0 = r :: more → ∃ v, exec (.signal p) s = .next v ∧
    s.onlyPort v p ∧ tget [] (v.port p).rxQ 0 = more ∧ (v.port p).heldSig = (s.port p).heldSig ++ [r] ∧
    (v.port p).rxHeld = (s.port p).rxHeld) ∧
  (∀ (s : State) (p : Nat) (r : RxPkt) (more : List RxPkt), (s.port p).heldSig = r :: more →
    (((s.port p).counter + 2 ^ 24 - r.pkt.dseq) % 2 ^ 24 ≥ 2 ^ 23 → exec (.signalRelease p) s = .next s) ∧
    (((s.port p).counter + 2 ^ 24 - r.pkt.dseq) % 2 ^ 24 < 2 ^ 23 → s.route r.pkt.dst = .local_ → ∃ u, s.onlyPort u p ∧
      (u.port p).heldSig = more ∧ exec (.signalRelease p) s =
        .next (u.frontSignal r.pkt.src (BitVec.ofNat 32 (fld r.pkt.arg 0 32)) (BitVec.ofNat 32 (fld r.pkt.arg 32 32)))) ∧
    (((s.port p).counter + 2 ^ 24 - r.pkt.dseq) % 2 ^ 24 < 2 ^ 23 → s.route r.pkt.dst ≠ .local_ → ∃ u, s.onlyPort u p ∧
      (u.port p).heldSig = more ∧ exec (.signalRelease p) s = .next (u.forward p r.pkt))) ∧
  (∀ (s : State) (p c e dst n : Nat) (d : Desc) (r : RxPkt) (more : List RxPkt), tget [] (s.port p).rxQ 2 = r :: more →
    s.route r.pkt.dst = .local_ → (s.takeRx p 2).transfer r.pkt.txid = some (c, d, e, dst, n) →
    (r.pkt.type = 2 → exec (.commitRsp p) s = .next ((s.takeRx p 2).finish c d.ring d.index ⟨0x00, at_ (n % 2 ^ 40) 0⟩)) ∧
    (r.pkt.type = 3 → fld r.pkt.arg 0 8 = 0x60 → exec (.nackRsp p) s =
      .next ((s.takeRx p 2).tick.finish c d.ring d.index ⟨0x60, at_ e 0 ||| at_ (dst % 2 ^ 14) 4 ||| at_ 4 18⟩)) ∧
    (r.pkt.type = 3 → fld r.pkt.arg 0 8 ≠ 0x60 → ∃ res, exec (.nackRsp p) s =
      .next ((s.takeRx p 2).tick.finish c d.ring d.index ⟨BitVec.ofNat 8 (fld r.pkt.arg 0 8), res⟩))) ∧
  (∀ (s : State) (p : Nat) (r : RxPkt) (more : List RxPkt), tget [] (s.port p).rxQ 2 = r :: more → s.route r.pkt.dst = .local_ →
    (s.takeRx p 2).transfer r.pkt.txid = none → (r.pkt.type = 2 → exec (.commitRsp p) s = .next (s.takeRx p 2)) ∧
    (r.pkt.type = 3 → s.lnk.sigs.contains r.pkt.txid = false → exec (.nackRsp p) s = .next (s.takeRx p 2))) ∧
  (∀ (s : State) (p vc : Nat) (r : RxPkt) (more : List RxPkt), vc ∈ [1, 2, 3] → tget [] (s.port p).rxQ vc = r :: more → p ≠ 15 →
    (vc = 1 → (s.port p).uncommitted = []) →
    (∀ e, s.route r.pkt.dst = .port e → r.pkt.hops ≠ 0 → e ≠ 15 → ∃ v, exec (.packetForward p vc) s = .next v ∧ v = { s with lnk := v.lnk } ∧
      tget [] (v.port p).rxQ vc = more ∧ (vc = 1 → (v.port p).counter = (if r.old then (s.port p).counter else r.pkt.dseq)) ∧
      (∃ q, (v.port e).egress = tput (s.port e).egress q ((tget [] (s.port e).egress q) ++
        (((s.port e).stamp (r.pkt.setHdr 0 12 4 (r.pkt.hops - 1))).tx none)))) ∧
    (vc ≠ 1 → 1 < r.pkt.type → (s.route r.pkt.dst = .noEntry ∨ (∃ e, s.route r.pkt.dst = .port e ∧ r.pkt.hops = 0)) →
      ∃ v, exec (.packetForward p vc) s = .next v ∧ s.onlyPort v p ∧ tget [] (v.port p).rxQ vc = more ∧ (v.port p).viol = true ∧
        (v.port p).violCnt = satInc (s.port p).violCnt) ∧
    (vc ≠ 1 → 1 < r.pkt.type → s.route r.pkt.dst = .noPort → exec (.packetForward p vc) s = .next (s.takeRx p vc)))

/-- VX_PUT with its fields in order: of 0 bytes it ends with 0x01; without an active route it ends with 0x60, CAUSE 1, and takes no TXID;
with one, and its source readable, it takes the next TXID, queues its packets of at most 4,096 bytes in order and goes on executing
until its COMMIT_RSP; no response in time ends it with 0x60, CAUSE 3. VX_SIGNAL ends with 0x00 at once where it names this module, with
0x60 without a route, and else goes on executing until its flit is acknowledged. VX_EXPORT with aligned words sets the window it names,
or empties it for SIZE 0, and ends with 0x00. Model's choices: a VX_PUT queues its packets at its issue, and a VX_SIGNAL to this module
ends at once (log entry 56); TXIDs count up from 0 (log entry 65). (R299, R300, R301, R303, R298) -/
def Obligations.VexjaTransfersLeave : Prop :=
  (∀ (s : State) (ref : DescRef) (d : Desc), s.issues ref 0x700 d → firstFail (putChecks (s.ctx ref.ctx) d) = none →
    (let n := fld (d.word 4) 0 40
     let dst := fld (d.word 3) 0 14
     let b := s.begun ref d
     (n = 0 → exec (.vxPut ref) s = .next (b.ended ref 0x01 0)) ∧
     (n ≠ 0 → b.egressOf dst = none → exec (.vxPut ref) s = .next (b.ended ref 0x60 (at_ 0xF 0 ||| at_ (dst % 2 ^ 14) 4 ||| at_ 1 18))) ∧
     (n ≠ 0 → ∀ e v, b.egressOf dst = some e →
       putPackets (d.who ref.ctx) d b.lnk.txid n ((List.range (cdiv n 4096)).map (4096 * ·))
         ((b.takeTx false).setProg ref.ctx ref.ring ref.index (.vxPut b.lnk.txid e dst n)) = .ok () v →
       exec (.vxPut ref) s = .next v ∧ v.mem = s.mem ∧ v.lnk.txid = (s.lnk.txid + 1) % 2 ^ 24 ∧
         v.desc ref = some { d with st := .executing, issued := true, prog := .vxPut s.lnk.txid e dst n }))) ∧
  (∀ (s : State) (ref : DescRef) (d : Desc) (t e dst n : Nat), s.desc ref = some d → d.st = .executing → d.prog = .vxPut t e dst n →
    exec (.vxPutTimeout ref) s = .next (s.ended ref 0x60 (at_ e 0 ||| at_ (dst % 2 ^ 14) 4 ||| at_ 3 18))) ∧
  (∀ (s : State) (ref : DescRef) (d : Desc), s.issues ref 0x701 d → fld (d.word 1) 15 49 = 0 → (∀ j ∈ [3, 4, 5, 6, 7], d.word j = 0) →
    (let dst := fld (d.word 1) 0 14
     let b := s.begun ref d
     let sent := b.sendSignal dst (BitVec.ofNat 32 (fld (d.word 2) 0 32)) (BitVec.ofNat 32 (fld (d.word 2) 32 32)) (some (ref.ctx, ref.ring, ref.index))
     (b.egressOf dst = none → exec (.vxSignal ref) s = .next (b.ended ref 0x60 (at_ 0xF 0 ||| at_ (dst % 2 ^ 14) 4 ||| at_ 1 18))) ∧
     (b.egressOf dst = some 15 → ∀ u, sent = some u → exec (.vxSignal ref) s = .next (u.ended ref 0x00 0)) ∧
     (∀ e u, b.egressOf dst = some e → e ≠ 15 → sent = some u →
       exec (.vxSignal ref) s = .next (u.setProg ref.ctx ref.ring ref.index (.vxSignal e dst)) ∧ u.lnk.txid = (s.lnk.txid + 1) % 2 ^ 24))) ∧
  (∀ (s : State) (ref : DescRef) (d : Desc), s.issues ref 0x702 d → (d.word 1).toNat % 65536 = 0 → (d.word 2).toNat % 65536 = 0 →
    fld (d.word 3) 5 27 = 0 → (∀ j ∈ [4, 5, 6, 7], d.word j = 0) →
    (let k := fld (d.word 3) 0 4
     let w : ExportWin := ⟨(d.word 1).toNat, (d.word 2).toNat, bit (d.word 3) 4, BitVec.ofNat 32 (fld (d.word 3) 32 32)⟩
     exec (.vxExport ref) s = .next (((s.begun ref d).modCtx ref.ctx (fun x =>
       { x with exports := if (d.word 2).toNat = 0 then tdel x.exports k else tput x.exports k w })).ended ref 0x00 0)))

/-- A THIN or ATTN_MERGE that fails a check ends with that check's status. One that passes its checks outside FROZEN with its counters free:
with no segment or no query it ends with 0x01; else, with bitmap units and slices left, it goes on executing with one work tile per
segment, or per 128 rows and head, none of them marked, and no byte of memory changed; with none left it waits at issue, not started. Of
a segment's blocks THIN sends the K of highest score: it selects min(K, blocks) of them, in ascending order, and none that it leaves has
a higher score than one that it takes, of equal scores the lower index going first. Where neither result has a weight a merged row is
zero. (R313, R314, R315, R336) -/
def Obligations.ThinningAndMerging : Prop :=
  (∀ (s : State) (ref : DescRef) (d : Desc) (op : Nat), (op = 0x710 ∨ op = 0x722) → s.issues ref op d → (∀ j, d.prog ≠ .job j) →
    (let b := s.begun ref d
     let ex := exec (if op = 0x710 then .thin ref else .attnMerge ref) s
     let n := if op = 0x710 then d.thin.nseg else d.merge.nq
     let t := if op = 0x710 then d.thin.nseg else cdiv d.merge.nq 128 * d.merge.heads
     let ck := firstFail (if op = 0x710 then d.thin.checks (b.ctx ref.ctx) d else d.merge.checks (b.ctx ref.ctx) d)
     (∀ st, ck = some st → ex = .next (b.ended ref st.status st.result)) ∧
     (ck = none → (s.ctx ref.ctx).frozen = false → b.jobBusy ref.ctx d = false →
     (n = 0 → ∀ b1, holdCounters ref.ctx d b = .ok () b1 → ex = .next (b1.ended ref 0x01 0)) ∧
     (n ≠ 0 → b.unitsLack ref.ctx d (min t 262144) = false → b.sliceLack d = [] → ∃ (v : State) (j : Job), ex = .next v ∧
       v.desc ref = some { d with st := .executing, issued := true, prog := .job j } ∧ j.started = true ∧ j.total = t ∧ j.bits = [] ∧
       j.section_ = 0 ∧ v.mem = s.mem ∧ (∀ i, i ≠ ref.ctx → v.ctx i = s.ctx i)) ∧
     (n ≠ 0 → b.unitsLack ref.ctx d (min t 262144) = true ∨ b.sliceLack d ≠ [] → ∃ (v : State) (j : Job), ex = .next v ∧
       v.desc ref = some { d with st := .waiting, issued := false, prog := .job j } ∧ j.started = false ∧ j.total = t ∧ v.mem = s.mem)))) ∧
  (∀ (scores : List Nat) (k : Nat),
    (topBlocks scores k).length = min k scores.length ∧ (topBlocks scores k).Pairwise (· < ·) ∧
    ∀ a ∈ topBlocks scores k, a < scores.length ∧ ∀ b < scores.length, b ∉ topBlocks scores k →
      scores.getD b 0 < scores.getD a 0 ∨ (scores.getD b 0 = scores.getD a 0 ∧ a < b)) ∧
  (∀ (ma la mb lb : SV) (oa ob : List SV), (mergeRow ma la mb lb oa ob).2.1.isZero = true → (mergeRow ma la mb lb oa ob).2.1.isNeg = false →
    ∀ v ∈ (mergeRow ma la mb lb oa ob).2.2, v = svZero)

/-- RED_SET of a readable record that R316 accepts sets the slot or empties it, and ends with 0x00; a refused one names the record's field.
RED_RUN for a valid slot and the expected STEP, outside FROZEN, reads the rank table, its SMAP and SEND and starts each segment; for an
empty slot it ends with 0x12, reason 0x0711, for another STEP with 0x0712, and reads nothing. A REDUCE packet for no valid slot is
dropped and counted as early; one of the next STEP is held while the store has room, late or not, and the SLOW flag of a partial is
kept; one of the open step is consumed. A window under WAIT never closes; one whose missing child was slow is extended while its count
permits, and else its node goes on without that child. The fold limit ends a step whose roots are resolved and whose sends are
acknowledged, its REPORT written first; the doldrums limit abandons the node whose window has been open longest, and a step with no
other duty then ends with 0x41. Model's choices: which node a doldrums expiry abandons, and whose SLOW is kept (log entry 82); where
partials are held and when faults show (log entry 52). (R316, R317, R322, R323, R324, R325, R327, R328) -/
def Obligations.Reductions : Prop :=
  (∀ (s s1 : State) (ref : DescRef) (d : Desc) (bs : List Byte), s.issues ref 0x711 d → (d.word 1).toNat % 64 = 0 →
    fld (d.word 2) 3 61 = 0 → (∀ j ∈ [3, 4, 5, 6, 7], d.word j = 0) →
    rdVa (d.who ref.ctx) (d.word 1).toNat 64 (s.begun ref d) = .ok bs s1 →
    (let ws := bytesWords 8 bs
     let k := fld (d.word 2) 0 3
     (∀ w b, redBad ws = some (w, b) → exec (.redSet ref) s = .next (s1.ended ref 0x10 (at_ w 0 ||| at_ b 4 ||| at_ 9 10 ||| at_ 1 16))) ∧
     (redBad ws = none → ∃ u : State, exec (.redSet ref) s = .next (u.ended ref 0x00 0) ∧
       (u.ctx ref.ctx).redSlot k = (if bit (wrd ws 0) 0 then redOfRecord ws else RedSlot.reset) ∧
       (∀ j, j ≠ k → (u.ctx ref.ctx).redSlot j = (s1.ctx ref.ctx).redSlot j) ∧ u.mem = s1.mem ∧ (∀ j, j ≠ ref.ctx → u.ctx j = s1.ctx j)))) ∧
  (∀ (s : State) (ref : DescRef) (d : Desc), s.issues ref 0x712 d → firstFail (redChecks d) = none → (s.ctx ref.ctx).frozen = false →
    (let w := d.who ref.ctx
     let k := fld (d.word 1) 0 3
     let step := BitVec.ofNat 32 (fld (d.word 1) 32 32)
     let b := s.begun ref d
     let x := s.ctx ref.ctx
     let q0 := x.redSlot k
     (q0.valid = false → exec (.redRun ref) s = .next (b.ended ref 0x12 (at_ x.stateByte 0 ||| at_ 0x0711 16))) ∧
     (q0.valid = true → q0.expect ≠ step → exec (.redRun ref) s = .next (b.ended ref 0x12 (at_ x.stateByte 0 ||| at_ 0x0712 16))) ∧
     (q0.valid = true → q0.expect = step → ∀ (tb : List Byte) (leaves : List (List (Nat × List Word))) (s1 s2 : State),
       rdVa w q0.rankVa (4 * q0.ranks) b = .ok tb s1 →
       (let q := { q0 with table := (List.range q0.ranks).map (fun i => elemBits ((tb.drop (4 * i)).take 4) 32 0) }
        (List.range q.nseg).mapM (redLeaf w q (d.word 2).toNat (d.word 3).toNat) s1 = .ok leaves s2 → ∃ run : RedRun,
          run.step = step ∧ run.ring = ref.ring ∧ run.index = ref.index ∧ run.parts = [] ∧
          run.policy = (if d.redPolicy = 1 ∧ x.cfg.strictSum = true then 2 else d.redPolicy) ∧
          exec (.redRun ref) s = .next ((((List.range q.nseg).foldl (fun s g => s.redStart ref.ctx k q run g (leaves.getD g []))
            ((s2.modRed ref.ctx k (fun _ => { q with run := some run })).setProg ref.ctx ref.ring ref.index (.red k))).redRelease
              ref.ctx k step).redSettle ref.ctx k))))) ∧
  (∀ (s : State) (p : Nat) (r : RxPkt) (more : List RxPkt), tget [] (s.port p).rxQ 3 = r :: more → r.pkt.type = 4 → s.route r.pkt.dst = .local_ →
    (let c := r.pkt.destCtx
     let q := (s.ctx c).redSlot r.pkt.redSlotNo
     let die := dieOf p
     (q.valid = false → ∃ v, exec (.reduce p) s = .next v ∧ (v.store die).drop = true ∧ (v.store die).earlyCnt = satInc (s.store die).earlyCnt ∧
       v.ctxs = s.ctxs ∧ v.mem = s.mem ∧ tget [] (v.port p).rxQ 3 = more) ∧
     (q.valid = true → r.pkt.redSeg q < q.nseg → (s.ctx c).st = .run → q.run = none → r.pkt.redStep = q.expect →
       s.storeUse die + r.pkt.flits ≤ 131072 → ∃ v, exec (.reduce p) s = .next v ∧ (v.store die).held = (s.store die).held ++ [(p, r.pkt)] ∧
         (∀ j, j ≠ c → v.ctx j = s.ctx j) ∧ (v.ctx c).redSlot r.pkt.redSlotNo =
           { q with slow := if r.pkt.redLate then q.slow else (r.pkt.redRank, r.pkt.slow) :: q.slow.filter (fun e => e.1 != r.pkt.redRank) } ∧ v.mem = s.mem ∧ (v.store die).drop = (s.store die).drop) ∧
     (∀ r0, q.valid = true → r.pkt.redSeg q < q.nseg → (s.ctx c).st = .run → q.run = some r0 → s.redOpen c r0 = true → r.pkt.redStep = r0.step →
       r.pkt.redLate = false →
       (let s1 := (s.takeRx p 3).rankSlow r.pkt
        let t := (s1.redConsume c r.pkt.redSlotNo die ((s1.ctx c).redSlot r.pkt.redSlotNo) r0 r.pkt).redSettle c r.pkt.redSlotNo
        t.storeUse die ≤ 131072 → exec (.reduce p) s = .next t)))) ∧
  (∀ (s : State) (ref : DescRef) (d : Desc) (k seg level idx : Nat) (q : RedSlot) (r : RedRun) (n : RedNode),
    s.runOf ref = some (d, k, q, r) → r.node seg level idx = some n →
    (r.policy = 0 → exec (.reductionWindowClose ref seg level idx) s = .next s) ∧
    (r.policy ≠ 0 → r.windowOpen n = true → r.child q n (2 * idx) = none → r.child q n (2 * idx + 1) ≠ none → n.ext < r.slowExt →
      n.is seg level idx = true → q.spanSlow (level - 1) (2 * idx) = true → r.nodes = [n] → ∃ v, exec (.reductionWindowClose ref seg level idx) s = .next v ∧
        s.onlyCtx v ref.ctx ∧ ((v.ctx ref.ctx).redSlot k).run = some { r with nodes := [{ n with ext := n.ext + 1 }] }) ∧
    (r.policy ≠ 0 → r.windowOpen n = true → r.child q n (2 * idx) = none → r.child q n (2 * idx + 1) ≠ none →
      r.slowExt ≤ n.ext ∨ q.spanSlow (level - 1) (2 * idx) = false → ∃ v, exec (.reductionWindowClose ref seg level idx) s = .next v ∧
        ∀ r', ((v.ctx ref.ctx).redSlot k).run = some r' → ∀ m ∈ r'.nodes, m.is seg level idx = true → m.done = true ∧ 2 * idx ∈ m.missing) ∧
    (r.policy = 1 → r.nodes.all (·.done) = true → r.segs.all RedSeg.ended = true → s.ownerBusy (ref.ctx, r.ring, r.index) = false →
      r.ring = ref.ring → r.index = ref.index →
      (let r1 : RedRun := { r with foldOver := true }
       let s1 := (s.modRun ref.ctx k (fun r => { r with foldOver := true })).tick
       let left := r1.leftRanks q.ranks s.free
       let o := r1.outcome k left.length
       (r.reportVa = 0 → exec (.foldLimitExpiry ref) s = .next (s1.ended ref o.status o.result)) ∧
       (r.reportVa ≠ 0 → ∀ s2, wrVa (r1.who ref.ctx) r.reportVa (reportBytes left) s1 = .ok () s2 →
         exec (.foldLimitExpiry ref) s = .next (s2.ended ref o.status o.result)))) ∧
    (fld (d.word 4) 48 16 ≠ 0 → r.oldest = some n →
      exec (.redDoldrums ref) s = .next ((s.abandonNode ref.ctx k q n).redSettle ref.ctx k) ∧
      (r.nodes = [n] → r.segs = [] → r.outs = [] → r.policy ≠ 1 → r.bad = none → r.reportVa = 0 → r.ring = ref.ring → r.index = ref.index →
        s.ownerBusy (ref.ctx, r.ring, r.index) = false →
        exec (.redDoldrums ref) s = .next ((s.abandonNode ref.ctx k q n).tick.ended ref 0x41 (at_ (0xFFFFFFF0 + k) 0 ||| at_ r.step.toNat 32)))) ∧
    (fld (d.word 4) 48 16 = 0 → exec (.redDoldrums ref) s = .next s))

/-- JET_RING_SET with its fields in order sets the ring slot with its neighbours and EXPECT, or empties it, drops held packets of other
rounds, and ends with 0x00. JET_PASS for a ring slot that is not set ends with 0x12, reason 0x0721, for another ROUND with 0x0722; where
a direction that it takes does not fit with 0x0724; of no tokens it ends with 0x01; else, its guest long enough, it sends its chunks
where it sends, takes the packets held for its round, and ends if nothing is left to do; a receive for which nothing is held goes on
executing with nothing placed. A JET packet from an endpoint that is not the neighbour is dropped and counted; one of the expected round
with no pass open is held while the store has room; one of an open receive is written into it. The doldrums limit ends a pass with 0x41,
and none where the limit is 0. (R332, R333, R334, R335) -/
def Obligations.JetstreamPasses : Prop :=
  (∀ (s : State) (ref : DescRef) (d : Desc), s.issues ref 0x720 d → fld (d.word 1) 14 2 = 0 → fld (d.word 1) 26 6 = 0 →
    fld (d.word 1) 46 18 = 0 → fld (d.word 2) 3 29 = 0 → (∀ j ∈ [3, 4, 5, 6, 7], d.word j = 0) →
    (let k := fld (d.word 2) 0 2
     let q : JetSlot := { JetSlot.reset with
       valid := true, nextEpid := fld (d.word 1) 0 14, nextCtx := fld (d.word 1) 16 10, prevEpid := fld (d.word 1) 32 14,
       expect := BitVec.ofNat 32 (fld (d.word 2) 32 32) }
     ∃ u : State, exec (.jetRingSet ref) s = .next (u.ended ref 0x00 0) ∧ u.mem = s.mem ∧ (∀ j, j ≠ ref.ctx → u.ctx j = s.ctx j) ∧
       (u.ctx ref.ctx).jetSlot k = (if bit (d.word 2) 2 then q else JetSlot.reset) ∧
       (∀ j, j ≠ k → (u.ctx ref.ctx).jetSlot j = (s.ctx ref.ctx).jetSlot j) ∧
       (∀ e ∈ (u.store 0).held, e ∈ (s.store 0).held) ∧ (∀ e ∈ (u.store 1).held, e ∈ (s.store 1).held))) ∧
  (∀ (s : State) (ref : DescRef) (d : Desc), s.issues ref 0x721 d → (∀ k, d.prog ≠ .jet k) → firstFail (jetChecks d) = none →
    (s.ctx ref.ctx).frozen = false →
    (let k := fld (d.word 1) 0 2
     let b := s.begun ref d
     let x := s.ctx ref.ctx
     let q := x.jetSlot k
     let round := BitVec.ofNat 32 (fld (d.word 1) 32 32)
     let n := fld (d.word 3) 32 32
     (q.valid = false → exec (.jetPass ref) s = .next (b.ended ref 0x12 (at_ x.stateByte 0 ||| at_ 0x0721 16))) ∧
     (q.valid = true → q.expect ≠ round → exec (.jetPass ref) s = .next (b.ended ref 0x12 (at_ x.stateByte 0 ||| at_ 0x0722 16))) ∧
     (q.valid = true → q.expect = round → ∀ (fitS fitR : Bool) (s1 s2 s3 : State) (g : SeqRec),
       (if bit (d.word 1) 2 then jetFits (d.who ref.ctx) d.jetSrc n false else pure true) b = .ok fitS s1 →
       (if bit (d.word 1) 3 then jetFits (d.who ref.ctx) d.jetDst n true else pure true) s1 = .ok fitR s2 →
       ((fitS && fitR) = false → exec (.jetPass ref) s = .next (s2.ended ref 0x12 (at_ x.stateByte 0 ||| at_ 0x0724 16))) ∧
       ((fitS && fitR) = true → n = 0 → exec (.jetPass ref) s = .next (s2.ended ref 0x01 0)) ∧
       ((fitS && fitR) = true → n ≠ 0 →
         (if bit (d.word 1) 3 then rdSeq (d.who ref.ctx) d.jetDst.space d.jetDst.seq else pure ⟨[]⟩) s2 = .ok g s3 →
         (bit (d.word 1) 3 = true → n ≤ g.maxLen) → s3.desc ref = some { d with st := .executing, issued := true } →
         (let run : JetRun := ⟨ref.ring, ref.index, round, bit (d.word 1) 2, bit (d.word 1) 3, false, [], []⟩
          let s4 := ((s3.modJet ref.ctx k (fun q => { q with run := some run })).purgeJet ref.ctx k).setProg ref.ctx ref.ring ref.index (.jet k)
          (bit (d.word 1) 2 = true → ∀ ok s5, jetSend (d.who ref.ctx) k { d with prog := .jet k } run s4 = .ok ok s5 →
            exec (.jetPass ref) s = .next ((s5.jetRelease ref.ctx k round).jetSettle ref.ctx k)) ∧
          (bit (d.word 1) 2 = false → exec (.jetPass ref) s = .next ((s4.jetRelease ref.ctx k round).jetSettle ref.ctx k))))) ∧
     (q.valid = true → q.expect = round → bit (d.word 1) 2 = false → bit (d.word 1) 3 = true → ∀ (s1 s2 : State) (g : SeqRec),
       jetFits (d.who ref.ctx) d.jetDst n true b = .ok true s1 →
       (n = 0 → exec (.jetPass ref) s = .next (s1.ended ref 0x01 0)) ∧
       (n ≠ 0 → rdSeq (d.who ref.ctx) d.jetDst.space d.jetDst.seq s1 = .ok g s2 → n ≤ g.maxLen → (s2.store 0).held = [] →
         (s2.store 1).held = [] → s2.desc ref = some { d with st := .executing, issued := true } → ∃ v, exec (.jetPass ref) s = .next v ∧
         v.desc ref = some { d with st := .executing, issued := true, prog := .jet k } ∧ v.mem = s2.mem ∧
         ∃ run, ((v.ctx ref.ctx).jetSlot k).run = some run ∧ run.round = round ∧ run.recv = true ∧ run.send = false ∧ run.placed = false)))) ∧
  (∀ (s : State) (p : Nat) (r : RxPkt) (more : List RxPkt), tget [] (s.port p).rxQ 3 = r :: more → r.pkt.type = 5 → s.route r.pkt.dst = .local_ →
    (let c := r.pkt.destCtx
     let q := (s.ctx c).jetSlot r.pkt.jetSlotNo
     let die := dieOf p
     (q.valid = true → r.pkt.src ≠ q.prevEpid → ∃ v, exec (.jet p) s = .next v ∧ (v.store die).drop = true ∧
       (v.store die).earlyCnt = satInc (s.store die).earlyCnt ∧ v.ctxs = s.ctxs ∧ v.mem = s.mem ∧ tget [] (v.port p).rxQ 3 = more) ∧
     (q.valid = true → r.pkt.src = q.prevEpid → (s.ctx c).st = .run → q.run = none → r.pkt.jetRound = q.expect →
       s.storeUse die + r.pkt.flits ≤ 131072 → ∃ v, exec (.jet p) s = .next v ∧ (v.store die).held = (s.store die).held ++ [(p, r.pkt)] ∧
         v.ctxs = s.ctxs ∧ v.mem = s.mem) ∧
     (∀ d r0 s1, q.valid = true → r.pkt.src = q.prevEpid → (s.ctx c).st = .run → s.jetOpen c r.pkt.jetSlotNo = some (d, r0) → r0.recv = true →
       r.pkt.jetRound = r0.round → jetTake (d.who c) r.pkt.jetSlotNo d r0 r.pkt (s.takeRx p 3) = .ok true s1 →
       (s1.jetSettle c r.pkt.jetSlotNo).storeUse die ≤ 131072 → exec (.jet p) s = .next (s1.jetSettle c r.pkt.jetSlotNo)))) ∧
  (∀ (s : State) (ref : DescRef) (d : Desc) (k : Nat) (r : JetRun), s.desc ref = some d → d.prog = .jet k → s.jetOpen ref.ctx k = some (d, r) →
    (fld (d.word 5) 0 16 = 0 → exec (.jetDoldrums ref) s = .next s) ∧
    (fld (d.word 5) 0 16 ≠ 0 → ∃ s1, (r.taken = [] → s1 = s) ∧ exec (.jetDoldrums ref) s =
      .next (s1.ended ref 0x41 (at_ (0xFFFFFFF8 + k) 0 ||| at_ r.round.toNat 32))))

/-- FRONT_SET of a readable record: one that R344 refuses names its field; else it sets or empties an entry of the context that is not busy,
and a busy one gives 0x12, reason 0x0804. FRONT_ARRIVE and FRONT_WAIT that fail a check on the front end with its status. An arrival
that leaves OLDEST as it is counts toward OLDEST, or the generation after it where its participant is already pending there, and ends
with 0x00 and its generation, or with WAIT waits for it; a third is held while the queue has room, and else ends with 0x40. The only
participant's arrival releases the generation: L and H are its value, OLDEST goes on. FRONT_WAIT for a released generation ends with
0x00, L and H; else it waits; without an arrival it ends with 0x12, reason 0x0805. FRONT_STATUS writes 64 bytes. TALLY_ADD adds modulo
2^32 and ends with the sum; TALLY_WAIT ends at once where T has reached THRESH and waits otherwise; TALLY_ALIGN arrives with T and waits
for its generation, at whose release T becomes L or H plus what was added since. A wait takes a slot while fewer than 1,024 are in use,
and else waits for one, counted; placed later it takes a slot and ends if its generation has been released. It gates when its spin
expires, and ends at its doldrums limit with 0x41 and the generation or THRESH, or, where its arrival is held, with 0x40 and without it.
Model's choices: L and H while nothing has been gathered, and no log entry for a local arrival at a full hold queue (log entry 84); what
a record that empties an entry is judged for (log entry 50). (R344, R345, R346, R347, R350, R351, R352, R354, R356, R357) -/
def Obligations.FrontsAndTallies : Prop :=
  (∀ (s s1 s2 : State) (ref : DescRef) (d : Desc) (hd tl : List Byte), s.issues ref 0x800 d → (d.word 1).toNat % 64 = 0 →
    fld (d.word 2) 16 48 = 0 → (∀ j ∈ [3, 4, 5, 6, 7], d.word j = 0) →
    (let w := d.who ref.ctx
     let t := fld (d.word 2) 0 4
     let i := fld (d.word 2) 4 12
     let x := s.ctx ref.ctx
     let first_ := tget 0 x.sched.frontFirst t
     i < 512 → x.sched.tileMask.getLsbD t = true → first_ ≤ i → i < first_ + 8 * x.sched.fronts.toNat →
     rdVa w (d.word 1).toNat 64 (s.begun ref d) = .ok hd s1 →
     (let h := bytesWords 8 hd
      let n := if bit (wrd h 0) 0 then fld (wrd h 0) 2 6 + 1 else 0
      let ws := h ++ bytesWords n tl
      rdVa w ((d.word 1).toNat + 64) (8 * n) s1 = .ok tl s2 →
      (∀ a b, frontBad ws = some (a, b) → exec (.frontSet ref) s = .next (s2.ended ref 0x10 (at_ a 0 ||| at_ b 4 ||| at_ 9 10 ||| at_ 1 16))) ∧
      (frontBad ws = none → s2.frontBusy t i = true →
        exec (.frontSet ref) s = .next (s2.ended ref 0x12 (at_ (s2.ctx ref.ctx).stateByte 0 ||| at_ 0x0804 16))) ∧
      (frontBad ws = none → s2.frontBusy t i = false → exec (.frontSet ref) s = .next ((s2.modFront t i (fun _ =>
        if bit (wrd ws 0) 0 then frontOfRecord ref.ctx ws else FrontEntry.reset)).ended ref 0x00 0))))) ∧
  (∀ (s : State) (ref : DescRef) (d : Desc) (p : Nat), s.issues ref 0x801 d →
    firstFail (frontIdBad d 1 :: waitChecks d 2 true false ++ rsvWords d [3, 4, 5, 6, 7]) = none →
    (let f := d.frontId 1
     let v := BitVec.ofNat 32 (fld (d.word 1) 32 32)
     let b := s.begun ref d
     let t := frontTile f
     let i := frontIndex f
     let e := s.front t i
     let u := b.modFront t i (fun k => k.count p v v)
     let k := e.count p v v
     let gen := if e.arrOldest.contains p then (e.oldest + 1) % 4 else e.oldest
     (∀ st, firstFail (b.frontChecks ref.ctx d.ring f) = some st → exec (.frontArrive ref) s = .next (b.ended ref st.status st.result)) ∧
     (firstFail (b.frontChecks ref.ctx d.ring f) = none → e.local d.ring = some p →
      (e.pendingOf p < 2 → k.complete = false ∨ k.awaits = true →
        (bit (d.word 2) 0 = false → exec (.frontArrive ref) s = .next (u.ended ref 0x00 (at_ gen 0))) ∧
        (bit (d.word 2) 0 = true → exec (.frontArrive ref) s =
          .next (u.placeWait ref.ctx d (waitFor f gen .release false (e.waitOf (d.word 2)))))) ∧
      (2 ≤ e.pendingOf p → (s.tile t).holdQ.length < 64 → ∃ (z : State) (w : FrontWait), exec (.frontArrive ref) s = .next z ∧
        (z.tile t).holdQ = (s.tile t).holdQ ++ [⟨i, p, v, v, e.oldest, f⟩] ∧ (z.tile t).fViol = true ∧ (z.tile t).fViolCnt = satInc (s.tile t).fViolCnt ∧
        z.front t i = e ∧ z.desc ref = some { d with st := .executing, issued := true, prog := .front w } ∧ w.held = true) ∧
      (2 ≤ e.pendingOf p → 64 ≤ (s.tile t).holdQ.length → exec (.frontArrive ref) s =
        .next ((b.modTile t (fun k => { k with fHoldFull := true, fHoldFullCnt := satInc k.fHoldFullCnt })).ended ref 0x40 (at_ f.toNat 0))) ∧
      (bit (d.word 2) 0 = false → e.parts.length = 1 → e.arrOldest = [] → e.arrNext = [] → e.open0 = none → e.open1 = none →
        e.parentEn = false → e.awaits = false → e.valid = true → (s.tile t).holdQ = [] → b.waitsOn t = [] →
        ∃ z, exec (.frontArrive ref) s = .next z ∧
        (z.front t i).lLast = v ∧ (z.front t i).hLast = v ∧ (z.front t i).oldest = (e.oldest + 1) % 4 ∧
        (z.front t i).releases = e.releases + 1 ∧ (z.front t i).arrOldest = [] ∧ z.mem = s.mem ∧
        ∃ k, z.desc ref = some k ∧ k.st = .done ∧ k.status = 0x00 ∧ k.result = at_ e.oldest 0)))) ∧
  (∀ (s : State) (ref : DescRef) (d : Desc) (p gen : Nat), s.issues ref 0x802 d →
    firstFail (frontIdBad d 1 :: rsv d 1 32 32 :: waitChecks d 2 false false ++ rsvWords d [3, 4, 5, 6, 7]) = none →
    (let f := d.frontId 1
     let b := s.begun ref d
     let e := b.frontOf f
     (∀ st, firstFail (b.frontChecks ref.ctx d.ring f) = some st → exec (.frontWait ref) s = .next (b.ended ref st.status st.result)) ∧
     (firstFail (b.frontChecks ref.ctx d.ring f) = none → e.local d.ring = some p →
      (e.lastGen.find? (fun g => g.1 == p) = none → exec (.frontWait ref) s =
        .next (b.ended ref 0x12 (at_ (s.ctx ref.ctx).stateByte 0 ||| at_ 0x0805 16))) ∧
      (e.lastGen.find? (fun g => g.1 == p) = some (p, gen) →
       (e.released gen = true → exec (.frontWait ref) s = .next (b.ended ref 0x00 (at_ e.lLast.toNat 0 ||| at_ e.hLast.toNat 32))) ∧
       (e.released gen = false → exec (.frontWait ref) s =
         .next (b.placeWait ref.ctx d (waitFor f gen .release false (e.waitOf (d.word 2))))))))) ∧
  (∀ (s : State) (c : Nat) (d : Desc) (w : FrontWait),
    (s.slotsUsed w.tile < 1024 → s.placeWait c d w = s.setProg c d.ring d.index (.front { w with slot := true })) ∧
    (1024 ≤ s.slotsUsed w.tile → s.placeWait c d w = (s.setProg c d.ring d.index (.front { w with slot := false })).modTile w.tile
      (fun k => { k with fSlotWait := true, fSlotWaitCnt := satInc k.fSlotWaitCnt }))) ∧
  (∀ (s v : State) (ref : DescRef) (d : Desc), s.issues ref 0x803 d → (d.word 1).toNat % 64 = 0 → bit (d.word 2) 31 = false →
    fld (d.word 2) 16 4 = 0 → fld (d.word 2) 32 32 = 0 → (∀ j ∈ [3, 4, 5, 6, 7], d.word j = 0) →
    (let f := d.frontId 2
     let b := s.begun ref d
     let bytes := wordsBytes (b.frontStatus (frontTile f) (frontIndex f))
     (b.frontUnset ref.ctx f = true → exec (.frontStatus ref) s = .next (b.ended ref 0x12 (at_ (s.ctx ref.ctx).stateByte 0 ||| at_ 0x0801 16))) ∧
     (b.frontUnset ref.ctx f = false → wrVa (d.who ref.ctx) (d.word 1).toNat bytes b = .ok () v →
       exec (.frontStatus ref) s = .next (v.ended ref 0x00 0) ∧ bytes.length = 64))) ∧
  (∀ (s : State) (ref : DescRef) (d : Desc), bit (d.word 1) 31 = false → fld (d.word 1) 16 4 = 0 → fld (d.word 1) 32 32 = 0 →
    fld (d.word 2) 32 32 = 0 → (∀ j ∈ [4, 5, 6, 7], d.word j = 0) →
    (let f := d.frontId 1
     let b := s.begun ref d
     let e := b.frontOf f
     firstFail (b.tallyChecks ref.ctx f) = none →
     (s.issues ref 0x804 d → d.word 3 = 0 →
       exec (.tallyAdd ref) s = .next ((b.addTally (frontTile f) (frontIndex f) (d.frontId 2)).ended ref 0x00
         (at_ (e.tally + d.frontId 2).toNat 0)) ∧
       ((b.addTally (frontTile f) (frontIndex f) (d.frontId 2)).frontOf f).tally = e.tally + d.frontId 2) ∧
     (s.issues ref 0x805 d → firstFail (waitChecks d 3 false false) = none →
       ((e.tally - d.frontId 2).toNat < 2 ^ 31 → exec (.tallyWait ref) s = .next (b.ended ref 0x00 (at_ e.tally.toNat 0))) ∧
       (2 ^ 31 ≤ (e.tally - d.frontId 2).toNat → exec (.tallyWait ref) s =
         .next (b.placeWait ref.ctx d (waitFor f 0 (.tally (d.frontId 2)) false (e.waitOf (d.word 3)))))))) ∧
  (∀ (s : State) (ref : DescRef) (d : Desc) (p : Nat), s.issues ref 0x806 d → bit (d.word 1) 31 = false → fld (d.word 1) 16 4 = 0 →
    bit (d.word 2) 31 = false → fld (d.word 2) 16 4 = 0 → fld (d.word 1) 32 32 = 0 → fld (d.word 2) 32 32 = 0 →
    firstFail (waitChecks d 3 false true) = none → (∀ j ∈ [4, 5, 6, 7], d.word j = 0) →
    (let f := d.frontId 2
     let y := d.frontId 1
     let b := s.begun ref d
     let t := frontTile f
     let i := frontIndex f
     let e := s.front t i
     let v := (b.frontOf y).tally
     let k := e.count p v v
     let gen := if e.arrOldest.contains p then (e.oldest + 1) % 4 else e.oldest
     let cks := firstFail (b.frontChecks ref.ctx d.ring f ++ b.tallyChecks ref.ctx y)
     (∀ st, cks = some st → exec (.tallyAlign ref) s = .next (b.ended ref st.status st.result)) ∧
     (cks = none → e.local d.ring = some p → e.pendingOf p < 2 → k.complete = false ∨ k.awaits = true → exec (.tallyAlign ref) s =
       .next ((b.modFront t i (fun k => k.count p v v)).placeWait ref.ctx d
         (waitFor f gen (.align (frontTile y) (frontIndex y) (bit (d.word 3) 4) (b.frontOf y).adds) false (e.waitOf (d.word 3))))))) ∧
  (∀ (s : State) (c : Nat) (d : Desc) (w : FrontWait) (t i : Nat) (takeLow : Bool) (a0 low high v : Word),
    (w.kind = .align t i takeLow a0 → ((s.endWait c d w low high).front t i).tally = (if takeLow then low else high) + ((s.front t i).adds - a0)) ∧
    ((s.addTally t i v).front t i).adds = (s.front t i).adds + v) ∧
  (∀ (s : State) (ref : DescRef) (d : Desc) (w : FrontWait), s.waitOf ref = some (d, w) →
    (let e := s.front w.tile w.entry
     let u := s.setProg ref.ctx ref.ring ref.index (.front { w with slot := true })
     (w.slot = false → s.slotsUsed w.tile < 1024 → w.held = true ∨ (w.kind = .release ∧ e.released w.gen = false) →
       exec (.waitSlotPlace ref) s = .next u) ∧
     (w.slot = false → s.slotsUsed w.tile < 1024 → w.held = false → w.kind = .release → e.released w.gen = true →
       exec (.waitSlotPlace ref) s = .next (u.ended ref 0x00 (at_ e.lLast.toNat 0 ||| at_ e.hLast.toNat 32))) ∧
     (w.slot = true ∨ 1024 ≤ s.slotsUsed w.tile → exec (.waitSlotPlace ref) s = .next s) ∧
     (w.policy = 2 → exec (.spinExpiry ref) s = .next (s.setProg ref.ctx ref.ring ref.index (.front { w with policy := 0 }))) ∧
     (w.policy ≠ 2 → exec (.spinExpiry ref) s = .next s) ∧
     (w.dold = 0 → exec (.doldrums ref) s = .next s) ∧
     (w.dold ≠ 0 → ∃ v, exec (.doldrums ref) s = .next v ∧ (v.tile w.tile).fDoldCnt = satInc (s.tile w.tile).fDoldCnt ∧
       (∃ k, v.desc ref = some k ∧ k.st = .done ∧ k.status = (if w.held then 0x40 else 0x41) ∧
         (w.held = true → k.result = at_ w.ident.toNat 0) ∧
         (w.held = false → ∀ th, w.kind = .tally th → k.result = at_ w.ident.toNat 0 ||| at_ th.toNat 32) ∧
         (w.held = false → (∀ th, w.kind ≠ .tally th) → k.result = at_ w.ident.toNat 0 ||| at_ w.gen 32)) ∧
       (w.held = false → (v.tile w.tile).holdQ = (s.tile w.tile).holdQ) ∧
       (w.held = true → ∀ p, e.local d.ring = some p → ∀ h ∈ (v.tile w.tile).holdQ, ¬ (h.entry = w.entry ∧ h.part = p)))))

/-- A power-fail on a closed switch pulls PWR_FAIL_N, stops the Permafrost writes and is logged, once. The power-fail's reset, an
overvoltage and the clamp's cutoff leave the module as a reset does, with the input as each says; a trip at 110 °C does so with TRIP_N
low, Bluone and its log kept, and its entry in the log; with the input off already, or no warning given, none of them does anything. A
sample is accounted in the interval and in PWR_ENERGY; entering the low or the high region sets its flag, its count and a log entry,
once. The budget's end grants no tile more than its demand, and all of them together no more than the budget; CAP is set where a grant
lies below a demand. A current above I_CLAMP puts every tile at level 24; below it one level is released. Energy that is not attributed
accumulates. PWR_SET by the owner writes PWR_CFG; a field outside its range stays, counted and logged as a conflict. None changes a
context or a byte of memory but for the resets. Model's choices: units and rounding, how the budget is shared, one entry for each region
entered (log entry 23); DETAIL and TILE of a power log entry, and what CLAMP_CNT counts (log entry 85). (R392, R393, R394, R395, R396,
R399, R410, R411, R412, R415, R440, R465) -/
def Obligations.InputBudgetAndClamp : Prop :=
  (∀ s : State, (s.pins.switch = true → s.pins.pwrFail = false → exec .powerFail s =
      .next ({ s with pins := { s.pins with pwrFail := true }, pmt := { s.pmt with pfail := true } }.pwrLog 7 0xF 0 0)) ∧
    (s.pins.switch = false ∨ s.pins.pwrFail = true → exec .powerFail s = .next s)) ∧
  (∀ s : State,
    (s.pins.pwrFail = true ∨ s.pins.trip = true → ∃ t, exec .powerFailReset s = .next t ∧ s.restarted t (s.pins.switch && s.pins.inPrsnt) false) ∧
    (s.pins.pwrFail = false → s.pins.trip = false → exec .powerFailReset s = .next s) ∧
    (s.pins.switch = false ∨ s.pins.trip = true → exec .overvoltage s = .next s) ∧
    (s.pins.switch = true → s.pins.trip = false → ∃ t, exec .overvoltage s = .next t ∧ s.restarted t false false) ∧
    (∀ ca, s.pwr.clampLevel = 24 → s.iClamp * 110 < ca → ∃ t, exec (.clampCutoff ca) s = .next t ∧ s.restarted t false false) ∧
    (∀ ca, ca ≤ s.iClamp * 110 → exec (.clampCutoff ca) s = .next s) ∧
    (∀ tile temp, s.pins.switch = true → 110 ≤ temp → ∃ t, s.powerFail.restarted t true false ∧ exec (.thermalTrip tile temp) s =
      .next ({ t with blu := s.blu, err := s.err, pins := { t.pins with trip := true, pwrFail := true } }.errLog 7 12 tile 0x1F (at_ 3 0 ||| at_ tile 4 ||| at_ temp 16) LogWho.none)) ∧
    (∀ tile temp, temp < 110 ∨ s.pins.switch = false → exec (.thermalTrip tile temp) s = .next s)) ∧
  (∀ (s : State) (mv ca base links memory : Nat) (tiles : List Nat), mv < 65536 → ca < 65536 →
    ∃ v, exec (.inputSample mv ca tiles base links memory) s = .next v ∧ v = { s with pwr := v.pwr } ∧ v.pwr.vIn.toNat = mv ∧ v.pwr.iIn.toNat = ca ∧
      v.pwr.samples = s.pwr.samples + 1 ∧ v.pwr.vSum = s.pwr.vSum + mv ∧ v.pwr.pSum = s.pwr.pSum + mv * ca * 10 / 1000 ∧
      v.pwr.energy = s.pwr.energy + BitVec.ofNat 64 ((s.pwr.rest + mv * ca * 10 / 1000 * 256) / 1800000000) ∧
      (∀ t < s.nTiles, (v.ptile t).sum = (s.ptile t).sum + tiles.getD t 0) ∧
      (40000 ≤ mv ∧ mv < 44000 → v.pwr.region = 1 ∧ (s.pwr.region ≠ 1 → v.pwr.lowIn = true ∧ v.pwr.lowCnt = satInc s.pwr.lowCnt ∧
        v.pwr.log = (s.pwrLog 5 0xF 0 ca).pwr.log)) ∧
      (58000 < mv ∧ mv ≤ 62000 → v.pwr.region = 2 ∧ (s.pwr.region ≠ 2 → v.pwr.highIn = true ∧ v.pwr.highCnt = satInc s.pwr.highCnt ∧
        v.pwr.log = (s.pwrLog 6 0xF 0 ca).pwr.log)) ∧
      (44000 ≤ mv ∧ mv ≤ 58000 → v.pwr.region = 0 ∧ v.pwr.log = s.pwr.log ∧ v.pwr.lowIn = s.pwr.lowIn ∧ v.pwr.highIn = s.pwr.highIn)) ∧
  (∀ (s : State) (estimates : List Nat), s.pwr.samples = 0 → ∃ v, exec (.budgetRecompute estimates) s = .next v ∧ v = { s with pwr := v.pwr } ∧
    v.pwr.history = s.pwr.history ∧ ∀ t < s.nTiles, (v.ptile t).next ≤ s.demand t (estimates.getD t 0)) ∧
  (∀ (s : State) (estimates : List Nat), s.pwr.samples ≠ 0 → ∃ v, exec (.budgetRecompute estimates) s = .next v ∧ v = { s with pwr := v.pwr } ∧
    (∀ t < s.nTiles, (v.ptile t).next ≤ s.demand t (estimates.getD t 0) ∧ (v.ptile t).power = (s.ptile t).sum / s.pwr.samples) ∧
    ((List.range s.nTiles).map (fun t => (v.ptile t).next)).sum ≤
      min (min (s.pwr.capW.toNat * 1000) (s.ceilW * 1000)) (s.iClamp * (s.pwr.vSum / s.pwr.samples)) ∧
    ((∃ t < s.nTiles, (v.ptile t).next < s.demand t (estimates.getD t 0)) → v.pwr.cap = true ∧ v.pwr.capCnt = satInc s.pwr.capCnt) ∧
    ((∀ t < s.nTiles, (v.ptile t).next = s.demand t (estimates.getD t 0)) → v.pwr.cap = s.pwr.cap ∧ v.pwr.capCnt = s.pwr.capCnt) ∧
    v.pwr.samples = 0 ∧ v.pwr.history = (s.pwr.pSum / s.pwr.samples :: s.pwr.history).take 1000) ∧
  (∀ (s : State) (ca mj : Nat),
    (s.iClamp * 100 < ca → ∃ v, exec (.clamp ca) s = .next v ∧ v = { s with pwr := v.pwr } ∧ (∀ t, 24 ≤ v.stretch t) ∧ v.pwr.clamp = true ∧
      v.pwr.clampCnt = satInc s.pwr.clampCnt ∧ v.pwr.log = (s.pwrLog 1 0xF 0 ca).pwr.log ∧
      (∀ t < s.nTiles, (v.ptile t).throttled = true ∧ ((s.ptile t).throttled = false → (v.ptile t).throttleCnt = satInc (s.ptile t).throttleCnt))) ∧
    (ca ≤ s.iClamp * 100 → exec (.clamp ca) s = .next s) ∧
    (ca < s.iClamp * 100 → ∃ v, exec (.clampHoldExpiry ca) s = .next v ∧ v = { s with pwr := v.pwr } ∧ v.pwr.clampLevel = s.pwr.clampLevel - 1 ∧
      v.pwr.clamp = s.pwr.clamp ∧ v.pwr.log = s.pwr.log) ∧
    (s.iClamp * 100 ≤ ca → exec (.clampHoldExpiry ca) s = .next s) ∧
    exec (.energyRecalibrate mj) s = .next { s with pwr := { s.pwr with unattr := s.pwr.unattr + BitVec.ofNat 64 mj } }) ∧
  (∀ (s : State) (v : DWord) (p : OwnerProof), s.ownerHears p → exec (.pwrSet v p) s =
    .next (if s.ownerSigned 0x20 (leBytes 8 v.toNat) p then (s.nonceUsed.writePwrCfg v).reply p 0x20 0 else s.nonceUsed.reply p 0x20 1)) ∧
  (∀ (s : State) (v : DWord),
    (let t := s.writePwrCfg v
     t = { s with pwr := t.pwr } ∧ t.pwr.mode = bit v 20 ∧ t.pwr.drizzleEn = bit v 36 ∧ t.pwr.drizzleHold = BitVec.ofNat 10 (fld v 37 10) ∧
     t.pwr.capW = (if s.capMinW ≤ fld v 0 13 ∧ fld v 0 13 ≤ s.designW then BitVec.ofNat 13 (fld v 0 13) else s.pwr.capW) ∧
     t.pwr.capWin = (if 1 ≤ fld v 13 7 ∧ fld v 13 7 ≤ 100 then BitVec.ofNat 7 (fld v 13 7) else s.pwr.capWin) ∧
     t.pwr.gustMax = (if fld v 21 3 ≤ 4 then BitVec.ofNat 3 (fld v 21 3) else s.pwr.gustMax) ∧
     t.pwr.slewLim = (if 5 ≤ fld v 24 5 ∧ fld v 24 5 ≤ 20 then BitVec.ofNat 5 (fld v 24 5) else s.pwr.slewLim) ∧
     t.pwr.tThrottle = (if 85 ≤ fld v 29 7 ∧ fld v 29 7 ≤ 105 then BitVec.ofNat 7 (fld v 29 7) else s.pwr.tThrottle) ∧
     (let n := [decide (s.capMinW ≤ fld v 0 13 ∧ fld v 0 13 ≤ s.designW), decide (1 ≤ fld v 13 7 ∧ fld v 13 7 ≤ 100), decide (fld v 21 3 ≤ 4),
        decide (5 ≤ fld v 24 5 ∧ fld v 24 5 ≤ 20), decide (85 ≤ fld v 29 7 ∧ fld v 29 7 ≤ 105)].countP (· == false)
      t.pwr.conflict = (s.pwr.conflict || decide (0 < n)) ∧ t.pwr.log.ord = s.pwr.log.ord + BitVec.ofNat 32 n ∧
      t.pwr.conflictCnt = (List.range n).foldl (fun c _ => satInc c) s.pwr.conflictCnt)))

/-- A tile's interval takes its next grant and the lowest stretch level whose measured power fits it, 24 where none does; four throttled
intervals running set SLOW. While the filler runs under a falling grant the level does not rise; the voltage stands at what the old
clock and the new one need. A slew window gives level 24 to a tile whose rise exceeds its share, lowers one level where the share
allows, and holds falls to the share. The hold's expiry marks the filler as tapering. FORECAST with a legal KIND, LEVEL and DURATION
joins the Forecasts in force, replaces what overlaps it, and ends with 0x00; a reserved KIND, a LEVEL above 100 or a DURATION of 0 ends
it with 0x10 at that field. Its lead puts it in force, its expiry ends it, and a compute Forecast whose tiles draw less than half of
LEVEL is a miss: flag, count, log entry. Gust takes the highest fitting level up to GUST_MAX, none in Calm or near T_THROTTLE, and a
lower one where the clamp or the thermal loop acts, whose stretch it releases. A tile with a junction at T_THROTTLE goes up one level at
each sample; stacks and DIMMs halve or quarter their rate by temperature. Model's choices: grants and rounding (log entry 23); voltages
in whole intervals, idle cores and Gust's releases (log entry 77); what THERM_CNT counts, and DETAIL (log entry 85). (R398, R399, R400,
R401, R402, R403, R405, R407, R408, R409, R414) -/
def Obligations.TilesForecastsAndTemperature : Prop :=
  (∀ (s : State) (t : Nat) (powers : List Nat), t < s.nTiles → ∃ v, exec (.tilePowerInterval t powers) s = .next v ∧
    v = { s with pwr := v.pwr, lnk := { s.lnk with slow := v.lnk.slow } } ∧ (v.ptile t).grant = (s.ptile t).next ∧ (∃ fit ≤ 24,
      (∀ l < fit, ∀ p, powers[l]? = some p → (s.ptile t).next < p) ∧ (fit < 24 → ∃ p, powers[fit]? = some p ∧ p ≤ (s.ptile t).next) ∧
      (v.ptile t).cap = if s.drizzles t = true ∧ (s.ptile t).next < (s.ptile t).power then min (s.ptile t).cap fit else fit) ∧
    s.needVolt t ≤ (v.ptile t).volt ∧ v.needVolt t ≤ (v.ptile t).volt ∧
    (s.isThrottled t = true → 3 ≤ (s.ptile t).hotRun → v.lnk.slow = true) ∧
    (v.ptile t).hotRun = (if s.isThrottled t then (s.ptile t).hotRun + 1 else 0) ∧
    (∀ k < s.nTiles, (v.ptile k).throttled = v.isThrottled k) ∧ (∀ k < s.nTiles, k ≠ t → (v.ptile k).cap = (s.ptile k).cap)) ∧
  (∀ (s : State) (needs : List Int), ∃ v share, exec (.slewWindow needs) s = .next v ∧ v = { s with pwr := { s.pwr with tiles := v.pwr.tiles } } ∧
    share = fairShare 13 (((List.range s.nTiles).map (fun t => (needs.getD t 0).natAbs)).filter (fun n => decide (0 < n)))
      (s.pwr.slewLim.toNat * s.pwr.vIn.toNat / 10) ∧
    ∀ t < s.nTiles, v.ptile t = { s.ptile t with
      slew := if needs.getD t 0 ≤ share then (s.ptile t).slew - 1 else if (s.ptile t).slew = 0 then 24 else (s.ptile t).slew
      shed := (-(needs.getD t 0) - share).toNat, volt := max (s.ptile t).volt (v.needVolt t) }) ∧
  (∀ (s : State) (d : DescRef) (t : Nat), t < s.nTiles → (d.ctx, d.ring, d.index) ∈ s.tileWaits t → ∃ v, exec (.drizzleHoldExpiry d) s = .next v ∧
    v = { s with pwr := { s.pwr with tapered := v.pwr.tapered } } ∧ ∀ w, w ∈ v.pwr.tapered ↔ w ∈ s.pwr.tapered ∨ w ∈ s.sameHold (d.ctx, d.ring, d.index)) ∧
  (∀ (s : State) (d : DescRef), (∀ t < s.nTiles, (d.ctx, d.ring, d.index) ∉ s.tileWaits t) → exec (.drizzleHoldExpiry d) s = .next s) ∧
  (∀ (s : State) (ref : DescRef) (d : Desc), s.issues ref 0x900 d → fld (d.word 1) 15 1 = 0 → fld (d.word 1) 23 9 = 0 → fld (d.word 1) 48 16 = 0 →
    fld (d.word 2) 32 32 = 0 → (∀ j ∈ [3, 4, 5, 6, 7], d.word j = 0) →
    (let kind := fld (d.word 1) 12 3
     let level := fld (d.word 1) 16 7
     let dur := fld (d.word 2) 0 32
     let b := s.begun ref d
     let f : Forecast := ⟨s.pwr.nextForecast, fld (d.word 1) 0 12, kind, level, fld (d.word 1) 32 16, dur, false, false⟩
     (kind ≤ 3 → level ≤ 100 → dur ≠ 0 → ∃ fs, exec (.forecast ref) s =
       .next ({ b with pwr := { s.pwr with forecasts := fs ++ [f], nextForecast := s.pwr.nextForecast + 1 } }.ended ref 0x00 0) ∧
       (∀ g ∈ fs, (∃ o ∈ s.pwr.forecasts, o.id = g.id ∧ o.kind = g.kind) ∧ (g.kind = f.kind → (kind = 0 ∨ kind = 3) ∧
         ∀ t < 12, g.mask.testBit t = true → f.mask.testBit t = false)) ∧
       (∀ g ∈ s.pwr.forecasts, g.kind ≠ kind → g ∈ fs)) ∧
     (3 < kind → exec (.forecast ref) s = .next (b.ended ref 0x10 (at_ 1 0 ||| at_ 12 4 ||| at_ 9 10))) ∧
     (kind ≤ 3 → 100 < level → exec (.forecast ref) s = .next (b.ended ref 0x10 (at_ 1 0 ||| at_ 16 4 ||| at_ 9 10))) ∧
     (kind ≤ 3 → level ≤ 100 → dur = 0 → exec (.forecast ref) s = .next (b.ended ref 0x10 (at_ 2 0 ||| at_ 0 4 ||| at_ 9 10))))) ∧
  (∀ (s : State) (k : Nat) (f : Forecast), s.pwr.forecasts.find? (fun g => g.id == k) = some f →
    (∃ v, exec (.forecastLeadReached k) s = .next v ∧ v = { s with pwr := v.pwr } ∧
      v.pwr.forecasts = s.pwr.forecasts.map (fun g => if g.id = k then { g with acts := true } else g) ∧
      (f.kind ≠ 3 → v.pwr.tapered = s.pwr.tapered) ∧
      (f.kind = 3 → ∀ t < s.nTiles, f.mask.testBit t = true → ∀ w ∈ s.tileWaits t, w ∈ v.pwr.tapered)) ∧
    (∃ v, exec (.forecastExpiry k) s = .next v ∧ v = { s with pwr := { s.pwr with forecasts := v.pwr.forecasts, tapered := v.pwr.tapered } } ∧
      (f.kind ≠ 3 ∨ f.acts = false → v.pwr.tapered = s.pwr.tapered) ∧
      ∀ g, g ∈ v.pwr.forecasts ↔ g ∈ s.pwr.forecasts ∧ g.id ≠ k) ∧
    (f.kind ≠ 0 ∨ f.acts = false ∨ f.missed = true → exec (.forecastMiss k) s = .next s) ∧
    (f.kind = 0 → f.acts = true → f.missed = false →
      (let ts := (List.range s.nTiles).filter f.mask.testBit
       let draw := (ts.map (fun t => (s.ptile t).power)).sum
       (draw * 200 < ts.length * 190000 * f.level → ∃ v, exec (.forecastMiss k) s = .next v ∧ v = { s with pwr := v.pwr } ∧ v.pwr.miss = true ∧
         v.pwr.missCnt = satInc s.pwr.missCnt ∧ v.pwr.log = (s.pwrLog 8 (match ts with | [t] => t | _ => 0xF) 0 s.pwr.iIn.toNat).pwr.log) ∧
       (ts.length * 190000 * f.level ≤ draw * 200 → exec (.forecastMiss k) s = .next s)))) ∧
  (∀ (s : State) (t : Nat) (powers : List Nat), t < s.nTiles → s.pwr.gustMax.toNat ≤ 4 → ∃ v, exec (.gustChoice t powers) s = .next v ∧
    v = { s with pwr := v.pwr } ∧
    (s.pwr.mode = false ∨ s.pwr.tThrottle.toNat < (s.ptile t).tj.toNat + 5 → (v.ptile t).gust = 0) ∧
    (s.pwr.mode = true → (s.ptile t).tj.toNat + 5 ≤ s.pwr.tThrottle.toNat → (v.ptile t).gust.toNat ≤ s.pwr.gustMax.toNat ∧
      ((s.ptile t).therm = 0 → s.clampOn t = 0 →
        ∀ l p, (v.ptile t).gust.toNat < l → l ≤ s.pwr.gustMax.toNat → powers[l]? = some p → (s.ptile t).grant < p) ∧
      ((s.ptile t).therm ≠ 0 ∨ s.clampOn t ≠ 0 → (v.ptile t).gust.toNat ≤ (s.ptile t).gust.toNat - 1) ∧
      ((v.ptile t).gust ≠ 0 → ∃ p, powers[(v.ptile t).gust.toNat]? = some p ∧ p ≤ (s.ptile t).grant)) ∧
    (s.pwr.mode = true → (s.ptile t).tj.toNat < s.pwr.tThrottle.toNat → (v.ptile t).therm = 0) ∧
    (s.pwr.mode = true → s.pwr.clampLevel < 24 → v.clampOn t = 0) ∧ v.needVolt t ≤ (v.ptile t).volt ∧
    (∀ k < s.nTiles, k ≠ t → (v.ptile k).gust = (s.ptile k).gust)) ∧
  (∀ (s : State) (tiles : List (List Nat)) (dies stks dimms : List Nat), ∃ v, exec (.thermalSample tiles dies stks dimms) s = .next v ∧
    v = { s with pwr := v.pwr, stks := v.stks, dimms := v.dimms } ∧
    (∀ t < s.nTiles,
      ((∃ x ∈ tiles.getD t [] ++ dies, s.pwr.tThrottle.toNat ≤ x) → (v.ptile t).therm = min ((s.ptile t).therm + 1) 24) ∧
      ((∀ x ∈ tiles.getD t [] ++ dies, x < s.pwr.tThrottle.toNat) → (v.ptile t).therm ≤ (s.ptile t).therm ∧
        (s.ptile t).therm ≤ (v.ptile t).therm + 1) ∧
      ((∀ x ∈ tiles.getD t [] ++ dies, x + 3 ≤ s.pwr.tThrottle.toNat) → (s.ptile t).coolCnt = 9 → (v.ptile t).therm = (s.ptile t).therm - 1) ∧
      (v.ptile t).tj.toNat = min ((tiles.getD t []).foldl max 0) 255) ∧
    (∀ n x, n < s.nStacks → stks[n]? = some x → (v.stack n).rate =
      (if 100 ≤ x then 2 else if 95 ≤ x then 1 else if x < 90 then 0 else (s.stack n).rate)) ∧
    (∀ n x, n < 16 → dimms[n]? = some x → (v.dimm n).rate = (if 95 ≤ x then 1 else if x < 90 then 0 else (s.dimm n).rate)))

/-- A write of a ring's STATUS clears exactly the flags written 1. A write of MOD_SCHED_CFG takes IDLE and HOLD, QUANTUM_JOBS unless it is
0, and SAVE_PER_TILE only before DONE and in range. SEC_LOCK(r) is written before DONE and stands after it. DONE is set once: it closes
every lock; no write clears it. A write that names no register changes nothing. A 4 B write in a doorbell page of a context of the
accessing domain is the doorbell write; an 8 B write in its setup window is the register write; a context that is not the domain's sets
VIOL and FOREIGN with their counts and an entry, reads 0 and ignores the write; a request outside BAR0 gets Unsupported Request; a write
of HST_LINK_STAT clears its flags; configuration requests get RRS until the configuration is loaded, and later read the IDs and set the
power state; malformed, poisoned and ECRC-bad requests are counted and logged. Model's choices: the PCIe standard's configuration
registers (log entry 20); SAVE_PER_TILE after DONE or out of range (log entry 24); DETAIL of an access's log entry (log entry 26). (R36,
R40, R43, R374, R423, R425, R427, R430, R441, R447, R470, R490) -/
def Obligations.RegistersAndHostAccesses : Prop :=
  (∀ (s : State) (c k : Nat) (v : DWord), k < 64 → (s.ctx c).live = true → (s.ctx c).hasRing k = true →
    exec (.registerWrite (.window c (0x1018 + 0x40 * k)) v) s = .next (s.modRing c k (fun r => { r with
      dbViol := r.dbViol && !bit v 0, cqViol := r.cqViol && !bit v 1, cfgViol := r.cfgViol && !bit v 2
      fetchErr := r.fetchErr && !bit v 3, writeErr := r.writeErr && !bit v 4 }))) ∧
  (∀ (s : State) (v : DWord), exec (.registerWrite (.space 0x20) v) s = .next { s with sched := { s.sched with
    quantumJobs := if fld v 0 16 = 0 then s.sched.quantumJobs else BitVec.ofNat 16 (fld v 0 16)
    idleLimit := BitVec.ofNat 16 (fld v 16 16), holdLimit := BitVec.ofNat 16 (fld v 32 16)
    savePerTile := if s.sec.done = true ∨ fld v 48 10 < 16 ∨ 768 < fld v 48 10 then s.sched.savePerTile
      else BitVec.ofNat 10 (fld v 48 10) } }) ∧
  (∀ (s : State) (r : Nat) (v : DWord), r < 16 →
    (s.sec.done = true → exec (.registerWrite (.space (0x2080 + 8 * r)) v) s = .next s) ∧
    (s.sec.done = false → ∃ t, exec (.registerWrite (.space (0x2080 + 8 * r)) v) s = .next t ∧ t = { s with sec := t.sec } ∧
      tget 0 t.sec.locks r = (v &&& ~~~0xFFFF) ∧ (∀ j, j ≠ r → tget 0 t.sec.locks j = tget 0 s.sec.locks j) ∧ t.sec.done = false)) ∧
  (∀ (s : State) (v : DWord),
    (s.sec.done = true → exec .secLockDone s = .next s ∧ exec (.registerWrite (.space 0x2008) v) s = .next s) ∧
    (s.sec.done = false → bit v 0 = false → exec (.registerWrite (.space 0x2008) v) s = .next s) ∧
    (s.sec.done = false → ∃ t, exec .secLockDone s = .next t ∧ (bit v 0 = true → exec (.registerWrite (.space 0x2008) v) s = .next t) ∧
      t.sec.done = true ∧ t.sec.locks = s.sec.locks ∧ t = { s with sec := t.sec, boot := { s.boot with phase := t.boot.phase, stepMs := t.boot.stepMs }, free := t.free } ∧ 4 ≤ t.boot.phase.toNat ∧
      (∀ r < 16, t.sec.locksUsed.getLsbD r = true ↔ fld (tget 0 s.sec.locks r) 48 16 ≠ 0))) ∧
  (∀ (s : State) (a : Nat) (v : DWord), a % 8 ≠ 0 ∨ 0x2200000 ≤ a → exec (.registerWrite (.space a) v) s = .next s) ∧
  (∀ (s : State) (i fn h c k off size : Nat) (v : DWord), i < 4 → (s.att i).active = true → s.domAt i fn = some h → (s.dom h).en = true →
    (s.att i).d3.contains fn = false → c < 1024 → k < 64 →
    (s.owns h c = true →
      exec (.hostRegisterTlp i fn (0x400000 + 0x1000 * c + 0x40 * k) (.write 4 v)) s = exec (.sqTailWrite c k (BitVec.ofNat 32 (fld v 0 32))) s ∧
      exec (.hostRegisterTlp i fn (0x400008 + 0x1000 * c + 0x40 * k) (.write 4 v)) s = exec (.cqHeadWrite c k (BitVec.ofNat 32 (fld v 0 32))) s ∧
      exec (.hostRegisterTlp i fn (0x400010 + 0x1000 * c + 0x40 * k) (.write 4 v)) s = exec (.irqArm c k) s ∧
      (off < 0x2000 → off % 8 = 0 →
        exec (.hostRegisterTlp i fn (0x800000 + 0x2000 * c + off) (.write 8 v)) s = exec (.registerWrite (.window c off) v) s ∧
        exec (.hostRegisterTlp i fn (0x800000 + 0x2000 * c + off) (.read 8)) s =
          .next (s.emit (.tlpData i ((s.ctx c).windowReg off).toNat)))) ∧
    (s.owns h c = false → off < 0x2000 → off % 8 = 0 → ∃ t, s.onlyAtt t i ∧
      (t.att i).viol = true ∧ (t.att i).violCnt = satInc (s.att i).violCnt ∧ (t.att i).foreign = true ∧ (t.att i).foreignCnt = satInc (s.att i).foreignCnt ∧ (t.att i).log.ord = (s.att i).log.ord + 1 ∧
      exec (.hostRegisterTlp i fn (0x800000 + 0x2000 * c + off) (.write 8 v)) s = .next t ∧
      exec (.hostRegisterTlp i fn (0x800000 + 0x2000 * c + off) (.read 8)) s = .next (t.emit (.tlpData i 0))) ∧
    (0x2000000 < off + size → ∃ t, s.onlyAtt t i ∧ (t.att i).viol = true ∧ (t.att i).violCnt = satInc (s.att i).violCnt ∧
      exec (.hostRegisterTlp i fn off (.read size)) s = .next (t.emit (.tlpUr i)) ∧ exec (.hostRegisterTlp i fn off (.write size v)) s = .next t) ∧
    exec (.hostRegisterTlp i fn 0x30 (.write 8 v)) s = .next (s.modAtt i (fun a => { a with
      degraded := a.degraded && !bit v 7, viol := a.viol && !bit v 8, down := a.down && !bit v 9, foreign := a.foreign && !bit v 10 })) ∧
    (s.answersCfg = false → ∀ f, exec (.hostRegisterTlp i f off .config) s = .next (s.emit (.tlpRrs i))) ∧
    (s.answersCfg = true → (s.variant = .ms08 → exec (.hostRegisterTlp i fn 0 .header) s =
        .next (s.emit (.tlpData i (Config.vendorId.toNat + 0x9608 * 2 ^ 16)))) ∧
      (s.variant ≠ .ms08 → exec (.hostRegisterTlp i fn 0 .header) s = .next (s.emit (.tlpData i (Config.vendorId.toNat + 0x9612 * 2 ^ 16)))) ∧
      (2 ≤ i → exec (.hostRegisterTlp i fn 0 (.power true)) s = .next (s.modAtt i (fun a => { a with d3 := a.d3.filter (· != fn) ++ [fn] })))) ∧
    (s.answersCfg = true → off = 0x18 → ∃ t, s.onlyAtt t i ∧
      exec (.hostRegisterTlp i fn off .config) s = .next (t.emit (.tlpData i (fld s.familyReg 0 32)))) ∧
    (∀ kind ∈ [TlpKind.malformed, TlpKind.ecrc, TlpKind.poisoned], ∃ t, exec (.hostRegisterTlp i fn off kind) s = .next t ∧ s.onlyAtt t i ∧
      (t.att i).viol = true ∧ (t.att i).violCnt = satInc (s.att i).violCnt ∧ (t.att i).log.ord = (s.att i).log.ord + 1))

/-- An HMS header spells its read or write; a read of a line in its partition's window that is readable is answered with its 64 bytes; one
outside, or of another domain, with an error; a write stores the enabled bytes there; a bad header is counted. Every snoop is answered
RspIHitI. Data for an enabled domain's memory arrives; a refused fetch, record or data access stops the fetch, drops the record, or ends
the descriptor with 0x21, RESULT and VA its address, CAUSE 9; a completion timeout on a PCIe port is the same. A function-level reset
empties the domain's context; the loss of an attachment sets DOWN and counts, and leaves its domains' policies as they are. A UCIe
attach runs with two to four modules, is degraded below four and goes down, degraded, below two; a PCIe port trains when PERST#
deasserts (not in recovery, nor after a halt), goes down with its assertion, an active one with the loss of its domains, and comes up
with its width, enabling its configured domains after step 13. Model's choices: what a function-level reset leaves (log entry 24); how
an HMS request is judged, and a partial write to a bad line (log entry 27); a whole-line write clears a line's mark (log entry 62).
(R417, R420, R421, R422, R423, R426, R427, R428, R429, R464, R488, R490) -/
def Obligations.HostMemoryStreamAndLinks : Prop :=
  (∀ (s : State) (i tag dom line : Nat) (ben : DWord) (data : List Byte), i < 2 → (s.att i).active = true →
    (let d := s.dom dom
     let pa := 0x020000000000 + d.pwinBase.toNat * 0x40000000 + line * 64
     (d.external = false → d.noWindow = false → d.attach ≠ 0 → b2n d.homeIo = i → line * 64 + 64 ≤ d.pwinBytes → s.lineBad (pa / 64) = false →
       exec (.hmsRd i tag dom line) s = .next (s.emit (.cpld i (hmsHeader 3 tag dom line) 0 (s.peek pa 64))) ∧
       (data.length = 64 → ∃ t, exec (.hmsWr i dom line ben data) s = .next t ∧ t = { s with mem := t.mem, ueLines := t.ueLines } ∧
         s.sameOutside t pa 64 ∧ t = (if ben = BitVec.allOnes 64 then { t with ueLines := s.ueLines.filter (· != pa / 64) } else
           { t with ueLines := s.ueLines }) ∧
         ∀ k, s.mem.wf = true → k < 64 → (∀ j < 64, j ≠ k → s.home (pa + j) ≠ s.home (pa + k)) →
           mget t.mem (s.home (pa + k)) = if bit ben k then data.getD k 0 else mget s.mem (s.home (pa + k)))) ∧
     (d.external = true ∨ d.noWindow = true ∨ d.attach = 0 ∨ b2n d.homeIo ≠ i ∨ d.pwinBytes < line * 64 + 64 → ∃ t, s.onlyAtt t i ∧ (t.att i).viol = true ∧
       (t.att i).violCnt = satInc (s.att i).violCnt ∧ exec (.hmsRd i tag dom line) s = .next (t.emit (.cple i (hmsHeader 4 tag dom line) 0)) ∧
       exec (.hmsWr i dom line ben data) s = .next t)) ∧
    (tag < 4096 → dom < 16 → line < 2 ^ 40 → hmsCommand i (hmsHeader 1 tag dom line) 0 [] = some (.hmsRd i tag dom line) ∧
      hmsCommand i (hmsHeader 2 0 dom line) ben data = some (.hmsWr i dom line ben data)) ∧
    (∃ t, exec (.hmsBadHeader i dom) s = .next t ∧ s.onlyAtt t i ∧ (t.att i).viol = true ∧ (t.att i).violCnt = satInc (s.att i).violCnt) ∧
    (∀ cacheId addr, ((s.domAt i cacheId).isSome = true → exec (.h2dSnoop i cacheId addr) s = .next (s.emit (.rspIHitI i cacheId))) ∧
      (s.domAt i cacheId = none → ∃ t, s.onlyAtt t i ∧ (t.att i).violCnt = satInc (s.att i).violCnt ∧
        exec (.h2dSnoop i cacheId addr) s = .next (t.emit (.rspIHitI i cacheId))))) ∧
  (∀ (s : State) (h addr off : Nat) (bytes : List Byte), (s.dom h).en = true → (s.dom h).hostOffset addr = some off →
    (s.dom h).hostOffset (addr + bytes.length - 1) ≠ none →
    exec (.hostReadResponse (.data h addr bytes)) s = .next (s.poke (0x800000000000 + h * 0x040000000000 + off) bytes)) ∧
  (∀ (s : State) (c k : Nat), exec (.hostReadResponse (.fetchErr c k)) s = exec (.fetchErr c k) s) ∧
  (∀ (s : State) (c k : Nat) (j : Word), exec (.hostReadResponse (.recordErr c k j)) s = exec (.writeErr c k j) s) ∧
  (∀ (s : State) (ref : DescRef) (d : Desc) (va : DWord) (write : Bool), s.desc ref = some d → d.issued = true → d.st = .executing →
    ∃ t k, exec (.hostReadResponse (.dataErr ref va write)) s = .next t ∧ t.mem = s.mem ∧ t.desc ref = some k ∧ k.st = .done ∧ k.status = 0x21 ∧
      k.result = va ∧ (t.ctx ref.ctx).xl = { (s.ctx ref.ctx).xl with
        faultVa := va, valid := true, write := write, level := 0, cause := 9
        seq := BitVec.ofNat 16 d.seq, faultCnt := satInc (s.ctx ref.ctx).xl.faultCnt } ∧
      (t.att (s.attOf (s.ctxDom ref.ctx))).viol = true ∧ ∀ j, j ≠ ref.ctx → t.ctx j = s.ctx j) ∧
  (∀ (s : State) (r : HostResp), s.respDom r = none → exec (.pcieCompletionTimeout r) s = .next s) ∧
  (∀ (s : State) (r : HostResp) (h : Nat), s.respDom r = some h →
    ((s.dom h).attach = 3 ∨ (s.dom h).attach = 4 → exec (.pcieCompletionTimeout r) s = exec (.hostReadResponse r) s) ∧
    (¬ ((s.dom h).attach = 3 ∨ (s.dom h).attach = 4) → exec (.pcieCompletionTimeout r) s = .next s)) ∧
  (∀ (s : State) (i fn h : Nat), i < 4 → (s.att i).active = true → s.domAt i fn = some h →
    ((∀ e ∈ s.ctxs, (s.ctx e.1).st = .empty ∨ s.ctxDom e.1 ≠ h) → ∃ t, exec (.flr i fn) s = .next t ∧
      t = { s with doms := t.doms, attaches := t.attaches } ∧ t.dom h = { s.dom h with lostWhileBusy := (s.dom h).busy } ∧
      (t.att i).log.ord = (s.att i).log.ord + 1) ∧
    (∀ c, (s.ctx c).st ≠ .empty → s.ctxDom c = h → (∀ e ∈ s.ctxs, e.1 ≠ c → (s.ctx e.1).st = .empty ∨ s.ctxDom e.1 ≠ h) →
      ∃ t, exec (.flr i fn) s = .next t ∧ t.ctx c = { Ctx.reset with kill := (t.ctx c).kill })) ∧
  (∀ (s : State) (i : Nat), i < 4 → (s.att i).active = true → (∀ e ∈ s.ctxs, (s.ctx e.1).st = .empty ∨ s.ctxDom e.1 ∉ s.domsOf i) →
    ∃ t, exec (.domainLoss i) s = .next t ∧ t = { s with doms := t.doms, attaches := t.attaches } ∧ (t.att i).state = 1 ∧ (t.att i).width = 0 ∧
      (t.att i).down = true ∧ (t.att i).downCnt = satInc (s.att i).downCnt ∧
      (∀ h ∈ s.domsOf i, t.dom h = { s.dom h with lostWhileBusy := (s.dom h).busy }) ∧ (∀ h < 16, h ∉ s.domsOf i → t.dom h = s.dom h)) ∧
  (∀ (s : State) (i n : Nat), i < 2 →
    ((s.att i).active = true → n < 2 →
      exec (.ucieRetrain i n) s = exec (.domainLoss i) (s.modAtt i (fun a => { a with degraded := true }))) ∧
    ((s.att i).active = false → (s.att i).state ≠ 0 → 2 ≤ n → n ≤ 4 → s.boot.steps.contains 13 = false →
      exec (.ucieRetrain i n) s = .next (s.modAtt i (fun a => { a with
        state := if n = 4 then 3 else 4, width := BitVec.ofNat 4 n, degraded := a.degraded || decide (n < 4) })))) ∧
  (∀ (s : State) (i n : Nat), i < 2 → (s.att i).active = true → 2 ≤ n → n ≤ 4 → n ≤ (s.att i).width.toNat → s.boot.steps.contains 13 = false →
    exec (.ucieRetrain i n) s = .next (s.modAtt i (fun a => { a with
      state := if n = 4 then 3 else 4, width := BitVec.ofNat 4 n, degraded := a.degraded || decide (n < a.width.toNat) }))) ∧
  (∀ (s : State) (p : Nat) (w : BitVec 4) (fast : Bool), p < 2 → s.variant.full = true →
    ((s.att (2 + p)).perst = true → exec (.perstDeassert p) s = .next (s.modAtt (2 + p) (fun a => { a with
      perst := false, state := if s.pins.inputGood ∧ s.blu.halted = false ∧ s.inRecovery = false then 2 else a.state }))) ∧
    ((s.att (2 + p)).active = true → exec (.perstAssert p) s = exec (.domainLoss (2 + p)) (s.modAtt (2 + p) (fun a => { a with perst := true }))) ∧
    ((s.att (2 + p)).state = 2 → ∃ t, exec (.perstAssert p) s = .next t ∧ s.onlyAtt t (2 + p) ∧
      t.att (2 + p) = { s.att (2 + p) with perst := true, state := 1 }) ∧
    ((s.att (2 + p)).perst = false → (s.att (2 + p)).state = 2 → s.blu.halted = false → s.inRecovery = false → 1 ≤ w.toNat → w.toNat ≤ 5 → ∃ t, exec (.pcieLinkTrained p w fast) s = .next t ∧
      t = { s with doms := t.doms, attaches := t.attaches } ∧ t.att (2 + p) = { s.att (2 + p) with
        state := if w = 5 ∧ fast = true then 3 else 4
        width := w, degraded := (s.att (2 + p)).degraded || !(decide (w = 5) && fast) } ∧
      (s.boot.steps.contains 13 = false → t.doms = s.doms) ∧
      (s.boot.steps.contains 13 = true → ∀ h < 16, (s.dom h).attach.toNat = p + 3 → ∀ k, s.blu.cfg = some k →
        bit (tget (0, 0, 0) k.domains h).2.1 0 = true → (s.dom h).noWindow = false → (t.dom h).en = true)))

/-- Input good closes the switch of a mated module. The ROM with no staged token: recovery with cause 3 or 4 where no power-limit or
redundancy generation is active; else it starts the loader of the first slot that passes, with SLOT_FALLBACK for the second, and
recovery with cause 2 where none does; with staged tokens it takes them all and resets, or none after a watchdog expiry; a loss of input
leaves those not taken staged. A bad factory block halts Bluone and sets CRC_BAD. Stage 2 (which then serves a waiting TOKEN_STAGE) and
the training images run where their digests fit, and reset the module where not. A step of bring-up completes once, after the steps it
needs and while stage 2 runs; without a configuration step 10 still sets DONE, and PHASE rises. A module reset and the owner's RESET
leave what a reset leaves; the watchdog's expiry resets Bluone alone and counts, its service changes nothing; a fatal error kills every
context with 0x7F and closes creation. IN_PRSNT_N high on a closed switch is a power-fail, and after a trip it removes the input.
Redundancy enables the cores whose word says so but those with two quarters out; the self-test, the tier's training, the DIMMs, the
ports and the enabling of the domains do what their step says; a command out of its turn changes nothing. Model's choices: what a Bluone
reset keeps, and that the watchdog's service has no effect on state (log entry 35); HST_CTX_KILL of a fatal error's kill (log entry 39).
(R433, R435, R436, R440, R444, R446, R462, R463, R464, R465, R476, R460) -/
def Obligations.BootBringUpAndResets : Prop :=
  (∀ (s : State) (addr : BitVec 3),
    (s.pins.inPrsnt = true → s.pins.inputGood = false → s.pins.trip = false →
      exec (.inputGood addr) s = .next { s with pins := { s.pins with switch := true, inputGood := true, mgtAddr := addr } }) ∧
    (s.pins.trip = false → exec (.inPrsntChange true) s = .next { s with pins := { s.pins with inPrsnt := true, switch := true } }) ∧
    (s.pins.trip = false → s.pins.switch = true → ∃ t, exec (.inPrsntChange false) s = .next t ∧ t.pins.inPrsnt = false ∧ t.pins.pwrFail = true ∧
      t.ctxs = s.ctxs ∧ t.mem = s.mem) ∧
    ((s.pins.inPrsnt = false ∨ s.pins.inputGood = true ∨ s.pins.trip = true) → exec (.inputGood addr) s = .next s) ∧
    (s.pins.trip = false → s.pins.switch = false →
      exec (.inPrsntChange false) s = .next { s with pins := { s.pins with inPrsnt := false } }) ∧
    (s.pins.trip = true → exec (.inPrsntChange true) s = .next { s with pins := { s.pins with inPrsnt := true } } ∧
      ∃ t, exec (.inPrsntChange false) s = .next t ∧ ({ s with pins := { s.pins with inPrsnt := false } } : State).restarted t false false) ∧
    (s.pins.inputGood = true → s.pins.trip = false → ∃ t, exec .moduleReset s = .next t ∧ s.restarted t s.pins.switch true) ∧
    (s.pins.inputGood = true → s.pins.trip = true → ∃ t, exec .moduleReset s = .next t ∧ t.pins.trip = true ∧ t.boot = Boot.reset) ∧
    (s.pins.inputGood = false → exec .moduleReset s = .next s)) ∧
  (∀ (s : State) (ms : Nat) (bad : RomFuses), (s.blu.stage ≠ 0 ∨ s.blu.halted = true ∨ s.pins.inputGood = false) →
    exec (.romBoot ms bad) s = .next s) ∧
  (∀ (s : State) (ms : Nat) (bad : RomFuses), s.blu.stage = 0 → s.blu.halted = false → s.boot.phase = 0 → s.pins.inputGood = true →
    s.boot.steps = [] → s.blu.waiting = [] →
    (s.blu.factoryOk = false → ∃ t, exec (.romBoot ms bad) s = .next t ∧ t.blu.halted = true ∧ t.sec.recoveryCause = 1 ∧ t.sec.crcBad = true ∧
      t.ctxs = s.ctxs ∧ t.mem = s.mem ∧ t.pins = s.pins ∧ ∀ i, (t.att i).state = 0) ∧
    (s.blu.factoryOk = true → s.blu.warm = true → ∃ t, exec (.romBoot ms bad) s = .next t ∧ t.blu.tokens = s.blu.tokens ∧ t.ctxs = s.ctxs) ∧
    (s.blu.factoryOk = true → s.blu.tokens = [] → ∃ t, exec (.romBoot ms bad) s = .next t ∧ t.ctxs = s.ctxs ∧ t.mem = s.mem ∧
      (otpPower.active s.blu.otp = none → t.boot.phase = 7 ∧ t.sec.recoveryCause = 3 ∧ t.sec.bootSlot = 2 ∧ t.blu.stage = 0) ∧
      (otpPower.active s.blu.otp ≠ none → otpRedundancy.active s.blu.otp = none → t.boot.phase = 7 ∧ t.sec.recoveryCause = 4) ∧
      (otpPower.active s.blu.otp ≠ none → otpRedundancy.active s.blu.otp ≠ none →
        (let n := if (s.bestCfg.map (·.preferB)).getD false then 1 else 0
         if s.slotOk n then t.blu.stage = 1 ∧ t.sec.bootSlot.toNat = n ∧ t.sec.slotFallback = s.sec.slotFallback ∧ t.sec.recoveryCause = 0 ∧
           1 ∈ t.boot.steps ∧ tkeys t.blu.keys = [1] ∧ t.boot.phase = 1
         else if s.slotOk (1 - n) then t.blu.stage = 1 ∧ t.sec.bootSlot.toNat = 1 - n ∧ t.sec.slotFallback = true ∧
           t.sec.fallbackCnt = satInc s.sec.fallbackCnt
         else t.boot.phase = 7 ∧ t.sec.recoveryCause = 2 ∧ t.sec.slotFallback = true ∧ t.boot.failCnt = satInc s.boot.failCnt))) ∧
    (s.blu.factoryOk = true → s.blu.warm = false → s.blu.tokens ≠ [] → ∀ n part, bad.cut = some (n, part) → ∃ t,
      exec (.romBoot ms bad) s = .next t ∧ t.blu.tokens = s.blu.tokens.drop n ∧ t.blu.stage = 0 ∧ t.ctxs = [] ∧ t.pins.inputGood = false) ∧
    (s.blu.factoryOk = true → s.blu.warm = false → s.blu.tokens ≠ [] → bad.cut = none → ∃ t, exec (.romBoot ms bad) s = .next t ∧ t.blu.tokens = [] ∧
      t.blu.tokenCodes.length = s.blu.tokens.length ∧ t.blu.stage = 0 ∧ t.ctxs = [] ∧ t.boot = Boot.reset ∧ t.sec = SecRegs.reset)) ∧
  (∀ (s : State) (ms : Nat),
    (let b := s.blu.slot s.sec.bootSlot.toNat
     (s.blu.stage = 1 → imageOk b 2 = true → ∀ tok, s.blu.waiting = [.tokenStage tok] → s.blu.tokens.length < 8 → ∃ t,
       exec (.stageLoaded 2 ms) s = .next t ∧ t.blu.tokens = s.blu.tokens ++ [tok] ∧ t.blu.waiting = [] ∧ t.outs = s.outs ++ [.mgt 0x11 0 []]) ∧
     (s.blu.stage = 1 → s.blu.waiting = [] → ∃ t, exec (.stageLoaded 2 ms) s = .next t ∧
       (if imageOk b 2 then t.blu.stage = 2 ∧ t.blu.measured 4 = imageDigest b 2 ∧ 2 ∈ t.boot.steps ∧ 2 ≤ t.boot.phase.toNat ∧ t.ctxs = s.ctxs
        else t.blu.stage = 0 ∧ s.sec.bootSlot.toNat ∈ t.blu.badSlots ∧ t.ctxs = [])) ∧
     (s.blu.stage = 2 → ∃ t, exec (.stageLoaded 3 ms) s = .next t ∧
       (if imageOk b 3 && imageOk b 4 && imageOk b 5 then t.blu.stage = 3 ∧ 5 ∈ t.boot.steps ∧ 3 ≤ t.boot.phase.toNat
        else t.blu.stage = 0 ∧ s.sec.bootSlot.toNat ∈ t.blu.badSlots)) ∧
     (s.blu.stage ≠ 1 → exec (.stageLoaded 2 ms) s = .next s) ∧ (s.blu.stage ≠ 2 → exec (.stageLoaded 3 ms) s = .next s))) ∧
  (∀ (s : State) (ms : Nat), 2 ≤ s.blu.stage → s.inRecovery = false →
    (s.boot.steps = [1, 2] → ∃ t, exec (.bringupStepDone .rails ms) s = .next t ∧ t.boot.steps = [1, 2, 3] ∧
      (∀ p < s.variant.ports, (t.port p).state = if (s.port p).disable then 6 else 1) ∧ (∀ i < 2, (t.att i).state = 1) ∧ t.mem = s.mem) ∧
    (s.boot.steps.contains 3 = true → exec (.bringupStepDone .rails ms) s = .next s) ∧
    (s.boot.steps.contains 3 = false → ∀ f r x d l, exec (.bringupStepDone .redundancy ms) s = .next s ∧ exec (.bringupStepDone (.stks f r) ms) s = .next s ∧
      exec (.bringupStepDone (.pmt d) ms) s = .next s ∧ exec (.bringupStepDone (.dimms l) ms) s = .next s ∧
      (s.boot.steps.contains 4 = false → exec (.bringupStepDone (.selfTest x) ms) s = .next s)) ∧
    (s.boot.steps.contains 3 = true → s.boot.steps.contains 5 = true → s.boot.steps.contains 6 = false → ∀ failed, ∃ t,
      exec (.bringupStepDone (.stks failed []) ms) s = .next t ∧ t.boot.steps = s.boot.steps ++ [6] ∧
      (∀ n < s.nStacks, n ∉ failed → (t.stack n).inService = true) ∧ (∀ n < s.nStacks, n ∈ failed → (t.stack n).inService = (s.stack n).inService) ∧
      (∀ e ∈ s.blu.suspects, e.1 < s.nStacks → e.1 ∉ failed → e.2 ∈ (t.stack e.1).remapped ∧ e ∉ t.blu.suspects)) ∧
    (s.boot.steps = [1, 2, 3, 5, 4, 6, 7, 8, 9] → s.blu.cfgA = none → s.blu.cfgB = none → s.boot.phase.toNat ≤ 3 → ∃ t,
      exec (.bringupStepDone .config ms) s = .next t ∧ t.sec.configOk = s.sec.configOk ∧ t.sec.done = true ∧ t.boot.phase = 4 ∧
      t.boot.failCnt = satInc s.boot.failCnt ∧ t.doms = s.doms ∧ 10 ∈ t.boot.steps) ∧
    (s.boot.steps.contains 3 = true → s.boot.steps.contains 4 = false → ∃ t, exec (.bringupStepDone .redundancy ms) s = .next t ∧
      t.boot.steps = s.boot.steps ++ [4] ∧ t.ctxs = s.ctxs ∧ (∀ n < s.nTiles, (t.tile n).rowSpares = s.rowRepairs n) ∧ ∀ n < s.nTiles, ∀ c < 18,
        ((t.tile n).enabled.getLsbD c = true ↔ fld (s.coreWord n c) 0 2 = 1 ∧
          ((List.range 4).filter (fun q => decide (fld (s.coreWord n c) (2 + 6 * q) 6 = 0x3F))).length < 2)) ∧
    (s.boot.steps.contains 4 = true → s.boot.steps.contains 5 = true → s.boot.steps.contains 7 = false →
      ((∀ n < s.nTiles, (s.tile n).enabled ≠ 0) →
        exec (.bringupStepDone (.selfTest []) ms) s = .next { s with boot := { s.boot with steps := s.boot.steps ++ [7] } }) ∧
      ∃ t, exec (.bringupStepDone (.selfTest []) ms) s = .next t ∧ t.boot.steps = s.boot.steps ++ [7] ∧ t.tiles = s.tiles ∧
        t.boot.failCnt.toNat = min 255 (s.boot.failCnt.toNat + ((List.range s.nTiles).filter (fun n => (s.tile n).enabled == 0)).length)) ∧
    (s.boot.steps.contains 3 = true → s.boot.steps.contains 5 = true → s.boot.steps.contains 8 = false → ∀ devs, ∃ t,
      exec (.bringupStepDone (.pmt devs) ms) s = .next t ∧ t.boot.steps = s.boot.steps ++ [8] ∧
      (s.variant.full = false → t.pmt = s.pmt) ∧
      (s.variant.full = true → ∀ n < 8, (t.pdev n).state = BitVec.ofNat 3 (devs.getD n (4, [])).1 ∧ ((t.pdev n).urgent = true ↔
        ((devs.getD n (4, [])).1 = 2 ∨ (devs.getD n (4, [])).1 = 3) ∧ ∃ c ∈ (devs.getD n (4, [])).2, (s.pdie n).canary.toNat ≤ c.1 ∨ c.2 = true))) ∧
    (s.boot.steps.contains 3 = true → s.boot.steps.contains 5 = true → s.boot.steps.contains 9 = false →
      ∃ t, exec (.bringupStepDone (.dimms []) ms) s = .next t ∧ t.boot.steps = s.boot.steps ++ [9] ∧ t.dimms = s.dimms ∧ t.boot.ilv = false) ∧
    (s.sec.configOk = true → s.boot.steps.contains 10 = true → s.boot.steps.contains 11 = false →
      exec (.bringupStepDone .ports ms) s = .next { s with boot := { s.boot with steps := s.boot.steps ++ [11] } }) ∧
    (s.sec.configOk = true → s.boot.steps.contains 12 = true → s.boot.steps.contains 13 = false → ∃ t,
      exec (.bringupStepDone .enable ms) s = .next t ∧ t.boot.steps = s.boot.steps ++ [13] ∧ 6 ≤ t.boot.phase.toNat ∧
      ∀ h < 16, (t.dom h).en = ((s.dom h).en || s.mayEnable h)) ∧
    (s.sec.configOk = false → ∀ a b, exec (.bringupStepDone .ports ms) s = .next s ∧ exec (.bringupStepDone (.attach a b) ms) s = .next s ∧
      exec (.bringupStepDone .enable ms) s = .next s) ∧
    (s.sec.configOk = true → s.boot.steps.contains 10 = true → s.boot.steps.contains 12 = false → ∃ t,
      exec (.bringupStepDone (.attach 4 3) ms) s = .next t ∧ (t.att 0).state = 3 ∧ (t.att 1).state = 4 ∧ (t.att 1).degraded = true ∧
      t.boot.hostDie = true ∧ 5 ≤ t.boot.phase.toNat)) ∧
  (∀ (s : State), exec .watchdogService s = .next s ∧
    ((s.blu.halted = true ∨ s.pins.inputGood = false) → exec .watchdogExpiry s = .next s) ∧
    (s.blu.halted = false → s.pins.inputGood = true → ∃ t, exec .watchdogExpiry s = .next t ∧
      t = { s with blu := t.blu, sec := t.sec, boot := { s.boot with phase := t.boot.phase, stepMs := t.boot.stepMs }, free := t.free } ∧
      (s.inRecovery = false → t.boot = s.boot ∧ t.free = s.free) ∧ (s.inRecovery = true → t.boot.phase = 0) ∧ t.blu.stage = 0 ∧
      t.blu.nonce = none ∧ t.blu.warm = true ∧ t.blu.tokens = s.blu.tokens ∧ t.blu.waiting = s.blu.waiting ∧ t.blu.unlock = false ∧ t.blu.otp = s.blu.otp ∧ t.sec = { s.sec with wdogCnt := satInc s.sec.wdogCnt })) ∧
  (∀ (s : State) (p : OwnerProof), s.ownerHears p → ∃ t, (s.pins.trip = false → s.restarted t s.pins.switch s.pins.inputGood) ∧
    (s.pins.trip = true → t.pins.trip = true ∧ t.boot = Boot.reset) ∧ exec (.reset p) s =
    .next (if s.ownerSigned 0x12 [] p then t.reply p 0x12 0 else s.nonceUsed.reply p 0x12 1)) ∧
  (∀ (s : State) (loc : DWord), ∃ t, exec (.fatalError loc) s = .next t ∧ t.mem = s.mem ∧ t.err.fatal = true ∧ t.err.closed = true ∧
    t.pins.alert = true ∧ t.err.log.ord = s.err.log.ord + 1 ∧ ∀ c, (t.ctx c).st = (if (s.ctx c).st = .empty then .empty else .dead) ∧
      ((s.ctx c).st ≠ .empty → (s.ctx c).st ≠ .dead ∨ (s.ctx c).descs ≠ [] → (t.ctx c).kill = ⟨0x7F, 0, 0, false⟩))

/-- An owner command waits while stage 2 does not run, and answers 2 on an unowned module, 3 in recovery, 1 where its nonce is not the valid
one or its signature does not verify (the nonce is then used up), else what its effect answers; with the connector unmated no answer
leaves. GET_NONCE makes a nonce valid and returns it; READ_REG returns an aligned register and answers 4 elsewhere; RECOVERY_BUNDLE
answers 3 outside recovery; CONFIG_STAGE writes one flash copy and nothing else; TOKEN_STAGE stages up to eight tokens and answers 4 to
a ninth; ROUTE_WRITE and PORT_CTL write the link registers; PMT_FORMAT starts on a present tier with every context EMPTY, and its end
leaves the tier formatted and blank, its wear as it was. SPDM requests are answered in order once stage 2 runs, ERROR otherwise:
version, capabilities, algorithms, digests, certificate, challenge, measurements. Model's choices: SM2, SM3 and SPDM's codes and bodies
(log entry 7); how a command carries its arguments, and two answers of RECOVERY_BUNDLE (log entry 22); a re-format keeps the wear (log
entry 30). (R234, R436, R438, R439, R440, R444) -/
def Obligations.OwnerCommandsAndAttestation : Prop :=
  (∀ (s : State) (cfg : OwnerCfg) (es : List (Nat × Half)) (n : Nat) (v : DWord) (p : OwnerProof),
    ∀ e ∈ [(Instr.configStage cfg p, 0x10), (.reset p, 0x12), (.pwrSet v p, 0x20), (.routeWrite es p, 0x21), (.portCtl n v p, 0x22), (.pmtFormat p, 0x30)],
      (s.hears = false → s.pins.inputGood = true → s.blu.halted = false →
        exec e.1 s = .next { s with blu := { s.blu with waiting := s.blu.waiting ++ [e.1] } }) ∧
      (s.hears = true → s.unowned = true → exec e.1 s = .next (s.reply p e.2 2)) ∧
      (s.inRecovery = true → s.unowned = false → exec e.1 s = .next (s.reply p e.2 3)) ∧
      (s.inRecovery = false → 2 ≤ s.blu.stage → s.unowned = false → s.blu.nonce ≠ some p.nonce → exec e.1 s = .next (s.reply p e.2 1))) ∧
  (∀ (s : State) (p : OwnerProof) (cmd code : Nat), (p.mated = true → s.reply p cmd code = s.answer cmd code []) ∧
    (p.mated = false → s.reply p cmd code = s)) ∧
  (∀ (s : State) (addr : Nat) (b tok : List Byte), 2 ≤ s.blu.stage → s.inRecovery = false →
    (∃ t n, exec .getNonce s = .next t ∧ t.blu = { s.blu with nonce := some n } ∧ t.outs = s.outs ++ [.mgt 0x01 0 n] ∧
      t = { s with free := s.free + 1, blu := t.blu, pins := { s.pins with alert := true }, outs := t.outs }) ∧
    (addr % 8 = 0 → addr < 2 ^ 32 → exec (.readReg addr) s = .next (s.answer 0x02 0 (leBytes 8 (s.spaceReg addr).toNat))) ∧
    (addr % 8 ≠ 0 ∨ 2 ^ 32 ≤ addr → exec (.readReg addr) s = .next (s.answer 0x02 4 [])) ∧
    exec (.recoveryBundle b) s = .next (s.answer 0x03 3 []) ∧
    (s.blu.tokens.length < 8 → exec (.tokenStage tok) s =
      .next ({ s with blu := { s.blu with tokens := s.blu.tokens ++ [tok] } }.answer 0x11 0 [])) ∧
    (8 ≤ s.blu.tokens.length → exec (.tokenStage tok) s = .next (s.answer 0x11 4 []))) ∧
  (∀ (s : State) (b : List Byte), s.inRecovery = true →
    (24 * 1048576 < b.length → exec (.recoveryBundle b) s = .next (s.answer 0x03 4 [])) ∧
    (b.length ≤ 24 * 1048576 → ∃ t, exec (.recoveryBundle b) s = .next t ∧
      (if s.bundleOk b && bit (b.getD 8 0) 1 then t.blu.slotA = b ∧ t.boot.phase = 0 ∧ t.outs = s.outs ++ [.mgt 0x03 0 []]
       else t = s.answer 0x03 1 []))) ∧
  (∀ (s : State) (cfg : OwnerCfg) (es : List (Nat × Half)) (n : Nat) (v : DWord) (p : OwnerProof), s.ownerHears p →
    ((cfgBody cfg).length + cfg.sig.length ≤ 1048576 → ∃ k, exec (.configStage cfg p) s = .next (if s.ownerSigned 0x10 (cfgBody cfg ++ cfg.sig) p then
        { s.nonceUsed with blu := k }.reply p 0x10 0 else s.nonceUsed.reply p 0x10 1) ∧
      ((k = { s.nonceUsed.blu with cfgA := some cfg } ∧ (∀ a b, s.blu.cfgA = some a → s.blu.cfgB = some b → a.seq.toNat ≤ b.seq.toNat)) ∨
       (k = { s.nonceUsed.blu with cfgB := some cfg } ∧ s.blu.cfgA ≠ none ∧
         ∀ a b, s.blu.cfgA = some a → s.blu.cfgB = some b → b.seq.toNat < a.seq.toNat))) ∧
    (es.length ≤ 64 → (∀ e ∈ es, e.1 < 16384) → exec (.routeWrite es p) s =
      .next (if s.ownerSigned 0x21 ((es.map (fun e => leBytes 2 e.1 ++ leBytes 2 e.2.toNat)).flatten) p then
        (es.foldl (fun s e => s.writeRoute e.1 e.2) s.nonceUsed).reply p 0x21 0 else s.nonceUsed.reply p 0x21 1)) ∧
    (s.hasPort n = true → exec (.portCtl n v p) s = .next (if s.ownerSigned 0x22 (leBytes 1 n ++ leBytes 8 v.toNat) p then
      (s.nonceUsed.writePortCtl n v).reply p 0x22 0 else s.nonceUsed.reply p 0x22 1)) ∧
    (s.variant.full = true → s.formatting = false → (∀ e ∈ s.ctxs, e.2.st = .empty) → exec (.pmtFormat p) s =
      .next (if s.ownerSigned 0x30 [] p then { s.nonceUsed with formatting := true, pmt := { s.pmt with inService := false } }.reply p 0x30 0
        else s.nonceUsed.reply p 0x30 1)) ∧
    (s.variant.full = false ∨ s.formatting = true ∨ (∃ e ∈ s.ctxs, e.2.st ≠ .empty) → exec (.pmtFormat p) s =
      .next (if s.ownerSigned 0x30 [] p then s.nonceUsed.reply p 0x30 3 else s.nonceUsed.reply p 0x30 1))) ∧
  (∀ (s : State) (defects : List (List Nat)), s.formatting = true → ∃ t, exec (.pmtFormatEnd defects) s = .next t ∧ t.formatting = false ∧
    t.pmt.formatted = true ∧ (t.pmt.ilv = true ↔ ∀ n < 8, (s.pdev n).state = 2) ∧ t.ctxs = s.ctxs ∧
    (∀ n < 8, ((s.pdev n).retired = [] → (t.pdev n).map = []) ∧ (t.pdev n).bad = [] ∧ (t.pdev n).wear = (s.pdev n).wear ∧
      (t.pdev n).retired = (s.pdev n).retired ∧ (t.pdev n).reserves = (s.pdev n).reserves ∧ (s.pdev n).spares ≤ (t.pdev n).spares ∧
      ((s.pdev n).exhausted = true → (t.pdev n).exhausted = true) ∧
      (∀ slot ∈ defects.getD n [], (tkeys (t.pdev n).remap).contains slot = true ∨ (t.pdev n).exhausted = true)) ∧
    (∀ a, pmtBase ≤ a → a < 0x800000000000 → mget t.mem a = Memory.blank) ∧
    (∀ a, a < pmtBase ∨ 0x800000000000 ≤ a → mget t.mem a = mget s.mem a)) ∧
  (∀ (s : State) (off len i : Nat) (nonce : List Byte), 2 ≤ s.blu.stage →
    (let out (code : Nat) (data : List Byte) : State := { s with pins := { s.pins with alert := true }, outs := s.outs ++ [.spdm code data] }
     let spdm (n code : Nat) (data : List Byte) : State := { out code data with blu := { s.blu with spdm := n } }
     exec .getVersion s = .next (spdm 1 0x04 [0x12]) ∧
     (s.blu.spdm < 3 → exec .getDigests s = .next (out 0x7F [4]) ∧ (off ≤ s.blu.chain.length →
       exec (.getCertificate 0 off len) s = .next (out 0x7F [4]))) ∧
     (1 ≤ s.blu.spdm → ∃ b, exec .getCapabilities s = .next (spdm 2 0x61 b)) ∧
     (2 ≤ s.blu.spdm → ∃ b, exec (.negotiateAlgorithms true true) s = .next (spdm 3 0x63 b)) ∧
     (2 ≤ s.blu.spdm → ∃ b, exec (.negotiateAlgorithms true false) s = .next (spdm 2 0x63 b)) ∧
     (3 ≤ s.blu.spdm → exec .getDigests s = .next (out 0x01 (Config.sm3 s.blu.chain)) ∧
       (off ≤ s.blu.chain.length → exec (.getCertificate 0 off len) s = .next (out 0x02 (slice s.blu.chain off len))) ∧
       (∃ b k t, exec (.challenge 0 nonce) s = .next t ∧ t = { out 0x03 (b ++ Config.sm2Sign s.free k b) with free := s.free + 1 }) ∧
       (i ≤ 10 ∨ i = 0xFF → ∃ b k t, exec (.getMeasurements i nonce) s = .next t ∧
         t = { out 0x60 (b ++ Config.sm2Sign s.free k b) with free := s.free + 1 })) ∧
     (off ≠ 0 → exec (.getCertificate off 0 len) s = .next (out 0x7F [1]) ∧ exec (.challenge off nonce) s = .next (out 0x7F [1])) ∧
     (10 < i → i ≠ 0xFF → exec (.getMeasurements i nonce) s = .next (out 0x7F [1]))))
end

