-- ==== Sys2Proof/Laws/State.lean ====
section
/-! SUPPORT. Laws/State.lean: what a table, and every named update of State, leaves as it was: one lemma per update and field. -/
namespace Sys2Proof.Machine

/-! ### Tables -/

@[simp] theorem tget_nil {α : Type} (d : α) (k : Nat) : tget d [] k = d := rfl

/-- The unit just put is the one read. -/
@[simp] theorem tget_tput_same {α : Type} (d : α) (t : Tbl α) (k : Nat) (v : α) : tget d (tput t k v) k = v := by
  induction t with
  | nil => simp [tput, tget]
  | cons e r ih =>
    obtain ⟨j, w⟩ := e
    simp only [tput]
    split
    · simp [tget]
    · split
      · simp [tget]
      · rename_i h1 h2
        have : ¬ j = k := fun h => h2 h.symm
        simp [tget, this, ih]

/-- A put leaves every other unit. -/
theorem tget_tput_other {α : Type} (d : α) (t : Tbl α) (k j : Nat) (v : α) (h : j ≠ k) : tget d (tput t k v) j = tget d t j := by
  induction t with
  | nil => simp [tput, tget, Ne.symm h]
  | cons e r ih =>
    obtain ⟨i, w⟩ := e
    simp only [tput]
    split
    · simp [tget, Ne.symm h]
    · split
      · rename_i h2
        subst h2
        simp [tget, Ne.symm h]
      · simp [tget, ih]

/-- Every unit of a table with one put satisfies what the old ones and the new one satisfy. -/
theorem all_tput {α : Type} (p : Nat × α → Bool) (t : Tbl α) (k : Nat) (v : α) (h : t.all p = true) (hv : p (k, v) = true) :
    (tput t k v).all p = true := by
  induction t with
  | nil => simp [tput, hv]
  | cons e r ih =>
    obtain ⟨j, w⟩ := e
    simp only [List.all_cons, Bool.and_eq_true] at h
    simp only [tput]
    split
    · simp [hv, h.1, h.2]
    · split
      · rename_i h2
        subst h2
        simp [hv, h.2]
      · simp [h.1, ih h.2]

/-- A unit of a table satisfies what all of them and the reset unit satisfy. -/
theorem tget_all {α : Type} (p : α → Bool) (d : α) (t : Tbl α) (k : Nat) (h : t.all (fun e => p e.2) = true) (hd : p d = true) :
    p (tget d t k) = true := by
  induction t with
  | nil => exact hd
  | cons e r ih =>
    obtain ⟨j, w⟩ := e
    simp only [List.all_cons, Bool.and_eq_true] at h
    simp only [tget]
    split
    · exact h.1
    · exact ih h.2

/-! ### Updates and the fields they leave -/

@[simp] theorem State.modCtx_pending (s : State) (c : Nat) (f : Ctx → Ctx) : (s.modCtx c f).pending = s.pending := rfl
@[simp] theorem State.modCtx_free (s : State) (c : Nat) (f : Ctx → Ctx) : (s.modCtx c f).free = s.free := rfl
@[simp] theorem State.modCtx_outs (s : State) (c : Nat) (f : Ctx → Ctx) : (s.modCtx c f).outs = s.outs := rfl
@[simp] theorem State.modCtx_mem (s : State) (c : Nat) (f : Ctx → Ctx) : (s.modCtx c f).mem = s.mem := rfl
@[simp] theorem State.modCtx_ueLines (s : State) (c : Nat) (f : Ctx → Ctx) : (s.modCtx c f).ueLines = s.ueLines := rfl
@[simp] theorem State.modCtx_doms (s : State) (c : Nat) (f : Ctx → Ctx) : (s.modCtx c f).doms = s.doms := rfl
@[simp] theorem State.modCtx_attaches (s : State) (c : Nat) (f : Ctx → Ctx) : (s.modCtx c f).attaches = s.attaches := rfl
@[simp] theorem State.modCtx_tiles (s : State) (c : Nat) (f : Ctx → Ctx) : (s.modCtx c f).tiles = s.tiles := rfl
@[simp] theorem State.modCtx_stks (s : State) (c : Nat) (f : Ctx → Ctx) : (s.modCtx c f).stks = s.stks := rfl
@[simp] theorem State.modCtx_dimms (s : State) (c : Nat) (f : Ctx → Ctx) : (s.modCtx c f).dimms = s.dimms := rfl
@[simp] theorem State.modCtx_sched (s : State) (c : Nat) (f : Ctx → Ctx) : (s.modCtx c f).sched = s.sched := rfl
@[simp] theorem State.modCtx_models (s : State) (c : Nat) (f : Ctx → Ctx) : (s.modCtx c f).models = s.models := rfl
@[simp] theorem State.modCtx_modelUse (s : State) (c : Nat) (f : Ctx → Ctx) : (s.modCtx c f).modelUse = s.modelUse := rfl
@[simp] theorem State.modCtx_err (s : State) (c : Nat) (f : Ctx → Ctx) : (s.modCtx c f).err = s.err := rfl
@[simp] theorem State.modCtx_boot (s : State) (c : Nat) (f : Ctx → Ctx) : (s.modCtx c f).boot = s.boot := rfl
@[simp] theorem State.modCtx_blu (s : State) (c : Nat) (f : Ctx → Ctx) : (s.modCtx c f).blu = s.blu := rfl
@[simp] theorem State.modCtx_sec (s : State) (c : Nat) (f : Ctx → Ctx) : (s.modCtx c f).sec = s.sec := rfl
@[simp] theorem State.modCtx_pins (s : State) (c : Nat) (f : Ctx → Ctx) : (s.modCtx c f).pins = s.pins := rfl
@[simp] theorem State.modCtx_formatting (s : State) (c : Nat) (f : Ctx → Ctx) : (s.modCtx c f).formatting = s.formatting := rfl
@[simp] theorem State.modCtx_lnk (s : State) (c : Nat) (f : Ctx → Ctx) : (s.modCtx c f).lnk = s.lnk := rfl
@[simp] theorem State.modCtx_pmt (s : State) (c : Nat) (f : Ctx → Ctx) : (s.modCtx c f).pmt = s.pmt := rfl
@[simp] theorem State.modCtx_pwr (s : State) (c : Nat) (f : Ctx → Ctx) : (s.modCtx c f).pwr = s.pwr := rfl

@[simp] theorem State.modDom_pending (s : State) (h : Nat) (f : Dom → Dom) : (s.modDom h f).pending = s.pending := rfl
@[simp] theorem State.modDom_free (s : State) (h : Nat) (f : Dom → Dom) : (s.modDom h f).free = s.free := rfl
@[simp] theorem State.modDom_outs (s : State) (h : Nat) (f : Dom → Dom) : (s.modDom h f).outs = s.outs := rfl
@[simp] theorem State.modDom_mem (s : State) (h : Nat) (f : Dom → Dom) : (s.modDom h f).mem = s.mem := rfl
@[simp] theorem State.modDom_ueLines (s : State) (h : Nat) (f : Dom → Dom) : (s.modDom h f).ueLines = s.ueLines := rfl
@[simp] theorem State.modDom_ctxs (s : State) (h : Nat) (f : Dom → Dom) : (s.modDom h f).ctxs = s.ctxs := rfl
@[simp] theorem State.modDom_attaches (s : State) (h : Nat) (f : Dom → Dom) : (s.modDom h f).attaches = s.attaches := rfl
@[simp] theorem State.modDom_tiles (s : State) (h : Nat) (f : Dom → Dom) : (s.modDom h f).tiles = s.tiles := rfl
@[simp] theorem State.modDom_stks (s : State) (h : Nat) (f : Dom → Dom) : (s.modDom h f).stks = s.stks := rfl
@[simp] theorem State.modDom_dimms (s : State) (h : Nat) (f : Dom → Dom) : (s.modDom h f).dimms = s.dimms := rfl
@[simp] theorem State.modDom_sched (s : State) (h : Nat) (f : Dom → Dom) : (s.modDom h f).sched = s.sched := rfl
@[simp] theorem State.modDom_models (s : State) (h : Nat) (f : Dom → Dom) : (s.modDom h f).models = s.models := rfl
@[simp] theorem State.modDom_modelUse (s : State) (h : Nat) (f : Dom → Dom) : (s.modDom h f).modelUse = s.modelUse := rfl
@[simp] theorem State.modDom_err (s : State) (h : Nat) (f : Dom → Dom) : (s.modDom h f).err = s.err := rfl
@[simp] theorem State.modDom_boot (s : State) (h : Nat) (f : Dom → Dom) : (s.modDom h f).boot = s.boot := rfl
@[simp] theorem State.modDom_blu (s : State) (h : Nat) (f : Dom → Dom) : (s.modDom h f).blu = s.blu := rfl
@[simp] theorem State.modDom_sec (s : State) (h : Nat) (f : Dom → Dom) : (s.modDom h f).sec = s.sec := rfl
@[simp] theorem State.modDom_pins (s : State) (h : Nat) (f : Dom → Dom) : (s.modDom h f).pins = s.pins := rfl
@[simp] theorem State.modDom_formatting (s : State) (h : Nat) (f : Dom → Dom) : (s.modDom h f).formatting = s.formatting := rfl
@[simp] theorem State.modDom_lnk (s : State) (h : Nat) (f : Dom → Dom) : (s.modDom h f).lnk = s.lnk := rfl
@[simp] theorem State.modDom_pmt (s : State) (h : Nat) (f : Dom → Dom) : (s.modDom h f).pmt = s.pmt := rfl
@[simp] theorem State.modDom_pwr (s : State) (h : Nat) (f : Dom → Dom) : (s.modDom h f).pwr = s.pwr := rfl

@[simp] theorem State.modAtt_pending (s : State) (i : Nat) (f : Attach → Attach) : (s.modAtt i f).pending = s.pending := rfl
@[simp] theorem State.modAtt_free (s : State) (i : Nat) (f : Attach → Attach) : (s.modAtt i f).free = s.free := rfl
@[simp] theorem State.modAtt_outs (s : State) (i : Nat) (f : Attach → Attach) : (s.modAtt i f).outs = s.outs := rfl
@[simp] theorem State.modAtt_mem (s : State) (i : Nat) (f : Attach → Attach) : (s.modAtt i f).mem = s.mem := rfl
@[simp] theorem State.modAtt_ueLines (s : State) (i : Nat) (f : Attach → Attach) : (s.modAtt i f).ueLines = s.ueLines := rfl
@[simp] theorem State.modAtt_ctxs (s : State) (i : Nat) (f : Attach → Attach) : (s.modAtt i f).ctxs = s.ctxs := rfl
@[simp] theorem State.modAtt_doms (s : State) (i : Nat) (f : Attach → Attach) : (s.modAtt i f).doms = s.doms := rfl
@[simp] theorem State.modAtt_tiles (s : State) (i : Nat) (f : Attach → Attach) : (s.modAtt i f).tiles = s.tiles := rfl
@[simp] theorem State.modAtt_stks (s : State) (i : Nat) (f : Attach → Attach) : (s.modAtt i f).stks = s.stks := rfl
@[simp] theorem State.modAtt_dimms (s : State) (i : Nat) (f : Attach → Attach) : (s.modAtt i f).dimms = s.dimms := rfl
@[simp] theorem State.modAtt_sched (s : State) (i : Nat) (f : Attach → Attach) : (s.modAtt i f).sched = s.sched := rfl
@[simp] theorem State.modAtt_models (s : State) (i : Nat) (f : Attach → Attach) : (s.modAtt i f).models = s.models := rfl
@[simp] theorem State.modAtt_modelUse (s : State) (i : Nat) (f : Attach → Attach) : (s.modAtt i f).modelUse = s.modelUse := rfl
@[simp] theorem State.modAtt_err (s : State) (i : Nat) (f : Attach → Attach) : (s.modAtt i f).err = s.err := rfl
@[simp] theorem State.modAtt_boot (s : State) (i : Nat) (f : Attach → Attach) : (s.modAtt i f).boot = s.boot := rfl
@[simp] theorem State.modAtt_blu (s : State) (i : Nat) (f : Attach → Attach) : (s.modAtt i f).blu = s.blu := rfl
@[simp] theorem State.modAtt_sec (s : State) (i : Nat) (f : Attach → Attach) : (s.modAtt i f).sec = s.sec := rfl
@[simp] theorem State.modAtt_pins (s : State) (i : Nat) (f : Attach → Attach) : (s.modAtt i f).pins = s.pins := rfl
@[simp] theorem State.modAtt_formatting (s : State) (i : Nat) (f : Attach → Attach) : (s.modAtt i f).formatting = s.formatting := rfl
@[simp] theorem State.modAtt_lnk (s : State) (i : Nat) (f : Attach → Attach) : (s.modAtt i f).lnk = s.lnk := rfl
@[simp] theorem State.modAtt_pmt (s : State) (i : Nat) (f : Attach → Attach) : (s.modAtt i f).pmt = s.pmt := rfl
@[simp] theorem State.modAtt_pwr (s : State) (i : Nat) (f : Attach → Attach) : (s.modAtt i f).pwr = s.pwr := rfl

@[simp] theorem State.modTile_pending (s : State) (k : Nat) (f : Tile → Tile) : (s.modTile k f).pending = s.pending := rfl
@[simp] theorem State.modTile_free (s : State) (k : Nat) (f : Tile → Tile) : (s.modTile k f).free = s.free := rfl
@[simp] theorem State.modTile_outs (s : State) (k : Nat) (f : Tile → Tile) : (s.modTile k f).outs = s.outs := rfl
@[simp] theorem State.modTile_mem (s : State) (k : Nat) (f : Tile → Tile) : (s.modTile k f).mem = s.mem := rfl
@[simp] theorem State.modTile_ueLines (s : State) (k : Nat) (f : Tile → Tile) : (s.modTile k f).ueLines = s.ueLines := rfl
@[simp] theorem State.modTile_ctxs (s : State) (k : Nat) (f : Tile → Tile) : (s.modTile k f).ctxs = s.ctxs := rfl
@[simp] theorem State.modTile_doms (s : State) (k : Nat) (f : Tile → Tile) : (s.modTile k f).doms = s.doms := rfl
@[simp] theorem State.modTile_attaches (s : State) (k : Nat) (f : Tile → Tile) : (s.modTile k f).attaches = s.attaches := rfl
@[simp] theorem State.modTile_stks (s : State) (k : Nat) (f : Tile → Tile) : (s.modTile k f).stks = s.stks := rfl
@[simp] theorem State.modTile_dimms (s : State) (k : Nat) (f : Tile → Tile) : (s.modTile k f).dimms = s.dimms := rfl
@[simp] theorem State.modTile_sched (s : State) (k : Nat) (f : Tile → Tile) : (s.modTile k f).sched = s.sched := rfl
@[simp] theorem State.modTile_models (s : State) (k : Nat) (f : Tile → Tile) : (s.modTile k f).models = s.models := rfl
@[simp] theorem State.modTile_modelUse (s : State) (k : Nat) (f : Tile → Tile) : (s.modTile k f).modelUse = s.modelUse := rfl
@[simp] theorem State.modTile_err (s : State) (k : Nat) (f : Tile → Tile) : (s.modTile k f).err = s.err := rfl
@[simp] theorem State.modTile_boot (s : State) (k : Nat) (f : Tile → Tile) : (s.modTile k f).boot = s.boot := rfl
@[simp] theorem State.modTile_blu (s : State) (k : Nat) (f : Tile → Tile) : (s.modTile k f).blu = s.blu := rfl
@[simp] theorem State.modTile_sec (s : State) (k : Nat) (f : Tile → Tile) : (s.modTile k f).sec = s.sec := rfl
@[simp] theorem State.modTile_pins (s : State) (k : Nat) (f : Tile → Tile) : (s.modTile k f).pins = s.pins := rfl
@[simp] theorem State.modTile_formatting (s : State) (k : Nat) (f : Tile → Tile) : (s.modTile k f).formatting = s.formatting := rfl
@[simp] theorem State.modTile_lnk (s : State) (k : Nat) (f : Tile → Tile) : (s.modTile k f).lnk = s.lnk := rfl
@[simp] theorem State.modTile_pmt (s : State) (k : Nat) (f : Tile → Tile) : (s.modTile k f).pmt = s.pmt := rfl
@[simp] theorem State.modTile_pwr (s : State) (k : Nat) (f : Tile → Tile) : (s.modTile k f).pwr = s.pwr := rfl

@[simp] theorem State.modStack_pending (s : State) (n : Nat) (f : Stack → Stack) : (s.modStack n f).pending = s.pending := rfl
@[simp] theorem State.modStack_free (s : State) (n : Nat) (f : Stack → Stack) : (s.modStack n f).free = s.free := rfl
@[simp] theorem State.modStack_outs (s : State) (n : Nat) (f : Stack → Stack) : (s.modStack n f).outs = s.outs := rfl
@[simp] theorem State.modStack_mem (s : State) (n : Nat) (f : Stack → Stack) : (s.modStack n f).mem = s.mem := rfl
@[simp] theorem State.modStack_ueLines (s : State) (n : Nat) (f : Stack → Stack) : (s.modStack n f).ueLines = s.ueLines := rfl
@[simp] theorem State.modStack_ctxs (s : State) (n : Nat) (f : Stack → Stack) : (s.modStack n f).ctxs = s.ctxs := rfl
@[simp] theorem State.modStack_doms (s : State) (n : Nat) (f : Stack → Stack) : (s.modStack n f).doms = s.doms := rfl
@[simp] theorem State.modStack_attaches (s : State) (n : Nat) (f : Stack → Stack) : (s.modStack n f).attaches = s.attaches := rfl
@[simp] theorem State.modStack_tiles (s : State) (n : Nat) (f : Stack → Stack) : (s.modStack n f).tiles = s.tiles := rfl
@[simp] theorem State.modStack_dimms (s : State) (n : Nat) (f : Stack → Stack) : (s.modStack n f).dimms = s.dimms := rfl
@[simp] theorem State.modStack_sched (s : State) (n : Nat) (f : Stack → Stack) : (s.modStack n f).sched = s.sched := rfl
@[simp] theorem State.modStack_models (s : State) (n : Nat) (f : Stack → Stack) : (s.modStack n f).models = s.models := rfl
@[simp] theorem State.modStack_modelUse (s : State) (n : Nat) (f : Stack → Stack) : (s.modStack n f).modelUse = s.modelUse := rfl
@[simp] theorem State.modStack_err (s : State) (n : Nat) (f : Stack → Stack) : (s.modStack n f).err = s.err := rfl
@[simp] theorem State.modStack_boot (s : State) (n : Nat) (f : Stack → Stack) : (s.modStack n f).boot = s.boot := rfl
@[simp] theorem State.modStack_blu (s : State) (n : Nat) (f : Stack → Stack) : (s.modStack n f).blu = s.blu := rfl
@[simp] theorem State.modStack_sec (s : State) (n : Nat) (f : Stack → Stack) : (s.modStack n f).sec = s.sec := rfl
@[simp] theorem State.modStack_pins (s : State) (n : Nat) (f : Stack → Stack) : (s.modStack n f).pins = s.pins := rfl
@[simp] theorem State.modStack_formatting (s : State) (n : Nat) (f : Stack → Stack) : (s.modStack n f).formatting = s.formatting := rfl
@[simp] theorem State.modStack_lnk (s : State) (n : Nat) (f : Stack → Stack) : (s.modStack n f).lnk = s.lnk := rfl
@[simp] theorem State.modStack_pmt (s : State) (n : Nat) (f : Stack → Stack) : (s.modStack n f).pmt = s.pmt := rfl
@[simp] theorem State.modStack_pwr (s : State) (n : Nat) (f : Stack → Stack) : (s.modStack n f).pwr = s.pwr := rfl

@[simp] theorem State.modDimm_pending (s : State) (n : Nat) (f : Dimm → Dimm) : (s.modDimm n f).pending = s.pending := rfl
@[simp] theorem State.modDimm_free (s : State) (n : Nat) (f : Dimm → Dimm) : (s.modDimm n f).free = s.free := rfl
@[simp] theorem State.modDimm_outs (s : State) (n : Nat) (f : Dimm → Dimm) : (s.modDimm n f).outs = s.outs := rfl
@[simp] theorem State.modDimm_mem (s : State) (n : Nat) (f : Dimm → Dimm) : (s.modDimm n f).mem = s.mem := rfl
@[simp] theorem State.modDimm_ueLines (s : State) (n : Nat) (f : Dimm → Dimm) : (s.modDimm n f).ueLines = s.ueLines := rfl
@[simp] theorem State.modDimm_ctxs (s : State) (n : Nat) (f : Dimm → Dimm) : (s.modDimm n f).ctxs = s.ctxs := rfl
@[simp] theorem State.modDimm_doms (s : State) (n : Nat) (f : Dimm → Dimm) : (s.modDimm n f).doms = s.doms := rfl
@[simp] theorem State.modDimm_attaches (s : State) (n : Nat) (f : Dimm → Dimm) : (s.modDimm n f).attaches = s.attaches := rfl
@[simp] theorem State.modDimm_tiles (s : State) (n : Nat) (f : Dimm → Dimm) : (s.modDimm n f).tiles = s.tiles := rfl
@[simp] theorem State.modDimm_stks (s : State) (n : Nat) (f : Dimm → Dimm) : (s.modDimm n f).stks = s.stks := rfl
@[simp] theorem State.modDimm_sched (s : State) (n : Nat) (f : Dimm → Dimm) : (s.modDimm n f).sched = s.sched := rfl
@[simp] theorem State.modDimm_models (s : State) (n : Nat) (f : Dimm → Dimm) : (s.modDimm n f).models = s.models := rfl
@[simp] theorem State.modDimm_modelUse (s : State) (n : Nat) (f : Dimm → Dimm) : (s.modDimm n f).modelUse = s.modelUse := rfl
@[simp] theorem State.modDimm_err (s : State) (n : Nat) (f : Dimm → Dimm) : (s.modDimm n f).err = s.err := rfl
@[simp] theorem State.modDimm_boot (s : State) (n : Nat) (f : Dimm → Dimm) : (s.modDimm n f).boot = s.boot := rfl
@[simp] theorem State.modDimm_blu (s : State) (n : Nat) (f : Dimm → Dimm) : (s.modDimm n f).blu = s.blu := rfl
@[simp] theorem State.modDimm_sec (s : State) (n : Nat) (f : Dimm → Dimm) : (s.modDimm n f).sec = s.sec := rfl
@[simp] theorem State.modDimm_pins (s : State) (n : Nat) (f : Dimm → Dimm) : (s.modDimm n f).pins = s.pins := rfl
@[simp] theorem State.modDimm_formatting (s : State) (n : Nat) (f : Dimm → Dimm) : (s.modDimm n f).formatting = s.formatting := rfl
@[simp] theorem State.modDimm_lnk (s : State) (n : Nat) (f : Dimm → Dimm) : (s.modDimm n f).lnk = s.lnk := rfl
@[simp] theorem State.modDimm_pmt (s : State) (n : Nat) (f : Dimm → Dimm) : (s.modDimm n f).pmt = s.pmt := rfl
@[simp] theorem State.modDimm_pwr (s : State) (n : Nat) (f : Dimm → Dimm) : (s.modDimm n f).pwr = s.pwr := rfl

@[simp] theorem State.modModel_pending (s : State) (i : Nat) (f : ModelSlot → ModelSlot) : (s.modModel i f).pending = s.pending := rfl
@[simp] theorem State.modModel_free (s : State) (i : Nat) (f : ModelSlot → ModelSlot) : (s.modModel i f).free = s.free := rfl
@[simp] theorem State.modModel_outs (s : State) (i : Nat) (f : ModelSlot → ModelSlot) : (s.modModel i f).outs = s.outs := rfl
@[simp] theorem State.modModel_mem (s : State) (i : Nat) (f : ModelSlot → ModelSlot) : (s.modModel i f).mem = s.mem := rfl
@[simp] theorem State.modModel_ueLines (s : State) (i : Nat) (f : ModelSlot → ModelSlot) : (s.modModel i f).ueLines = s.ueLines := rfl
@[simp] theorem State.modModel_ctxs (s : State) (i : Nat) (f : ModelSlot → ModelSlot) : (s.modModel i f).ctxs = s.ctxs := rfl
@[simp] theorem State.modModel_doms (s : State) (i : Nat) (f : ModelSlot → ModelSlot) : (s.modModel i f).doms = s.doms := rfl
@[simp] theorem State.modModel_attaches (s : State) (i : Nat) (f : ModelSlot → ModelSlot) : (s.modModel i f).attaches = s.attaches := rfl
@[simp] theorem State.modModel_tiles (s : State) (i : Nat) (f : ModelSlot → ModelSlot) : (s.modModel i f).tiles = s.tiles := rfl
@[simp] theorem State.modModel_stks (s : State) (i : Nat) (f : ModelSlot → ModelSlot) : (s.modModel i f).stks = s.stks := rfl
@[simp] theorem State.modModel_dimms (s : State) (i : Nat) (f : ModelSlot → ModelSlot) : (s.modModel i f).dimms = s.dimms := rfl
@[simp] theorem State.modModel_sched (s : State) (i : Nat) (f : ModelSlot → ModelSlot) : (s.modModel i f).sched = s.sched := rfl
@[simp] theorem State.modModel_modelUse (s : State) (i : Nat) (f : ModelSlot → ModelSlot) : (s.modModel i f).modelUse = s.modelUse := rfl
@[simp] theorem State.modModel_err (s : State) (i : Nat) (f : ModelSlot → ModelSlot) : (s.modModel i f).err = s.err := rfl
@[simp] theorem State.modModel_boot (s : State) (i : Nat) (f : ModelSlot → ModelSlot) : (s.modModel i f).boot = s.boot := rfl
@[simp] theorem State.modModel_blu (s : State) (i : Nat) (f : ModelSlot → ModelSlot) : (s.modModel i f).blu = s.blu := rfl
@[simp] theorem State.modModel_sec (s : State) (i : Nat) (f : ModelSlot → ModelSlot) : (s.modModel i f).sec = s.sec := rfl
@[simp] theorem State.modModel_pins (s : State) (i : Nat) (f : ModelSlot → ModelSlot) : (s.modModel i f).pins = s.pins := rfl
@[simp] theorem State.modModel_formatting (s : State) (i : Nat) (f : ModelSlot → ModelSlot) : (s.modModel i f).formatting = s.formatting := rfl
@[simp] theorem State.modModel_lnk (s : State) (i : Nat) (f : ModelSlot → ModelSlot) : (s.modModel i f).lnk = s.lnk := rfl
@[simp] theorem State.modModel_pmt (s : State) (i : Nat) (f : ModelSlot → ModelSlot) : (s.modModel i f).pmt = s.pmt := rfl
@[simp] theorem State.modModel_pwr (s : State) (i : Nat) (f : ModelSlot → ModelSlot) : (s.modModel i f).pwr = s.pwr := rfl

@[simp] theorem State.modPort_pending (s : State) (p : Nat) (f : Port → Port) : (s.modPort p f).pending = s.pending := rfl
@[simp] theorem State.modPort_free (s : State) (p : Nat) (f : Port → Port) : (s.modPort p f).free = s.free := rfl
@[simp] theorem State.modPort_outs (s : State) (p : Nat) (f : Port → Port) : (s.modPort p f).outs = s.outs := rfl
@[simp] theorem State.modPort_mem (s : State) (p : Nat) (f : Port → Port) : (s.modPort p f).mem = s.mem := rfl
@[simp] theorem State.modPort_ueLines (s : State) (p : Nat) (f : Port → Port) : (s.modPort p f).ueLines = s.ueLines := rfl
@[simp] theorem State.modPort_ctxs (s : State) (p : Nat) (f : Port → Port) : (s.modPort p f).ctxs = s.ctxs := rfl
@[simp] theorem State.modPort_doms (s : State) (p : Nat) (f : Port → Port) : (s.modPort p f).doms = s.doms := rfl
@[simp] theorem State.modPort_attaches (s : State) (p : Nat) (f : Port → Port) : (s.modPort p f).attaches = s.attaches := rfl
@[simp] theorem State.modPort_tiles (s : State) (p : Nat) (f : Port → Port) : (s.modPort p f).tiles = s.tiles := rfl
@[simp] theorem State.modPort_stks (s : State) (p : Nat) (f : Port → Port) : (s.modPort p f).stks = s.stks := rfl
@[simp] theorem State.modPort_dimms (s : State) (p : Nat) (f : Port → Port) : (s.modPort p f).dimms = s.dimms := rfl
@[simp] theorem State.modPort_sched (s : State) (p : Nat) (f : Port → Port) : (s.modPort p f).sched = s.sched := rfl
@[simp] theorem State.modPort_models (s : State) (p : Nat) (f : Port → Port) : (s.modPort p f).models = s.models := rfl
@[simp] theorem State.modPort_modelUse (s : State) (p : Nat) (f : Port → Port) : (s.modPort p f).modelUse = s.modelUse := rfl
@[simp] theorem State.modPort_err (s : State) (p : Nat) (f : Port → Port) : (s.modPort p f).err = s.err := rfl
@[simp] theorem State.modPort_boot (s : State) (p : Nat) (f : Port → Port) : (s.modPort p f).boot = s.boot := rfl
@[simp] theorem State.modPort_blu (s : State) (p : Nat) (f : Port → Port) : (s.modPort p f).blu = s.blu := rfl
@[simp] theorem State.modPort_sec (s : State) (p : Nat) (f : Port → Port) : (s.modPort p f).sec = s.sec := rfl
@[simp] theorem State.modPort_pins (s : State) (p : Nat) (f : Port → Port) : (s.modPort p f).pins = s.pins := rfl
@[simp] theorem State.modPort_formatting (s : State) (p : Nat) (f : Port → Port) : (s.modPort p f).formatting = s.formatting := rfl
@[simp] theorem State.modPort_pmt (s : State) (p : Nat) (f : Port → Port) : (s.modPort p f).pmt = s.pmt := rfl
@[simp] theorem State.modPort_pwr (s : State) (p : Nat) (f : Port → Port) : (s.modPort p f).pwr = s.pwr := rfl

@[simp] theorem State.modLnk_pending (s : State) (f : Links → Links) : (s.modLnk f).pending = s.pending := rfl
@[simp] theorem State.modLnk_free (s : State) (f : Links → Links) : (s.modLnk f).free = s.free := rfl
@[simp] theorem State.modLnk_outs (s : State) (f : Links → Links) : (s.modLnk f).outs = s.outs := rfl
@[simp] theorem State.modLnk_mem (s : State) (f : Links → Links) : (s.modLnk f).mem = s.mem := rfl
@[simp] theorem State.modLnk_ueLines (s : State) (f : Links → Links) : (s.modLnk f).ueLines = s.ueLines := rfl
@[simp] theorem State.modLnk_ctxs (s : State) (f : Links → Links) : (s.modLnk f).ctxs = s.ctxs := rfl
@[simp] theorem State.modLnk_doms (s : State) (f : Links → Links) : (s.modLnk f).doms = s.doms := rfl
@[simp] theorem State.modLnk_attaches (s : State) (f : Links → Links) : (s.modLnk f).attaches = s.attaches := rfl
@[simp] theorem State.modLnk_tiles (s : State) (f : Links → Links) : (s.modLnk f).tiles = s.tiles := rfl
@[simp] theorem State.modLnk_stks (s : State) (f : Links → Links) : (s.modLnk f).stks = s.stks := rfl
@[simp] theorem State.modLnk_dimms (s : State) (f : Links → Links) : (s.modLnk f).dimms = s.dimms := rfl
@[simp] theorem State.modLnk_sched (s : State) (f : Links → Links) : (s.modLnk f).sched = s.sched := rfl
@[simp] theorem State.modLnk_models (s : State) (f : Links → Links) : (s.modLnk f).models = s.models := rfl
@[simp] theorem State.modLnk_modelUse (s : State) (f : Links → Links) : (s.modLnk f).modelUse = s.modelUse := rfl
@[simp] theorem State.modLnk_err (s : State) (f : Links → Links) : (s.modLnk f).err = s.err := rfl
@[simp] theorem State.modLnk_boot (s : State) (f : Links → Links) : (s.modLnk f).boot = s.boot := rfl
@[simp] theorem State.modLnk_blu (s : State) (f : Links → Links) : (s.modLnk f).blu = s.blu := rfl
@[simp] theorem State.modLnk_sec (s : State) (f : Links → Links) : (s.modLnk f).sec = s.sec := rfl
@[simp] theorem State.modLnk_pins (s : State) (f : Links → Links) : (s.modLnk f).pins = s.pins := rfl
@[simp] theorem State.modLnk_formatting (s : State) (f : Links → Links) : (s.modLnk f).formatting = s.formatting := rfl
@[simp] theorem State.modLnk_pmt (s : State) (f : Links → Links) : (s.modLnk f).pmt = s.pmt := rfl
@[simp] theorem State.modLnk_pwr (s : State) (f : Links → Links) : (s.modLnk f).pwr = s.pwr := rfl

@[simp] theorem State.modPmt_pending (s : State) (f : Pmt → Pmt) : (s.modPmt f).pending = s.pending := rfl
@[simp] theorem State.modPmt_free (s : State) (f : Pmt → Pmt) : (s.modPmt f).free = s.free := rfl
@[simp] theorem State.modPmt_outs (s : State) (f : Pmt → Pmt) : (s.modPmt f).outs = s.outs := rfl
@[simp] theorem State.modPmt_mem (s : State) (f : Pmt → Pmt) : (s.modPmt f).mem = s.mem := rfl
@[simp] theorem State.modPmt_ueLines (s : State) (f : Pmt → Pmt) : (s.modPmt f).ueLines = s.ueLines := rfl
@[simp] theorem State.modPmt_ctxs (s : State) (f : Pmt → Pmt) : (s.modPmt f).ctxs = s.ctxs := rfl
@[simp] theorem State.modPmt_doms (s : State) (f : Pmt → Pmt) : (s.modPmt f).doms = s.doms := rfl
@[simp] theorem State.modPmt_attaches (s : State) (f : Pmt → Pmt) : (s.modPmt f).attaches = s.attaches := rfl
@[simp] theorem State.modPmt_tiles (s : State) (f : Pmt → Pmt) : (s.modPmt f).tiles = s.tiles := rfl
@[simp] theorem State.modPmt_stks (s : State) (f : Pmt → Pmt) : (s.modPmt f).stks = s.stks := rfl
@[simp] theorem State.modPmt_dimms (s : State) (f : Pmt → Pmt) : (s.modPmt f).dimms = s.dimms := rfl
@[simp] theorem State.modPmt_sched (s : State) (f : Pmt → Pmt) : (s.modPmt f).sched = s.sched := rfl
@[simp] theorem State.modPmt_models (s : State) (f : Pmt → Pmt) : (s.modPmt f).models = s.models := rfl
@[simp] theorem State.modPmt_modelUse (s : State) (f : Pmt → Pmt) : (s.modPmt f).modelUse = s.modelUse := rfl
@[simp] theorem State.modPmt_err (s : State) (f : Pmt → Pmt) : (s.modPmt f).err = s.err := rfl
@[simp] theorem State.modPmt_boot (s : State) (f : Pmt → Pmt) : (s.modPmt f).boot = s.boot := rfl
@[simp] theorem State.modPmt_blu (s : State) (f : Pmt → Pmt) : (s.modPmt f).blu = s.blu := rfl
@[simp] theorem State.modPmt_sec (s : State) (f : Pmt → Pmt) : (s.modPmt f).sec = s.sec := rfl
@[simp] theorem State.modPmt_pins (s : State) (f : Pmt → Pmt) : (s.modPmt f).pins = s.pins := rfl
@[simp] theorem State.modPmt_formatting (s : State) (f : Pmt → Pmt) : (s.modPmt f).formatting = s.formatting := rfl
@[simp] theorem State.modPmt_lnk (s : State) (f : Pmt → Pmt) : (s.modPmt f).lnk = s.lnk := rfl
@[simp] theorem State.modPmt_pwr (s : State) (f : Pmt → Pmt) : (s.modPmt f).pwr = s.pwr := rfl

@[simp] theorem State.modPdev_pending (s : State) (n : Nat) (f : PmtDev → PmtDev) : (s.modPdev n f).pending = s.pending := rfl
@[simp] theorem State.modPdev_free (s : State) (n : Nat) (f : PmtDev → PmtDev) : (s.modPdev n f).free = s.free := rfl
@[simp] theorem State.modPdev_outs (s : State) (n : Nat) (f : PmtDev → PmtDev) : (s.modPdev n f).outs = s.outs := rfl
@[simp] theorem State.modPdev_mem (s : State) (n : Nat) (f : PmtDev → PmtDev) : (s.modPdev n f).mem = s.mem := rfl
@[simp] theorem State.modPdev_ueLines (s : State) (n : Nat) (f : PmtDev → PmtDev) : (s.modPdev n f).ueLines = s.ueLines := rfl
@[simp] theorem State.modPdev_ctxs (s : State) (n : Nat) (f : PmtDev → PmtDev) : (s.modPdev n f).ctxs = s.ctxs := rfl
@[simp] theorem State.modPdev_doms (s : State) (n : Nat) (f : PmtDev → PmtDev) : (s.modPdev n f).doms = s.doms := rfl
@[simp] theorem State.modPdev_attaches (s : State) (n : Nat) (f : PmtDev → PmtDev) : (s.modPdev n f).attaches = s.attaches := rfl
@[simp] theorem State.modPdev_tiles (s : State) (n : Nat) (f : PmtDev → PmtDev) : (s.modPdev n f).tiles = s.tiles := rfl
@[simp] theorem State.modPdev_stks (s : State) (n : Nat) (f : PmtDev → PmtDev) : (s.modPdev n f).stks = s.stks := rfl
@[simp] theorem State.modPdev_dimms (s : State) (n : Nat) (f : PmtDev → PmtDev) : (s.modPdev n f).dimms = s.dimms := rfl
@[simp] theorem State.modPdev_sched (s : State) (n : Nat) (f : PmtDev → PmtDev) : (s.modPdev n f).sched = s.sched := rfl
@[simp] theorem State.modPdev_models (s : State) (n : Nat) (f : PmtDev → PmtDev) : (s.modPdev n f).models = s.models := rfl
@[simp] theorem State.modPdev_modelUse (s : State) (n : Nat) (f : PmtDev → PmtDev) : (s.modPdev n f).modelUse = s.modelUse := rfl
@[simp] theorem State.modPdev_err (s : State) (n : Nat) (f : PmtDev → PmtDev) : (s.modPdev n f).err = s.err := rfl
@[simp] theorem State.modPdev_boot (s : State) (n : Nat) (f : PmtDev → PmtDev) : (s.modPdev n f).boot = s.boot := rfl
@[simp] theorem State.modPdev_blu (s : State) (n : Nat) (f : PmtDev → PmtDev) : (s.modPdev n f).blu = s.blu := rfl
@[simp] theorem State.modPdev_sec (s : State) (n : Nat) (f : PmtDev → PmtDev) : (s.modPdev n f).sec = s.sec := rfl
@[simp] theorem State.modPdev_pins (s : State) (n : Nat) (f : PmtDev → PmtDev) : (s.modPdev n f).pins = s.pins := rfl
@[simp] theorem State.modPdev_formatting (s : State) (n : Nat) (f : PmtDev → PmtDev) : (s.modPdev n f).formatting = s.formatting := rfl
@[simp] theorem State.modPdev_lnk (s : State) (n : Nat) (f : PmtDev → PmtDev) : (s.modPdev n f).lnk = s.lnk := rfl
@[simp] theorem State.modPdev_pwr (s : State) (n : Nat) (f : PmtDev → PmtDev) : (s.modPdev n f).pwr = s.pwr := rfl

@[simp] theorem State.modPdie_pending (s : State) (n : Nat) (f : PmtDie → PmtDie) : (s.modPdie n f).pending = s.pending := rfl
@[simp] theorem State.modPdie_free (s : State) (n : Nat) (f : PmtDie → PmtDie) : (s.modPdie n f).free = s.free := rfl
@[simp] theorem State.modPdie_outs (s : State) (n : Nat) (f : PmtDie → PmtDie) : (s.modPdie n f).outs = s.outs := rfl
@[simp] theorem State.modPdie_mem (s : State) (n : Nat) (f : PmtDie → PmtDie) : (s.modPdie n f).mem = s.mem := rfl
@[simp] theorem State.modPdie_ueLines (s : State) (n : Nat) (f : PmtDie → PmtDie) : (s.modPdie n f).ueLines = s.ueLines := rfl
@[simp] theorem State.modPdie_ctxs (s : State) (n : Nat) (f : PmtDie → PmtDie) : (s.modPdie n f).ctxs = s.ctxs := rfl
@[simp] theorem State.modPdie_doms (s : State) (n : Nat) (f : PmtDie → PmtDie) : (s.modPdie n f).doms = s.doms := rfl
@[simp] theorem State.modPdie_attaches (s : State) (n : Nat) (f : PmtDie → PmtDie) : (s.modPdie n f).attaches = s.attaches := rfl
@[simp] theorem State.modPdie_tiles (s : State) (n : Nat) (f : PmtDie → PmtDie) : (s.modPdie n f).tiles = s.tiles := rfl
@[simp] theorem State.modPdie_stks (s : State) (n : Nat) (f : PmtDie → PmtDie) : (s.modPdie n f).stks = s.stks := rfl
@[simp] theorem State.modPdie_dimms (s : State) (n : Nat) (f : PmtDie → PmtDie) : (s.modPdie n f).dimms = s.dimms := rfl
@[simp] theorem State.modPdie_sched (s : State) (n : Nat) (f : PmtDie → PmtDie) : (s.modPdie n f).sched = s.sched := rfl
@[simp] theorem State.modPdie_models (s : State) (n : Nat) (f : PmtDie → PmtDie) : (s.modPdie n f).models = s.models := rfl
@[simp] theorem State.modPdie_modelUse (s : State) (n : Nat) (f : PmtDie → PmtDie) : (s.modPdie n f).modelUse = s.modelUse := rfl
@[simp] theorem State.modPdie_err (s : State) (n : Nat) (f : PmtDie → PmtDie) : (s.modPdie n f).err = s.err := rfl
@[simp] theorem State.modPdie_boot (s : State) (n : Nat) (f : PmtDie → PmtDie) : (s.modPdie n f).boot = s.boot := rfl
@[simp] theorem State.modPdie_blu (s : State) (n : Nat) (f : PmtDie → PmtDie) : (s.modPdie n f).blu = s.blu := rfl
@[simp] theorem State.modPdie_sec (s : State) (n : Nat) (f : PmtDie → PmtDie) : (s.modPdie n f).sec = s.sec := rfl
@[simp] theorem State.modPdie_pins (s : State) (n : Nat) (f : PmtDie → PmtDie) : (s.modPdie n f).pins = s.pins := rfl
@[simp] theorem State.modPdie_formatting (s : State) (n : Nat) (f : PmtDie → PmtDie) : (s.modPdie n f).formatting = s.formatting := rfl
@[simp] theorem State.modPdie_lnk (s : State) (n : Nat) (f : PmtDie → PmtDie) : (s.modPdie n f).lnk = s.lnk := rfl
@[simp] theorem State.modPdie_pwr (s : State) (n : Nat) (f : PmtDie → PmtDie) : (s.modPdie n f).pwr = s.pwr := rfl

@[simp] theorem State.modPwr_pending (s : State) (f : Power → Power) : (s.modPwr f).pending = s.pending := rfl
@[simp] theorem State.modPwr_free (s : State) (f : Power → Power) : (s.modPwr f).free = s.free := rfl
@[simp] theorem State.modPwr_outs (s : State) (f : Power → Power) : (s.modPwr f).outs = s.outs := rfl
@[simp] theorem State.modPwr_mem (s : State) (f : Power → Power) : (s.modPwr f).mem = s.mem := rfl
@[simp] theorem State.modPwr_ueLines (s : State) (f : Power → Power) : (s.modPwr f).ueLines = s.ueLines := rfl
@[simp] theorem State.modPwr_ctxs (s : State) (f : Power → Power) : (s.modPwr f).ctxs = s.ctxs := rfl
@[simp] theorem State.modPwr_doms (s : State) (f : Power → Power) : (s.modPwr f).doms = s.doms := rfl
@[simp] theorem State.modPwr_attaches (s : State) (f : Power → Power) : (s.modPwr f).attaches = s.attaches := rfl
@[simp] theorem State.modPwr_tiles (s : State) (f : Power → Power) : (s.modPwr f).tiles = s.tiles := rfl
@[simp] theorem State.modPwr_stks (s : State) (f : Power → Power) : (s.modPwr f).stks = s.stks := rfl
@[simp] theorem State.modPwr_dimms (s : State) (f : Power → Power) : (s.modPwr f).dimms = s.dimms := rfl
@[simp] theorem State.modPwr_sched (s : State) (f : Power → Power) : (s.modPwr f).sched = s.sched := rfl
@[simp] theorem State.modPwr_models (s : State) (f : Power → Power) : (s.modPwr f).models = s.models := rfl
@[simp] theorem State.modPwr_modelUse (s : State) (f : Power → Power) : (s.modPwr f).modelUse = s.modelUse := rfl
@[simp] theorem State.modPwr_err (s : State) (f : Power → Power) : (s.modPwr f).err = s.err := rfl
@[simp] theorem State.modPwr_boot (s : State) (f : Power → Power) : (s.modPwr f).boot = s.boot := rfl
@[simp] theorem State.modPwr_blu (s : State) (f : Power → Power) : (s.modPwr f).blu = s.blu := rfl
@[simp] theorem State.modPwr_sec (s : State) (f : Power → Power) : (s.modPwr f).sec = s.sec := rfl
@[simp] theorem State.modPwr_pins (s : State) (f : Power → Power) : (s.modPwr f).pins = s.pins := rfl
@[simp] theorem State.modPwr_formatting (s : State) (f : Power → Power) : (s.modPwr f).formatting = s.formatting := rfl
@[simp] theorem State.modPwr_lnk (s : State) (f : Power → Power) : (s.modPwr f).lnk = s.lnk := rfl
@[simp] theorem State.modPwr_pmt (s : State) (f : Power → Power) : (s.modPwr f).pmt = s.pmt := rfl

@[simp] theorem State.modCyc_pending (s : State) (f : Cyclic → Cyclic) : (s.modCyc f).pending = s.pending := rfl
@[simp] theorem State.modCyc_free (s : State) (f : Cyclic → Cyclic) : (s.modCyc f).free = s.free := rfl
@[simp] theorem State.modCyc_outs (s : State) (f : Cyclic → Cyclic) : (s.modCyc f).outs = s.outs := rfl
@[simp] theorem State.modCyc_mem (s : State) (f : Cyclic → Cyclic) : (s.modCyc f).mem = s.mem := rfl
@[simp] theorem State.modCyc_ueLines (s : State) (f : Cyclic → Cyclic) : (s.modCyc f).ueLines = s.ueLines := rfl
@[simp] theorem State.modCyc_ctxs (s : State) (f : Cyclic → Cyclic) : (s.modCyc f).ctxs = s.ctxs := rfl
@[simp] theorem State.modCyc_doms (s : State) (f : Cyclic → Cyclic) : (s.modCyc f).doms = s.doms := rfl
@[simp] theorem State.modCyc_attaches (s : State) (f : Cyclic → Cyclic) : (s.modCyc f).attaches = s.attaches := rfl
@[simp] theorem State.modCyc_tiles (s : State) (f : Cyclic → Cyclic) : (s.modCyc f).tiles = s.tiles := rfl
@[simp] theorem State.modCyc_stks (s : State) (f : Cyclic → Cyclic) : (s.modCyc f).stks = s.stks := rfl
@[simp] theorem State.modCyc_dimms (s : State) (f : Cyclic → Cyclic) : (s.modCyc f).dimms = s.dimms := rfl
@[simp] theorem State.modCyc_models (s : State) (f : Cyclic → Cyclic) : (s.modCyc f).models = s.models := rfl
@[simp] theorem State.modCyc_modelUse (s : State) (f : Cyclic → Cyclic) : (s.modCyc f).modelUse = s.modelUse := rfl
@[simp] theorem State.modCyc_err (s : State) (f : Cyclic → Cyclic) : (s.modCyc f).err = s.err := rfl
@[simp] theorem State.modCyc_boot (s : State) (f : Cyclic → Cyclic) : (s.modCyc f).boot = s.boot := rfl
@[simp] theorem State.modCyc_blu (s : State) (f : Cyclic → Cyclic) : (s.modCyc f).blu = s.blu := rfl
@[simp] theorem State.modCyc_sec (s : State) (f : Cyclic → Cyclic) : (s.modCyc f).sec = s.sec := rfl
@[simp] theorem State.modCyc_pins (s : State) (f : Cyclic → Cyclic) : (s.modCyc f).pins = s.pins := rfl
@[simp] theorem State.modCyc_formatting (s : State) (f : Cyclic → Cyclic) : (s.modCyc f).formatting = s.formatting := rfl
@[simp] theorem State.modCyc_lnk (s : State) (f : Cyclic → Cyclic) : (s.modCyc f).lnk = s.lnk := rfl
@[simp] theorem State.modCyc_pmt (s : State) (f : Cyclic → Cyclic) : (s.modCyc f).pmt = s.pmt := rfl
@[simp] theorem State.modCyc_pwr (s : State) (f : Cyclic → Cyclic) : (s.modCyc f).pwr = s.pwr := rfl

@[simp] theorem State.emit_pending (s : State) (o : Out) : (s.emit o).pending = s.pending := rfl
@[simp] theorem State.emit_free (s : State) (o : Out) : (s.emit o).free = s.free := rfl
@[simp] theorem State.emit_mem (s : State) (o : Out) : (s.emit o).mem = s.mem := rfl
@[simp] theorem State.emit_ueLines (s : State) (o : Out) : (s.emit o).ueLines = s.ueLines := rfl
@[simp] theorem State.emit_ctxs (s : State) (o : Out) : (s.emit o).ctxs = s.ctxs := rfl
@[simp] theorem State.emit_doms (s : State) (o : Out) : (s.emit o).doms = s.doms := rfl
@[simp] theorem State.emit_attaches (s : State) (o : Out) : (s.emit o).attaches = s.attaches := rfl
@[simp] theorem State.emit_tiles (s : State) (o : Out) : (s.emit o).tiles = s.tiles := rfl
@[simp] theorem State.emit_stks (s : State) (o : Out) : (s.emit o).stks = s.stks := rfl
@[simp] theorem State.emit_dimms (s : State) (o : Out) : (s.emit o).dimms = s.dimms := rfl
@[simp] theorem State.emit_sched (s : State) (o : Out) : (s.emit o).sched = s.sched := rfl
@[simp] theorem State.emit_models (s : State) (o : Out) : (s.emit o).models = s.models := rfl
@[simp] theorem State.emit_modelUse (s : State) (o : Out) : (s.emit o).modelUse = s.modelUse := rfl
@[simp] theorem State.emit_err (s : State) (o : Out) : (s.emit o).err = s.err := rfl
@[simp] theorem State.emit_boot (s : State) (o : Out) : (s.emit o).boot = s.boot := rfl
@[simp] theorem State.emit_blu (s : State) (o : Out) : (s.emit o).blu = s.blu := rfl
@[simp] theorem State.emit_sec (s : State) (o : Out) : (s.emit o).sec = s.sec := rfl
@[simp] theorem State.emit_pins (s : State) (o : Out) : (s.emit o).pins = s.pins := rfl
@[simp] theorem State.emit_formatting (s : State) (o : Out) : (s.emit o).formatting = s.formatting := rfl
@[simp] theorem State.emit_lnk (s : State) (o : Out) : (s.emit o).lnk = s.lnk := rfl
@[simp] theorem State.emit_pmt (s : State) (o : Out) : (s.emit o).pmt = s.pmt := rfl
@[simp] theorem State.emit_pwr (s : State) (o : Out) : (s.emit o).pwr = s.pwr := rfl

@[simp] theorem State.tick_pending (s : State) : s.tick.pending = s.pending := rfl
@[simp] theorem State.tick_outs (s : State) : s.tick.outs = s.outs := rfl
@[simp] theorem State.tick_mem (s : State) : s.tick.mem = s.mem := rfl
@[simp] theorem State.tick_ueLines (s : State) : s.tick.ueLines = s.ueLines := rfl
@[simp] theorem State.tick_ctxs (s : State) : s.tick.ctxs = s.ctxs := rfl
@[simp] theorem State.tick_doms (s : State) : s.tick.doms = s.doms := rfl
@[simp] theorem State.tick_attaches (s : State) : s.tick.attaches = s.attaches := rfl
@[simp] theorem State.tick_tiles (s : State) : s.tick.tiles = s.tiles := rfl
@[simp] theorem State.tick_stks (s : State) : s.tick.stks = s.stks := rfl
@[simp] theorem State.tick_dimms (s : State) : s.tick.dimms = s.dimms := rfl
@[simp] theorem State.tick_sched (s : State) : s.tick.sched = s.sched := rfl
@[simp] theorem State.tick_models (s : State) : s.tick.models = s.models := rfl
@[simp] theorem State.tick_modelUse (s : State) : s.tick.modelUse = s.modelUse := rfl
@[simp] theorem State.tick_err (s : State) : s.tick.err = s.err := rfl
@[simp] theorem State.tick_boot (s : State) : s.tick.boot = s.boot := rfl
@[simp] theorem State.tick_blu (s : State) : s.tick.blu = s.blu := rfl
@[simp] theorem State.tick_sec (s : State) : s.tick.sec = s.sec := rfl
@[simp] theorem State.tick_pins (s : State) : s.tick.pins = s.pins := rfl
@[simp] theorem State.tick_formatting (s : State) : s.tick.formatting = s.formatting := rfl
@[simp] theorem State.tick_lnk (s : State) : s.tick.lnk = s.lnk := rfl
@[simp] theorem State.tick_pmt (s : State) : s.tick.pmt = s.pmt := rfl
@[simp] theorem State.tick_pwr (s : State) : s.tick.pwr = s.pwr := rfl

@[simp] theorem State.modRing_pending (s : State) (c k : Nat) (f : Ring → Ring) : (s.modRing c k f).pending = s.pending := rfl
@[simp] theorem State.modRing_free (s : State) (c k : Nat) (f : Ring → Ring) : (s.modRing c k f).free = s.free := rfl
@[simp] theorem State.modRing_outs (s : State) (c k : Nat) (f : Ring → Ring) : (s.modRing c k f).outs = s.outs := rfl
@[simp] theorem State.modRing_mem (s : State) (c k : Nat) (f : Ring → Ring) : (s.modRing c k f).mem = s.mem := rfl
@[simp] theorem State.modRing_ueLines (s : State) (c k : Nat) (f : Ring → Ring) : (s.modRing c k f).ueLines = s.ueLines := rfl
@[simp] theorem State.modRing_doms (s : State) (c k : Nat) (f : Ring → Ring) : (s.modRing c k f).doms = s.doms := rfl
@[simp] theorem State.modRing_attaches (s : State) (c k : Nat) (f : Ring → Ring) : (s.modRing c k f).attaches = s.attaches := rfl
@[simp] theorem State.modRing_tiles (s : State) (c k : Nat) (f : Ring → Ring) : (s.modRing c k f).tiles = s.tiles := rfl
@[simp] theorem State.modRing_stks (s : State) (c k : Nat) (f : Ring → Ring) : (s.modRing c k f).stks = s.stks := rfl
@[simp] theorem State.modRing_dimms (s : State) (c k : Nat) (f : Ring → Ring) : (s.modRing c k f).dimms = s.dimms := rfl
@[simp] theorem State.modRing_sched (s : State) (c k : Nat) (f : Ring → Ring) : (s.modRing c k f).sched = s.sched := rfl
@[simp] theorem State.modRing_models (s : State) (c k : Nat) (f : Ring → Ring) : (s.modRing c k f).models = s.models := rfl
@[simp] theorem State.modRing_modelUse (s : State) (c k : Nat) (f : Ring → Ring) : (s.modRing c k f).modelUse = s.modelUse := rfl
@[simp] theorem State.modRing_err (s : State) (c k : Nat) (f : Ring → Ring) : (s.modRing c k f).err = s.err := rfl
@[simp] theorem State.modRing_boot (s : State) (c k : Nat) (f : Ring → Ring) : (s.modRing c k f).boot = s.boot := rfl
@[simp] theorem State.modRing_blu (s : State) (c k : Nat) (f : Ring → Ring) : (s.modRing c k f).blu = s.blu := rfl
@[simp] theorem State.modRing_sec (s : State) (c k : Nat) (f : Ring → Ring) : (s.modRing c k f).sec = s.sec := rfl
@[simp] theorem State.modRing_pins (s : State) (c k : Nat) (f : Ring → Ring) : (s.modRing c k f).pins = s.pins := rfl
@[simp] theorem State.modRing_formatting (s : State) (c k : Nat) (f : Ring → Ring) : (s.modRing c k f).formatting = s.formatting := rfl
@[simp] theorem State.modRing_lnk (s : State) (c k : Nat) (f : Ring → Ring) : (s.modRing c k f).lnk = s.lnk := rfl
@[simp] theorem State.modRing_pmt (s : State) (c k : Nat) (f : Ring → Ring) : (s.modRing c k f).pmt = s.pmt := rfl
@[simp] theorem State.modRing_pwr (s : State) (c k : Nat) (f : Ring → Ring) : (s.modRing c k f).pwr = s.pwr := rfl

@[simp] theorem State.modSeat_pending (s : State) (c t q : Nat) (f : Seat → Seat) : (s.modSeat c t q f).pending = s.pending := rfl
@[simp] theorem State.modSeat_free (s : State) (c t q : Nat) (f : Seat → Seat) : (s.modSeat c t q f).free = s.free := rfl
@[simp] theorem State.modSeat_outs (s : State) (c t q : Nat) (f : Seat → Seat) : (s.modSeat c t q f).outs = s.outs := rfl
@[simp] theorem State.modSeat_mem (s : State) (c t q : Nat) (f : Seat → Seat) : (s.modSeat c t q f).mem = s.mem := rfl
@[simp] theorem State.modSeat_ueLines (s : State) (c t q : Nat) (f : Seat → Seat) : (s.modSeat c t q f).ueLines = s.ueLines := rfl
@[simp] theorem State.modSeat_doms (s : State) (c t q : Nat) (f : Seat → Seat) : (s.modSeat c t q f).doms = s.doms := rfl
@[simp] theorem State.modSeat_attaches (s : State) (c t q : Nat) (f : Seat → Seat) : (s.modSeat c t q f).attaches = s.attaches := rfl
@[simp] theorem State.modSeat_tiles (s : State) (c t q : Nat) (f : Seat → Seat) : (s.modSeat c t q f).tiles = s.tiles := rfl
@[simp] theorem State.modSeat_stks (s : State) (c t q : Nat) (f : Seat → Seat) : (s.modSeat c t q f).stks = s.stks := rfl
@[simp] theorem State.modSeat_dimms (s : State) (c t q : Nat) (f : Seat → Seat) : (s.modSeat c t q f).dimms = s.dimms := rfl
@[simp] theorem State.modSeat_sched (s : State) (c t q : Nat) (f : Seat → Seat) : (s.modSeat c t q f).sched = s.sched := rfl
@[simp] theorem State.modSeat_models (s : State) (c t q : Nat) (f : Seat → Seat) : (s.modSeat c t q f).models = s.models := rfl
@[simp] theorem State.modSeat_modelUse (s : State) (c t q : Nat) (f : Seat → Seat) : (s.modSeat c t q f).modelUse = s.modelUse := rfl
@[simp] theorem State.modSeat_err (s : State) (c t q : Nat) (f : Seat → Seat) : (s.modSeat c t q f).err = s.err := rfl
@[simp] theorem State.modSeat_boot (s : State) (c t q : Nat) (f : Seat → Seat) : (s.modSeat c t q f).boot = s.boot := rfl
@[simp] theorem State.modSeat_blu (s : State) (c t q : Nat) (f : Seat → Seat) : (s.modSeat c t q f).blu = s.blu := rfl
@[simp] theorem State.modSeat_sec (s : State) (c t q : Nat) (f : Seat → Seat) : (s.modSeat c t q f).sec = s.sec := rfl
@[simp] theorem State.modSeat_pins (s : State) (c t q : Nat) (f : Seat → Seat) : (s.modSeat c t q f).pins = s.pins := rfl
@[simp] theorem State.modSeat_formatting (s : State) (c t q : Nat) (f : Seat → Seat) : (s.modSeat c t q f).formatting = s.formatting := rfl
@[simp] theorem State.modSeat_lnk (s : State) (c t q : Nat) (f : Seat → Seat) : (s.modSeat c t q f).lnk = s.lnk := rfl
@[simp] theorem State.modSeat_pmt (s : State) (c t q : Nat) (f : Seat → Seat) : (s.modSeat c t q f).pmt = s.pmt := rfl
@[simp] theorem State.modSeat_pwr (s : State) (c t q : Nat) (f : Seat → Seat) : (s.modSeat c t q f).pwr = s.pwr := rfl

@[simp] theorem State.modDesc_pending (s : State) (c r : Nat) (i : Word) (f : Desc → Desc) : (s.modDesc c r i f).pending = s.pending := rfl
@[simp] theorem State.modDesc_free (s : State) (c r : Nat) (i : Word) (f : Desc → Desc) : (s.modDesc c r i f).free = s.free := rfl
@[simp] theorem State.modDesc_outs (s : State) (c r : Nat) (i : Word) (f : Desc → Desc) : (s.modDesc c r i f).outs = s.outs := rfl
@[simp] theorem State.modDesc_mem (s : State) (c r : Nat) (i : Word) (f : Desc → Desc) : (s.modDesc c r i f).mem = s.mem := rfl
@[simp] theorem State.modDesc_ueLines (s : State) (c r : Nat) (i : Word) (f : Desc → Desc) : (s.modDesc c r i f).ueLines = s.ueLines := rfl
@[simp] theorem State.modDesc_doms (s : State) (c r : Nat) (i : Word) (f : Desc → Desc) : (s.modDesc c r i f).doms = s.doms := rfl
@[simp] theorem State.modDesc_attaches (s : State) (c r : Nat) (i : Word) (f : Desc → Desc) : (s.modDesc c r i f).attaches = s.attaches := rfl
@[simp] theorem State.modDesc_tiles (s : State) (c r : Nat) (i : Word) (f : Desc → Desc) : (s.modDesc c r i f).tiles = s.tiles := rfl
@[simp] theorem State.modDesc_stks (s : State) (c r : Nat) (i : Word) (f : Desc → Desc) : (s.modDesc c r i f).stks = s.stks := rfl
@[simp] theorem State.modDesc_dimms (s : State) (c r : Nat) (i : Word) (f : Desc → Desc) : (s.modDesc c r i f).dimms = s.dimms := rfl
@[simp] theorem State.modDesc_sched (s : State) (c r : Nat) (i : Word) (f : Desc → Desc) : (s.modDesc c r i f).sched = s.sched := rfl
@[simp] theorem State.modDesc_models (s : State) (c r : Nat) (i : Word) (f : Desc → Desc) : (s.modDesc c r i f).models = s.models := rfl
@[simp] theorem State.modDesc_modelUse (s : State) (c r : Nat) (i : Word) (f : Desc → Desc) : (s.modDesc c r i f).modelUse = s.modelUse := rfl
@[simp] theorem State.modDesc_err (s : State) (c r : Nat) (i : Word) (f : Desc → Desc) : (s.modDesc c r i f).err = s.err := rfl
@[simp] theorem State.modDesc_boot (s : State) (c r : Nat) (i : Word) (f : Desc → Desc) : (s.modDesc c r i f).boot = s.boot := rfl
@[simp] theorem State.modDesc_blu (s : State) (c r : Nat) (i : Word) (f : Desc → Desc) : (s.modDesc c r i f).blu = s.blu := rfl
@[simp] theorem State.modDesc_sec (s : State) (c r : Nat) (i : Word) (f : Desc → Desc) : (s.modDesc c r i f).sec = s.sec := rfl
@[simp] theorem State.modDesc_pins (s : State) (c r : Nat) (i : Word) (f : Desc → Desc) : (s.modDesc c r i f).pins = s.pins := rfl
@[simp] theorem State.modDesc_formatting (s : State) (c r : Nat) (i : Word) (f : Desc → Desc) : (s.modDesc c r i f).formatting = s.formatting := rfl
@[simp] theorem State.modDesc_lnk (s : State) (c r : Nat) (i : Word) (f : Desc → Desc) : (s.modDesc c r i f).lnk = s.lnk := rfl
@[simp] theorem State.modDesc_pmt (s : State) (c r : Nat) (i : Word) (f : Desc → Desc) : (s.modDesc c r i f).pmt = s.pmt := rfl
@[simp] theorem State.modDesc_pwr (s : State) (c r : Nat) (i : Word) (f : Desc → Desc) : (s.modDesc c r i f).pwr = s.pwr := rfl

@[simp] theorem State.finish_pending (s : State) (c r : Nat) (i : Word) (st : Stop) : (s.finish c r i st).pending = s.pending := rfl
@[simp] theorem State.finish_free (s : State) (c r : Nat) (i : Word) (st : Stop) : (s.finish c r i st).free = s.free := rfl
@[simp] theorem State.finish_outs (s : State) (c r : Nat) (i : Word) (st : Stop) : (s.finish c r i st).outs = s.outs := rfl
@[simp] theorem State.finish_mem (s : State) (c r : Nat) (i : Word) (st : Stop) : (s.finish c r i st).mem = s.mem := rfl
@[simp] theorem State.finish_ueLines (s : State) (c r : Nat) (i : Word) (st : Stop) : (s.finish c r i st).ueLines = s.ueLines := rfl
@[simp] theorem State.finish_doms (s : State) (c r : Nat) (i : Word) (st : Stop) : (s.finish c r i st).doms = s.doms := rfl
@[simp] theorem State.finish_attaches (s : State) (c r : Nat) (i : Word) (st : Stop) : (s.finish c r i st).attaches = s.attaches := rfl
@[simp] theorem State.finish_tiles (s : State) (c r : Nat) (i : Word) (st : Stop) : (s.finish c r i st).tiles = s.tiles := rfl
@[simp] theorem State.finish_stks (s : State) (c r : Nat) (i : Word) (st : Stop) : (s.finish c r i st).stks = s.stks := rfl
@[simp] theorem State.finish_dimms (s : State) (c r : Nat) (i : Word) (st : Stop) : (s.finish c r i st).dimms = s.dimms := rfl
@[simp] theorem State.finish_sched (s : State) (c r : Nat) (i : Word) (st : Stop) : (s.finish c r i st).sched = s.sched := rfl
@[simp] theorem State.finish_models (s : State) (c r : Nat) (i : Word) (st : Stop) : (s.finish c r i st).models = s.models := rfl
@[simp] theorem State.finish_modelUse (s : State) (c r : Nat) (i : Word) (st : Stop) : (s.finish c r i st).modelUse = s.modelUse := rfl
@[simp] theorem State.finish_err (s : State) (c r : Nat) (i : Word) (st : Stop) : (s.finish c r i st).err = s.err := rfl
@[simp] theorem State.finish_boot (s : State) (c r : Nat) (i : Word) (st : Stop) : (s.finish c r i st).boot = s.boot := rfl
@[simp] theorem State.finish_blu (s : State) (c r : Nat) (i : Word) (st : Stop) : (s.finish c r i st).blu = s.blu := rfl
@[simp] theorem State.finish_sec (s : State) (c r : Nat) (i : Word) (st : Stop) : (s.finish c r i st).sec = s.sec := rfl
@[simp] theorem State.finish_pins (s : State) (c r : Nat) (i : Word) (st : Stop) : (s.finish c r i st).pins = s.pins := rfl
@[simp] theorem State.finish_formatting (s : State) (c r : Nat) (i : Word) (st : Stop) : (s.finish c r i st).formatting = s.formatting := rfl
@[simp] theorem State.finish_lnk (s : State) (c r : Nat) (i : Word) (st : Stop) : (s.finish c r i st).lnk = s.lnk := rfl
@[simp] theorem State.finish_pmt (s : State) (c r : Nat) (i : Word) (st : Stop) : (s.finish c r i st).pmt = s.pmt := rfl
@[simp] theorem State.finish_pwr (s : State) (c r : Nat) (i : Word) (st : Stop) : (s.finish c r i st).pwr = s.pwr := rfl

@[simp] theorem State.setProg_pending (s : State) (c r : Nat) (i : Word) (p : Prog) : (s.setProg c r i p).pending = s.pending := rfl
@[simp] theorem State.setProg_free (s : State) (c r : Nat) (i : Word) (p : Prog) : (s.setProg c r i p).free = s.free := rfl
@[simp] theorem State.setProg_outs (s : State) (c r : Nat) (i : Word) (p : Prog) : (s.setProg c r i p).outs = s.outs := rfl
@[simp] theorem State.setProg_mem (s : State) (c r : Nat) (i : Word) (p : Prog) : (s.setProg c r i p).mem = s.mem := rfl
@[simp] theorem State.setProg_ueLines (s : State) (c r : Nat) (i : Word) (p : Prog) : (s.setProg c r i p).ueLines = s.ueLines := rfl
@[simp] theorem State.setProg_doms (s : State) (c r : Nat) (i : Word) (p : Prog) : (s.setProg c r i p).doms = s.doms := rfl
@[simp] theorem State.setProg_attaches (s : State) (c r : Nat) (i : Word) (p : Prog) : (s.setProg c r i p).attaches = s.attaches := rfl
@[simp] theorem State.setProg_tiles (s : State) (c r : Nat) (i : Word) (p : Prog) : (s.setProg c r i p).tiles = s.tiles := rfl
@[simp] theorem State.setProg_stks (s : State) (c r : Nat) (i : Word) (p : Prog) : (s.setProg c r i p).stks = s.stks := rfl
@[simp] theorem State.setProg_dimms (s : State) (c r : Nat) (i : Word) (p : Prog) : (s.setProg c r i p).dimms = s.dimms := rfl
@[simp] theorem State.setProg_sched (s : State) (c r : Nat) (i : Word) (p : Prog) : (s.setProg c r i p).sched = s.sched := rfl
@[simp] theorem State.setProg_models (s : State) (c r : Nat) (i : Word) (p : Prog) : (s.setProg c r i p).models = s.models := rfl
@[simp] theorem State.setProg_modelUse (s : State) (c r : Nat) (i : Word) (p : Prog) : (s.setProg c r i p).modelUse = s.modelUse := rfl
@[simp] theorem State.setProg_err (s : State) (c r : Nat) (i : Word) (p : Prog) : (s.setProg c r i p).err = s.err := rfl
@[simp] theorem State.setProg_boot (s : State) (c r : Nat) (i : Word) (p : Prog) : (s.setProg c r i p).boot = s.boot := rfl
@[simp] theorem State.setProg_blu (s : State) (c r : Nat) (i : Word) (p : Prog) : (s.setProg c r i p).blu = s.blu := rfl
@[simp] theorem State.setProg_sec (s : State) (c r : Nat) (i : Word) (p : Prog) : (s.setProg c r i p).sec = s.sec := rfl
@[simp] theorem State.setProg_pins (s : State) (c r : Nat) (i : Word) (p : Prog) : (s.setProg c r i p).pins = s.pins := rfl
@[simp] theorem State.setProg_formatting (s : State) (c r : Nat) (i : Word) (p : Prog) : (s.setProg c r i p).formatting = s.formatting := rfl
@[simp] theorem State.setProg_lnk (s : State) (c r : Nat) (i : Word) (p : Prog) : (s.setProg c r i p).lnk = s.lnk := rfl
@[simp] theorem State.setProg_pmt (s : State) (c r : Nat) (i : Word) (p : Prog) : (s.setProg c r i p).pmt = s.pmt := rfl
@[simp] theorem State.setProg_pwr (s : State) (c r : Nat) (i : Word) (p : Prog) : (s.setProg c r i p).pwr = s.pwr := rfl

@[simp] theorem State.startIssue_pending (s : State) (c : Nat) (d : Desc) : (s.startIssue c d).pending = s.pending := rfl
@[simp] theorem State.startIssue_free (s : State) (c : Nat) (d : Desc) : (s.startIssue c d).free = s.free := rfl
@[simp] theorem State.startIssue_outs (s : State) (c : Nat) (d : Desc) : (s.startIssue c d).outs = s.outs := rfl
@[simp] theorem State.startIssue_mem (s : State) (c : Nat) (d : Desc) : (s.startIssue c d).mem = s.mem := rfl
@[simp] theorem State.startIssue_ueLines (s : State) (c : Nat) (d : Desc) : (s.startIssue c d).ueLines = s.ueLines := rfl
@[simp] theorem State.startIssue_doms (s : State) (c : Nat) (d : Desc) : (s.startIssue c d).doms = s.doms := rfl
@[simp] theorem State.startIssue_attaches (s : State) (c : Nat) (d : Desc) : (s.startIssue c d).attaches = s.attaches := rfl
@[simp] theorem State.startIssue_tiles (s : State) (c : Nat) (d : Desc) : (s.startIssue c d).tiles = s.tiles := rfl
@[simp] theorem State.startIssue_stks (s : State) (c : Nat) (d : Desc) : (s.startIssue c d).stks = s.stks := rfl
@[simp] theorem State.startIssue_dimms (s : State) (c : Nat) (d : Desc) : (s.startIssue c d).dimms = s.dimms := rfl
@[simp] theorem State.startIssue_sched (s : State) (c : Nat) (d : Desc) : (s.startIssue c d).sched = s.sched := rfl
@[simp] theorem State.startIssue_models (s : State) (c : Nat) (d : Desc) : (s.startIssue c d).models = s.models := rfl
@[simp] theorem State.startIssue_modelUse (s : State) (c : Nat) (d : Desc) : (s.startIssue c d).modelUse = s.modelUse := rfl
@[simp] theorem State.startIssue_err (s : State) (c : Nat) (d : Desc) : (s.startIssue c d).err = s.err := rfl
@[simp] theorem State.startIssue_boot (s : State) (c : Nat) (d : Desc) : (s.startIssue c d).boot = s.boot := rfl
@[simp] theorem State.startIssue_blu (s : State) (c : Nat) (d : Desc) : (s.startIssue c d).blu = s.blu := rfl
@[simp] theorem State.startIssue_sec (s : State) (c : Nat) (d : Desc) : (s.startIssue c d).sec = s.sec := rfl
@[simp] theorem State.startIssue_pins (s : State) (c : Nat) (d : Desc) : (s.startIssue c d).pins = s.pins := rfl
@[simp] theorem State.startIssue_formatting (s : State) (c : Nat) (d : Desc) : (s.startIssue c d).formatting = s.formatting := rfl
@[simp] theorem State.startIssue_lnk (s : State) (c : Nat) (d : Desc) : (s.startIssue c d).lnk = s.lnk := rfl
@[simp] theorem State.startIssue_pmt (s : State) (c : Nat) (d : Desc) : (s.startIssue c d).pmt = s.pmt := rfl
@[simp] theorem State.startIssue_pwr (s : State) (c : Nat) (d : Desc) : (s.startIssue c d).pwr = s.pwr := rfl

@[simp] theorem State.modPt_pending (s : State) (t : Nat) (f : PwrTile → PwrTile) : (s.modPt t f).pending = s.pending := rfl
@[simp] theorem State.modPt_free (s : State) (t : Nat) (f : PwrTile → PwrTile) : (s.modPt t f).free = s.free := rfl
@[simp] theorem State.modPt_outs (s : State) (t : Nat) (f : PwrTile → PwrTile) : (s.modPt t f).outs = s.outs := rfl
@[simp] theorem State.modPt_mem (s : State) (t : Nat) (f : PwrTile → PwrTile) : (s.modPt t f).mem = s.mem := rfl
@[simp] theorem State.modPt_ueLines (s : State) (t : Nat) (f : PwrTile → PwrTile) : (s.modPt t f).ueLines = s.ueLines := rfl
@[simp] theorem State.modPt_ctxs (s : State) (t : Nat) (f : PwrTile → PwrTile) : (s.modPt t f).ctxs = s.ctxs := rfl
@[simp] theorem State.modPt_doms (s : State) (t : Nat) (f : PwrTile → PwrTile) : (s.modPt t f).doms = s.doms := rfl
@[simp] theorem State.modPt_attaches (s : State) (t : Nat) (f : PwrTile → PwrTile) : (s.modPt t f).attaches = s.attaches := rfl
@[simp] theorem State.modPt_tiles (s : State) (t : Nat) (f : PwrTile → PwrTile) : (s.modPt t f).tiles = s.tiles := rfl
@[simp] theorem State.modPt_stks (s : State) (t : Nat) (f : PwrTile → PwrTile) : (s.modPt t f).stks = s.stks := rfl
@[simp] theorem State.modPt_dimms (s : State) (t : Nat) (f : PwrTile → PwrTile) : (s.modPt t f).dimms = s.dimms := rfl
@[simp] theorem State.modPt_sched (s : State) (t : Nat) (f : PwrTile → PwrTile) : (s.modPt t f).sched = s.sched := rfl
@[simp] theorem State.modPt_models (s : State) (t : Nat) (f : PwrTile → PwrTile) : (s.modPt t f).models = s.models := rfl
@[simp] theorem State.modPt_modelUse (s : State) (t : Nat) (f : PwrTile → PwrTile) : (s.modPt t f).modelUse = s.modelUse := rfl
@[simp] theorem State.modPt_err (s : State) (t : Nat) (f : PwrTile → PwrTile) : (s.modPt t f).err = s.err := rfl
@[simp] theorem State.modPt_boot (s : State) (t : Nat) (f : PwrTile → PwrTile) : (s.modPt t f).boot = s.boot := rfl
@[simp] theorem State.modPt_blu (s : State) (t : Nat) (f : PwrTile → PwrTile) : (s.modPt t f).blu = s.blu := rfl
@[simp] theorem State.modPt_sec (s : State) (t : Nat) (f : PwrTile → PwrTile) : (s.modPt t f).sec = s.sec := rfl
@[simp] theorem State.modPt_pins (s : State) (t : Nat) (f : PwrTile → PwrTile) : (s.modPt t f).pins = s.pins := rfl
@[simp] theorem State.modPt_formatting (s : State) (t : Nat) (f : PwrTile → PwrTile) : (s.modPt t f).formatting = s.formatting := rfl
@[simp] theorem State.modPt_lnk (s : State) (t : Nat) (f : PwrTile → PwrTile) : (s.modPt t f).lnk = s.lnk := rfl
@[simp] theorem State.modPt_pmt (s : State) (t : Nat) (f : PwrTile → PwrTile) : (s.modPt t f).pmt = s.pmt := rfl

@[simp] theorem State.errLog_pending (s : State) (a b u e : Nat) (loc : DWord) (w : LogWho) : (s.errLog a b u e loc w).pending = s.pending := rfl
@[simp] theorem State.errLog_free (s : State) (a b u e : Nat) (loc : DWord) (w : LogWho) : (s.errLog a b u e loc w).free = s.free := rfl
@[simp] theorem State.errLog_outs (s : State) (a b u e : Nat) (loc : DWord) (w : LogWho) : (s.errLog a b u e loc w).outs = s.outs := rfl
@[simp] theorem State.errLog_mem (s : State) (a b u e : Nat) (loc : DWord) (w : LogWho) : (s.errLog a b u e loc w).mem = s.mem := rfl
@[simp] theorem State.errLog_ueLines (s : State) (a b u e : Nat) (loc : DWord) (w : LogWho) : (s.errLog a b u e loc w).ueLines = s.ueLines := rfl
@[simp] theorem State.errLog_ctxs (s : State) (a b u e : Nat) (loc : DWord) (w : LogWho) : (s.errLog a b u e loc w).ctxs = s.ctxs := rfl
@[simp] theorem State.errLog_doms (s : State) (a b u e : Nat) (loc : DWord) (w : LogWho) : (s.errLog a b u e loc w).doms = s.doms := rfl
@[simp] theorem State.errLog_attaches (s : State) (a b u e : Nat) (loc : DWord) (w : LogWho) : (s.errLog a b u e loc w).attaches = s.attaches := rfl
@[simp] theorem State.errLog_tiles (s : State) (a b u e : Nat) (loc : DWord) (w : LogWho) : (s.errLog a b u e loc w).tiles = s.tiles := rfl
@[simp] theorem State.errLog_stks (s : State) (a b u e : Nat) (loc : DWord) (w : LogWho) : (s.errLog a b u e loc w).stks = s.stks := rfl
@[simp] theorem State.errLog_dimms (s : State) (a b u e : Nat) (loc : DWord) (w : LogWho) : (s.errLog a b u e loc w).dimms = s.dimms := rfl
@[simp] theorem State.errLog_sched (s : State) (a b u e : Nat) (loc : DWord) (w : LogWho) : (s.errLog a b u e loc w).sched = s.sched := rfl
@[simp] theorem State.errLog_models (s : State) (a b u e : Nat) (loc : DWord) (w : LogWho) : (s.errLog a b u e loc w).models = s.models := rfl
@[simp] theorem State.errLog_modelUse (s : State) (a b u e : Nat) (loc : DWord) (w : LogWho) : (s.errLog a b u e loc w).modelUse = s.modelUse := rfl
@[simp] theorem State.errLog_boot (s : State) (a b u e : Nat) (loc : DWord) (w : LogWho) : (s.errLog a b u e loc w).boot = s.boot := rfl
@[simp] theorem State.errLog_blu (s : State) (a b u e : Nat) (loc : DWord) (w : LogWho) : (s.errLog a b u e loc w).blu = s.blu := rfl
@[simp] theorem State.errLog_sec (s : State) (a b u e : Nat) (loc : DWord) (w : LogWho) : (s.errLog a b u e loc w).sec = s.sec := rfl
@[simp] theorem State.errLog_formatting (s : State) (a b u e : Nat) (loc : DWord) (w : LogWho) : (s.errLog a b u e loc w).formatting = s.formatting := rfl
@[simp] theorem State.errLog_lnk (s : State) (a b u e : Nat) (loc : DWord) (w : LogWho) : (s.errLog a b u e loc w).lnk = s.lnk := rfl
@[simp] theorem State.errLog_pmt (s : State) (a b u e : Nat) (loc : DWord) (w : LogWho) : (s.errLog a b u e loc w).pmt = s.pmt := rfl
@[simp] theorem State.errLog_pwr (s : State) (a b u e : Nat) (loc : DWord) (w : LogWho) : (s.errLog a b u e loc w).pwr = s.pwr := rfl

/-! ### The unit that an update changes, and the others -/

@[simp] theorem State.ctx_modCtx_same (s : State) (k : Nat) (f : Ctx → Ctx) : (s.modCtx k f).ctx k = f (s.ctx k) :=
  tget_tput_same _ _ _ _
theorem State.ctx_modCtx_other (s : State) (k j : Nat) (f : Ctx → Ctx) (h : j ≠ k) : (s.modCtx k f).ctx j = s.ctx j :=
  tget_tput_other _ _ _ _ _ h
@[simp] theorem State.dom_modDom_same (s : State) (k : Nat) (f : Dom → Dom) : (s.modDom k f).dom k = f (s.dom k) :=
  tget_tput_same _ _ _ _
theorem State.dom_modDom_other (s : State) (k j : Nat) (f : Dom → Dom) (h : j ≠ k) : (s.modDom k f).dom j = s.dom j :=
  tget_tput_other _ _ _ _ _ h
@[simp] theorem State.att_modAtt_same (s : State) (k : Nat) (f : Attach → Attach) : (s.modAtt k f).att k = f (s.att k) :=
  tget_tput_same _ _ _ _
theorem State.att_modAtt_other (s : State) (k j : Nat) (f : Attach → Attach) (h : j ≠ k) : (s.modAtt k f).att j = s.att j :=
  tget_tput_other _ _ _ _ _ h
@[simp] theorem State.tile_modTile_same (s : State) (k : Nat) (f : Tile → Tile) : (s.modTile k f).tile k = f (s.tile k) :=
  tget_tput_same _ _ _ _
theorem State.tile_modTile_other (s : State) (k j : Nat) (f : Tile → Tile) (h : j ≠ k) : (s.modTile k f).tile j = s.tile j :=
  tget_tput_other _ _ _ _ _ h
@[simp] theorem State.stack_modStack_same (s : State) (k : Nat) (f : Stack → Stack) : (s.modStack k f).stack k = f (s.stack k) :=
  tget_tput_same _ _ _ _
theorem State.stack_modStack_other (s : State) (k j : Nat) (f : Stack → Stack) (h : j ≠ k) : (s.modStack k f).stack j = s.stack j :=
  tget_tput_other _ _ _ _ _ h
@[simp] theorem State.dimm_modDimm_same (s : State) (k : Nat) (f : Dimm → Dimm) : (s.modDimm k f).dimm k = f (s.dimm k) :=
  tget_tput_same _ _ _ _
theorem State.dimm_modDimm_other (s : State) (k j : Nat) (f : Dimm → Dimm) (h : j ≠ k) : (s.modDimm k f).dimm j = s.dimm j :=
  tget_tput_other _ _ _ _ _ h
@[simp] theorem State.model_modModel_same (s : State) (k : Nat) (f : ModelSlot → ModelSlot) : (s.modModel k f).model k = f (s.model k) :=
  tget_tput_same _ _ _ _
theorem State.model_modModel_other (s : State) (k j : Nat) (f : ModelSlot → ModelSlot) (h : j ≠ k) : (s.modModel k f).model j = s.model j :=
  tget_tput_other _ _ _ _ _ h
@[simp] theorem State.port_modPort_same (s : State) (k : Nat) (f : Port → Port) : (s.modPort k f).port k = f (s.port k) :=
  tget_tput_same _ _ _ _
theorem State.port_modPort_other (s : State) (k j : Nat) (f : Port → Port) (h : j ≠ k) : (s.modPort k f).port j = s.port j :=
  tget_tput_other _ _ _ _ _ h
@[simp] theorem State.pdev_modPdev_same (s : State) (k : Nat) (f : PmtDev → PmtDev) : (s.modPdev k f).pdev k = f (s.pdev k) :=
  tget_tput_same _ _ _ _
theorem State.pdev_modPdev_other (s : State) (k j : Nat) (f : PmtDev → PmtDev) (h : j ≠ k) : (s.modPdev k f).pdev j = s.pdev j :=
  tget_tput_other _ _ _ _ _ h
@[simp] theorem State.pdie_modPdie_same (s : State) (k : Nat) (f : PmtDie → PmtDie) : (s.modPdie k f).pdie k = f (s.pdie k) :=
  tget_tput_same _ _ _ _

@[simp] theorem State.dom_modCtx (s : State) (c : Nat) (f : Ctx → Ctx) (k_ : Nat) : (s.modCtx c f).dom k_ = s.dom k_ := rfl
@[simp] theorem State.att_modCtx (s : State) (c : Nat) (f : Ctx → Ctx) (k_ : Nat) : (s.modCtx c f).att k_ = s.att k_ := rfl
@[simp] theorem State.tile_modCtx (s : State) (c : Nat) (f : Ctx → Ctx) (k_ : Nat) : (s.modCtx c f).tile k_ = s.tile k_ := rfl
@[simp] theorem State.stack_modCtx (s : State) (c : Nat) (f : Ctx → Ctx) (k_ : Nat) : (s.modCtx c f).stack k_ = s.stack k_ := rfl
@[simp] theorem State.dimm_modCtx (s : State) (c : Nat) (f : Ctx → Ctx) (k_ : Nat) : (s.modCtx c f).dimm k_ = s.dimm k_ := rfl
@[simp] theorem State.model_modCtx (s : State) (c : Nat) (f : Ctx → Ctx) (k_ : Nat) : (s.modCtx c f).model k_ = s.model k_ := rfl
@[simp] theorem State.port_modCtx (s : State) (c : Nat) (f : Ctx → Ctx) (k_ : Nat) : (s.modCtx c f).port k_ = s.port k_ := rfl
@[simp] theorem State.pdev_modCtx (s : State) (c : Nat) (f : Ctx → Ctx) (k_ : Nat) : (s.modCtx c f).pdev k_ = s.pdev k_ := rfl
@[simp] theorem State.pdie_modCtx (s : State) (c : Nat) (f : Ctx → Ctx) (k_ : Nat) : (s.modCtx c f).pdie k_ = s.pdie k_ := rfl

@[simp] theorem State.ctx_modDom (s : State) (h : Nat) (f : Dom → Dom) (k_ : Nat) : (s.modDom h f).ctx k_ = s.ctx k_ := rfl
@[simp] theorem State.att_modDom (s : State) (h : Nat) (f : Dom → Dom) (k_ : Nat) : (s.modDom h f).att k_ = s.att k_ := rfl
@[simp] theorem State.tile_modDom (s : State) (h : Nat) (f : Dom → Dom) (k_ : Nat) : (s.modDom h f).tile k_ = s.tile k_ := rfl
@[simp] theorem State.stack_modDom (s : State) (h : Nat) (f : Dom → Dom) (k_ : Nat) : (s.modDom h f).stack k_ = s.stack k_ := rfl
@[simp] theorem State.dimm_modDom (s : State) (h : Nat) (f : Dom → Dom) (k_ : Nat) : (s.modDom h f).dimm k_ = s.dimm k_ := rfl
@[simp] theorem State.model_modDom (s : State) (h : Nat) (f : Dom → Dom) (k_ : Nat) : (s.modDom h f).model k_ = s.model k_ := rfl
@[simp] theorem State.port_modDom (s : State) (h : Nat) (f : Dom → Dom) (k_ : Nat) : (s.modDom h f).port k_ = s.port k_ := rfl
@[simp] theorem State.pdev_modDom (s : State) (h : Nat) (f : Dom → Dom) (k_ : Nat) : (s.modDom h f).pdev k_ = s.pdev k_ := rfl
@[simp] theorem State.pdie_modDom (s : State) (h : Nat) (f : Dom → Dom) (k_ : Nat) : (s.modDom h f).pdie k_ = s.pdie k_ := rfl

@[simp] theorem State.ctx_modAtt (s : State) (i : Nat) (f : Attach → Attach) (k_ : Nat) : (s.modAtt i f).ctx k_ = s.ctx k_ := rfl
@[simp] theorem State.dom_modAtt (s : State) (i : Nat) (f : Attach → Attach) (k_ : Nat) : (s.modAtt i f).dom k_ = s.dom k_ := rfl
@[simp] theorem State.tile_modAtt (s : State) (i : Nat) (f : Attach → Attach) (k_ : Nat) : (s.modAtt i f).tile k_ = s.tile k_ := rfl
@[simp] theorem State.stack_modAtt (s : State) (i : Nat) (f : Attach → Attach) (k_ : Nat) : (s.modAtt i f).stack k_ = s.stack k_ := rfl
@[simp] theorem State.dimm_modAtt (s : State) (i : Nat) (f : Attach → Attach) (k_ : Nat) : (s.modAtt i f).dimm k_ = s.dimm k_ := rfl
@[simp] theorem State.model_modAtt (s : State) (i : Nat) (f : Attach → Attach) (k_ : Nat) : (s.modAtt i f).model k_ = s.model k_ := rfl
@[simp] theorem State.port_modAtt (s : State) (i : Nat) (f : Attach → Attach) (k_ : Nat) : (s.modAtt i f).port k_ = s.port k_ := rfl
@[simp] theorem State.pdev_modAtt (s : State) (i : Nat) (f : Attach → Attach) (k_ : Nat) : (s.modAtt i f).pdev k_ = s.pdev k_ := rfl
@[simp] theorem State.pdie_modAtt (s : State) (i : Nat) (f : Attach → Attach) (k_ : Nat) : (s.modAtt i f).pdie k_ = s.pdie k_ := rfl

@[simp] theorem State.ctx_modTile (s : State) (k : Nat) (f : Tile → Tile) (k_ : Nat) : (s.modTile k f).ctx k_ = s.ctx k_ := rfl
@[simp] theorem State.dom_modTile (s : State) (k : Nat) (f : Tile → Tile) (k_ : Nat) : (s.modTile k f).dom k_ = s.dom k_ := rfl
@[simp] theorem State.att_modTile (s : State) (k : Nat) (f : Tile → Tile) (k_ : Nat) : (s.modTile k f).att k_ = s.att k_ := rfl
@[simp] theorem State.stack_modTile (s : State) (k : Nat) (f : Tile → Tile) (k_ : Nat) : (s.modTile k f).stack k_ = s.stack k_ := rfl
@[simp] theorem State.dimm_modTile (s : State) (k : Nat) (f : Tile → Tile) (k_ : Nat) : (s.modTile k f).dimm k_ = s.dimm k_ := rfl
@[simp] theorem State.model_modTile (s : State) (k : Nat) (f : Tile → Tile) (k_ : Nat) : (s.modTile k f).model k_ = s.model k_ := rfl
@[simp] theorem State.port_modTile (s : State) (k : Nat) (f : Tile → Tile) (k_ : Nat) : (s.modTile k f).port k_ = s.port k_ := rfl
@[simp] theorem State.pdev_modTile (s : State) (k : Nat) (f : Tile → Tile) (k_ : Nat) : (s.modTile k f).pdev k_ = s.pdev k_ := rfl
@[simp] theorem State.pdie_modTile (s : State) (k : Nat) (f : Tile → Tile) (k_ : Nat) : (s.modTile k f).pdie k_ = s.pdie k_ := rfl

@[simp] theorem State.ctx_modStack (s : State) (n : Nat) (f : Stack → Stack) (k_ : Nat) : (s.modStack n f).ctx k_ = s.ctx k_ := rfl
@[simp] theorem State.dom_modStack (s : State) (n : Nat) (f : Stack → Stack) (k_ : Nat) : (s.modStack n f).dom k_ = s.dom k_ := rfl
@[simp] theorem State.att_modStack (s : State) (n : Nat) (f : Stack → Stack) (k_ : Nat) : (s.modStack n f).att k_ = s.att k_ := rfl
@[simp] theorem State.tile_modStack (s : State) (n : Nat) (f : Stack → Stack) (k_ : Nat) : (s.modStack n f).tile k_ = s.tile k_ := rfl
@[simp] theorem State.dimm_modStack (s : State) (n : Nat) (f : Stack → Stack) (k_ : Nat) : (s.modStack n f).dimm k_ = s.dimm k_ := rfl
@[simp] theorem State.model_modStack (s : State) (n : Nat) (f : Stack → Stack) (k_ : Nat) : (s.modStack n f).model k_ = s.model k_ := rfl
@[simp] theorem State.port_modStack (s : State) (n : Nat) (f : Stack → Stack) (k_ : Nat) : (s.modStack n f).port k_ = s.port k_ := rfl
@[simp] theorem State.pdev_modStack (s : State) (n : Nat) (f : Stack → Stack) (k_ : Nat) : (s.modStack n f).pdev k_ = s.pdev k_ := rfl
@[simp] theorem State.pdie_modStack (s : State) (n : Nat) (f : Stack → Stack) (k_ : Nat) : (s.modStack n f).pdie k_ = s.pdie k_ := rfl

@[simp] theorem State.ctx_modDimm (s : State) (n : Nat) (f : Dimm → Dimm) (k_ : Nat) : (s.modDimm n f).ctx k_ = s.ctx k_ := rfl
@[simp] theorem State.dom_modDimm (s : State) (n : Nat) (f : Dimm → Dimm) (k_ : Nat) : (s.modDimm n f).dom k_ = s.dom k_ := rfl
@[simp] theorem State.att_modDimm (s : State) (n : Nat) (f : Dimm → Dimm) (k_ : Nat) : (s.modDimm n f).att k_ = s.att k_ := rfl
@[simp] theorem State.tile_modDimm (s : State) (n : Nat) (f : Dimm → Dimm) (k_ : Nat) : (s.modDimm n f).tile k_ = s.tile k_ := rfl
@[simp] theorem State.stack_modDimm (s : State) (n : Nat) (f : Dimm → Dimm) (k_ : Nat) : (s.modDimm n f).stack k_ = s.stack k_ := rfl
@[simp] theorem State.model_modDimm (s : State) (n : Nat) (f : Dimm → Dimm) (k_ : Nat) : (s.modDimm n f).model k_ = s.model k_ := rfl
@[simp] theorem State.port_modDimm (s : State) (n : Nat) (f : Dimm → Dimm) (k_ : Nat) : (s.modDimm n f).port k_ = s.port k_ := rfl
@[simp] theorem State.pdev_modDimm (s : State) (n : Nat) (f : Dimm → Dimm) (k_ : Nat) : (s.modDimm n f).pdev k_ = s.pdev k_ := rfl
@[simp] theorem State.pdie_modDimm (s : State) (n : Nat) (f : Dimm → Dimm) (k_ : Nat) : (s.modDimm n f).pdie k_ = s.pdie k_ := rfl

@[simp] theorem State.ctx_modModel (s : State) (i : Nat) (f : ModelSlot → ModelSlot) (k_ : Nat) : (s.modModel i f).ctx k_ = s.ctx k_ := rfl
@[simp] theorem State.dom_modModel (s : State) (i : Nat) (f : ModelSlot → ModelSlot) (k_ : Nat) : (s.modModel i f).dom k_ = s.dom k_ := rfl
@[simp] theorem State.att_modModel (s : State) (i : Nat) (f : ModelSlot → ModelSlot) (k_ : Nat) : (s.modModel i f).att k_ = s.att k_ := rfl
@[simp] theorem State.tile_modModel (s : State) (i : Nat) (f : ModelSlot → ModelSlot) (k_ : Nat) : (s.modModel i f).tile k_ = s.tile k_ := rfl
@[simp] theorem State.stack_modModel (s : State) (i : Nat) (f : ModelSlot → ModelSlot) (k_ : Nat) : (s.modModel i f).stack k_ = s.stack k_ := rfl
@[simp] theorem State.dimm_modModel (s : State) (i : Nat) (f : ModelSlot → ModelSlot) (k_ : Nat) : (s.modModel i f).dimm k_ = s.dimm k_ := rfl
@[simp] theorem State.port_modModel (s : State) (i : Nat) (f : ModelSlot → ModelSlot) (k_ : Nat) : (s.modModel i f).port k_ = s.port k_ := rfl
@[simp] theorem State.pdev_modModel (s : State) (i : Nat) (f : ModelSlot → ModelSlot) (k_ : Nat) : (s.modModel i f).pdev k_ = s.pdev k_ := rfl
@[simp] theorem State.pdie_modModel (s : State) (i : Nat) (f : ModelSlot → ModelSlot) (k_ : Nat) : (s.modModel i f).pdie k_ = s.pdie k_ := rfl

@[simp] theorem State.ctx_modPort (s : State) (p : Nat) (f : Port → Port) (k_ : Nat) : (s.modPort p f).ctx k_ = s.ctx k_ := rfl
@[simp] theorem State.dom_modPort (s : State) (p : Nat) (f : Port → Port) (k_ : Nat) : (s.modPort p f).dom k_ = s.dom k_ := rfl
@[simp] theorem State.att_modPort (s : State) (p : Nat) (f : Port → Port) (k_ : Nat) : (s.modPort p f).att k_ = s.att k_ := rfl
@[simp] theorem State.tile_modPort (s : State) (p : Nat) (f : Port → Port) (k_ : Nat) : (s.modPort p f).tile k_ = s.tile k_ := rfl
@[simp] theorem State.stack_modPort (s : State) (p : Nat) (f : Port → Port) (k_ : Nat) : (s.modPort p f).stack k_ = s.stack k_ := rfl
@[simp] theorem State.dimm_modPort (s : State) (p : Nat) (f : Port → Port) (k_ : Nat) : (s.modPort p f).dimm k_ = s.dimm k_ := rfl
@[simp] theorem State.model_modPort (s : State) (p : Nat) (f : Port → Port) (k_ : Nat) : (s.modPort p f).model k_ = s.model k_ := rfl
@[simp] theorem State.pdev_modPort (s : State) (p : Nat) (f : Port → Port) (k_ : Nat) : (s.modPort p f).pdev k_ = s.pdev k_ := rfl
@[simp] theorem State.pdie_modPort (s : State) (p : Nat) (f : Port → Port) (k_ : Nat) : (s.modPort p f).pdie k_ = s.pdie k_ := rfl

@[simp] theorem State.ctx_modLnk (s : State) (f : Links → Links) (k_ : Nat) : (s.modLnk f).ctx k_ = s.ctx k_ := rfl
@[simp] theorem State.dom_modLnk (s : State) (f : Links → Links) (k_ : Nat) : (s.modLnk f).dom k_ = s.dom k_ := rfl
@[simp] theorem State.att_modLnk (s : State) (f : Links → Links) (k_ : Nat) : (s.modLnk f).att k_ = s.att k_ := rfl
@[simp] theorem State.tile_modLnk (s : State) (f : Links → Links) (k_ : Nat) : (s.modLnk f).tile k_ = s.tile k_ := rfl
@[simp] theorem State.stack_modLnk (s : State) (f : Links → Links) (k_ : Nat) : (s.modLnk f).stack k_ = s.stack k_ := rfl
@[simp] theorem State.dimm_modLnk (s : State) (f : Links → Links) (k_ : Nat) : (s.modLnk f).dimm k_ = s.dimm k_ := rfl
@[simp] theorem State.model_modLnk (s : State) (f : Links → Links) (k_ : Nat) : (s.modLnk f).model k_ = s.model k_ := rfl
@[simp] theorem State.pdev_modLnk (s : State) (f : Links → Links) (k_ : Nat) : (s.modLnk f).pdev k_ = s.pdev k_ := rfl
@[simp] theorem State.pdie_modLnk (s : State) (f : Links → Links) (k_ : Nat) : (s.modLnk f).pdie k_ = s.pdie k_ := rfl

@[simp] theorem State.ctx_modPmt (s : State) (f : Pmt → Pmt) (k_ : Nat) : (s.modPmt f).ctx k_ = s.ctx k_ := rfl
@[simp] theorem State.dom_modPmt (s : State) (f : Pmt → Pmt) (k_ : Nat) : (s.modPmt f).dom k_ = s.dom k_ := rfl
@[simp] theorem State.att_modPmt (s : State) (f : Pmt → Pmt) (k_ : Nat) : (s.modPmt f).att k_ = s.att k_ := rfl
@[simp] theorem State.tile_modPmt (s : State) (f : Pmt → Pmt) (k_ : Nat) : (s.modPmt f).tile k_ = s.tile k_ := rfl
@[simp] theorem State.stack_modPmt (s : State) (f : Pmt → Pmt) (k_ : Nat) : (s.modPmt f).stack k_ = s.stack k_ := rfl
@[simp] theorem State.dimm_modPmt (s : State) (f : Pmt → Pmt) (k_ : Nat) : (s.modPmt f).dimm k_ = s.dimm k_ := rfl
@[simp] theorem State.model_modPmt (s : State) (f : Pmt → Pmt) (k_ : Nat) : (s.modPmt f).model k_ = s.model k_ := rfl
@[simp] theorem State.port_modPmt (s : State) (f : Pmt → Pmt) (k_ : Nat) : (s.modPmt f).port k_ = s.port k_ := rfl

@[simp] theorem State.ctx_modPdev (s : State) (n : Nat) (f : PmtDev → PmtDev) (k_ : Nat) : (s.modPdev n f).ctx k_ = s.ctx k_ := rfl
@[simp] theorem State.dom_modPdev (s : State) (n : Nat) (f : PmtDev → PmtDev) (k_ : Nat) : (s.modPdev n f).dom k_ = s.dom k_ := rfl
@[simp] theorem State.att_modPdev (s : State) (n : Nat) (f : PmtDev → PmtDev) (k_ : Nat) : (s.modPdev n f).att k_ = s.att k_ := rfl
@[simp] theorem State.tile_modPdev (s : State) (n : Nat) (f : PmtDev → PmtDev) (k_ : Nat) : (s.modPdev n f).tile k_ = s.tile k_ := rfl
@[simp] theorem State.stack_modPdev (s : State) (n : Nat) (f : PmtDev → PmtDev) (k_ : Nat) : (s.modPdev n f).stack k_ = s.stack k_ := rfl
@[simp] theorem State.dimm_modPdev (s : State) (n : Nat) (f : PmtDev → PmtDev) (k_ : Nat) : (s.modPdev n f).dimm k_ = s.dimm k_ := rfl
@[simp] theorem State.model_modPdev (s : State) (n : Nat) (f : PmtDev → PmtDev) (k_ : Nat) : (s.modPdev n f).model k_ = s.model k_ := rfl
@[simp] theorem State.port_modPdev (s : State) (n : Nat) (f : PmtDev → PmtDev) (k_ : Nat) : (s.modPdev n f).port k_ = s.port k_ := rfl

@[simp] theorem State.ctx_modPdie (s : State) (n : Nat) (f : PmtDie → PmtDie) (k_ : Nat) : (s.modPdie n f).ctx k_ = s.ctx k_ := rfl
@[simp] theorem State.dom_modPdie (s : State) (n : Nat) (f : PmtDie → PmtDie) (k_ : Nat) : (s.modPdie n f).dom k_ = s.dom k_ := rfl
@[simp] theorem State.att_modPdie (s : State) (n : Nat) (f : PmtDie → PmtDie) (k_ : Nat) : (s.modPdie n f).att k_ = s.att k_ := rfl
@[simp] theorem State.tile_modPdie (s : State) (n : Nat) (f : PmtDie → PmtDie) (k_ : Nat) : (s.modPdie n f).tile k_ = s.tile k_ := rfl
@[simp] theorem State.stack_modPdie (s : State) (n : Nat) (f : PmtDie → PmtDie) (k_ : Nat) : (s.modPdie n f).stack k_ = s.stack k_ := rfl
@[simp] theorem State.dimm_modPdie (s : State) (n : Nat) (f : PmtDie → PmtDie) (k_ : Nat) : (s.modPdie n f).dimm k_ = s.dimm k_ := rfl
@[simp] theorem State.model_modPdie (s : State) (n : Nat) (f : PmtDie → PmtDie) (k_ : Nat) : (s.modPdie n f).model k_ = s.model k_ := rfl
@[simp] theorem State.port_modPdie (s : State) (n : Nat) (f : PmtDie → PmtDie) (k_ : Nat) : (s.modPdie n f).port k_ = s.port k_ := rfl

@[simp] theorem State.ctx_modPwr (s : State) (f : Power → Power) (k_ : Nat) : (s.modPwr f).ctx k_ = s.ctx k_ := rfl
@[simp] theorem State.dom_modPwr (s : State) (f : Power → Power) (k_ : Nat) : (s.modPwr f).dom k_ = s.dom k_ := rfl
@[simp] theorem State.att_modPwr (s : State) (f : Power → Power) (k_ : Nat) : (s.modPwr f).att k_ = s.att k_ := rfl
@[simp] theorem State.tile_modPwr (s : State) (f : Power → Power) (k_ : Nat) : (s.modPwr f).tile k_ = s.tile k_ := rfl
@[simp] theorem State.stack_modPwr (s : State) (f : Power → Power) (k_ : Nat) : (s.modPwr f).stack k_ = s.stack k_ := rfl
@[simp] theorem State.dimm_modPwr (s : State) (f : Power → Power) (k_ : Nat) : (s.modPwr f).dimm k_ = s.dimm k_ := rfl
@[simp] theorem State.model_modPwr (s : State) (f : Power → Power) (k_ : Nat) : (s.modPwr f).model k_ = s.model k_ := rfl
@[simp] theorem State.port_modPwr (s : State) (f : Power → Power) (k_ : Nat) : (s.modPwr f).port k_ = s.port k_ := rfl
@[simp] theorem State.pdev_modPwr (s : State) (f : Power → Power) (k_ : Nat) : (s.modPwr f).pdev k_ = s.pdev k_ := rfl
@[simp] theorem State.pdie_modPwr (s : State) (f : Power → Power) (k_ : Nat) : (s.modPwr f).pdie k_ = s.pdie k_ := rfl

@[simp] theorem State.ctx_modCyc (s : State) (f : Cyclic → Cyclic) (k_ : Nat) : (s.modCyc f).ctx k_ = s.ctx k_ := rfl
@[simp] theorem State.dom_modCyc (s : State) (f : Cyclic → Cyclic) (k_ : Nat) : (s.modCyc f).dom k_ = s.dom k_ := rfl
@[simp] theorem State.att_modCyc (s : State) (f : Cyclic → Cyclic) (k_ : Nat) : (s.modCyc f).att k_ = s.att k_ := rfl
@[simp] theorem State.tile_modCyc (s : State) (f : Cyclic → Cyclic) (k_ : Nat) : (s.modCyc f).tile k_ = s.tile k_ := rfl
@[simp] theorem State.stack_modCyc (s : State) (f : Cyclic → Cyclic) (k_ : Nat) : (s.modCyc f).stack k_ = s.stack k_ := rfl
@[simp] theorem State.dimm_modCyc (s : State) (f : Cyclic → Cyclic) (k_ : Nat) : (s.modCyc f).dimm k_ = s.dimm k_ := rfl
@[simp] theorem State.model_modCyc (s : State) (f : Cyclic → Cyclic) (k_ : Nat) : (s.modCyc f).model k_ = s.model k_ := rfl
@[simp] theorem State.port_modCyc (s : State) (f : Cyclic → Cyclic) (k_ : Nat) : (s.modCyc f).port k_ = s.port k_ := rfl
@[simp] theorem State.pdev_modCyc (s : State) (f : Cyclic → Cyclic) (k_ : Nat) : (s.modCyc f).pdev k_ = s.pdev k_ := rfl
@[simp] theorem State.pdie_modCyc (s : State) (f : Cyclic → Cyclic) (k_ : Nat) : (s.modCyc f).pdie k_ = s.pdie k_ := rfl

@[simp] theorem State.ctx_emit (s : State) (o : Out) (k_ : Nat) : (s.emit o).ctx k_ = s.ctx k_ := rfl
@[simp] theorem State.dom_emit (s : State) (o : Out) (k_ : Nat) : (s.emit o).dom k_ = s.dom k_ := rfl
@[simp] theorem State.att_emit (s : State) (o : Out) (k_ : Nat) : (s.emit o).att k_ = s.att k_ := rfl
@[simp] theorem State.tile_emit (s : State) (o : Out) (k_ : Nat) : (s.emit o).tile k_ = s.tile k_ := rfl
@[simp] theorem State.stack_emit (s : State) (o : Out) (k_ : Nat) : (s.emit o).stack k_ = s.stack k_ := rfl
@[simp] theorem State.dimm_emit (s : State) (o : Out) (k_ : Nat) : (s.emit o).dimm k_ = s.dimm k_ := rfl
@[simp] theorem State.model_emit (s : State) (o : Out) (k_ : Nat) : (s.emit o).model k_ = s.model k_ := rfl
@[simp] theorem State.port_emit (s : State) (o : Out) (k_ : Nat) : (s.emit o).port k_ = s.port k_ := rfl
@[simp] theorem State.pdev_emit (s : State) (o : Out) (k_ : Nat) : (s.emit o).pdev k_ = s.pdev k_ := rfl
@[simp] theorem State.pdie_emit (s : State) (o : Out) (k_ : Nat) : (s.emit o).pdie k_ = s.pdie k_ := rfl

@[simp] theorem State.ctx_tick (s : State) (k_ : Nat) : s.tick.ctx k_ = s.ctx k_ := rfl
@[simp] theorem State.dom_tick (s : State) (k_ : Nat) : s.tick.dom k_ = s.dom k_ := rfl
@[simp] theorem State.att_tick (s : State) (k_ : Nat) : s.tick.att k_ = s.att k_ := rfl
@[simp] theorem State.tile_tick (s : State) (k_ : Nat) : s.tick.tile k_ = s.tile k_ := rfl
@[simp] theorem State.stack_tick (s : State) (k_ : Nat) : s.tick.stack k_ = s.stack k_ := rfl
@[simp] theorem State.dimm_tick (s : State) (k_ : Nat) : s.tick.dimm k_ = s.dimm k_ := rfl
@[simp] theorem State.model_tick (s : State) (k_ : Nat) : s.tick.model k_ = s.model k_ := rfl
@[simp] theorem State.port_tick (s : State) (k_ : Nat) : s.tick.port k_ = s.port k_ := rfl
@[simp] theorem State.pdev_tick (s : State) (k_ : Nat) : s.tick.pdev k_ = s.pdev k_ := rfl
@[simp] theorem State.pdie_tick (s : State) (k_ : Nat) : s.tick.pdie k_ = s.pdie k_ := rfl

@[simp] theorem State.dom_modRing (s : State) (c k : Nat) (f : Ring → Ring) (k_ : Nat) : (s.modRing c k f).dom k_ = s.dom k_ := rfl
@[simp] theorem State.att_modRing (s : State) (c k : Nat) (f : Ring → Ring) (k_ : Nat) : (s.modRing c k f).att k_ = s.att k_ := rfl
@[simp] theorem State.tile_modRing (s : State) (c k : Nat) (f : Ring → Ring) (k_ : Nat) : (s.modRing c k f).tile k_ = s.tile k_ := rfl
@[simp] theorem State.stack_modRing (s : State) (c k : Nat) (f : Ring → Ring) (k_ : Nat) : (s.modRing c k f).stack k_ = s.stack k_ := rfl
@[simp] theorem State.dimm_modRing (s : State) (c k : Nat) (f : Ring → Ring) (k_ : Nat) : (s.modRing c k f).dimm k_ = s.dimm k_ := rfl
@[simp] theorem State.model_modRing (s : State) (c k : Nat) (f : Ring → Ring) (k_ : Nat) : (s.modRing c k f).model k_ = s.model k_ := rfl
@[simp] theorem State.port_modRing (s : State) (c k : Nat) (f : Ring → Ring) (k_ : Nat) : (s.modRing c k f).port k_ = s.port k_ := rfl
@[simp] theorem State.pdev_modRing (s : State) (c k : Nat) (f : Ring → Ring) (k_ : Nat) : (s.modRing c k f).pdev k_ = s.pdev k_ := rfl
@[simp] theorem State.pdie_modRing (s : State) (c k : Nat) (f : Ring → Ring) (k_ : Nat) : (s.modRing c k f).pdie k_ = s.pdie k_ := rfl

@[simp] theorem State.dom_modSeat (s : State) (c t q : Nat) (f : Seat → Seat) (k_ : Nat) : (s.modSeat c t q f).dom k_ = s.dom k_ := rfl
@[simp] theorem State.att_modSeat (s : State) (c t q : Nat) (f : Seat → Seat) (k_ : Nat) : (s.modSeat c t q f).att k_ = s.att k_ := rfl
@[simp] theorem State.tile_modSeat (s : State) (c t q : Nat) (f : Seat → Seat) (k_ : Nat) : (s.modSeat c t q f).tile k_ = s.tile k_ := rfl
@[simp] theorem State.stack_modSeat (s : State) (c t q : Nat) (f : Seat → Seat) (k_ : Nat) : (s.modSeat c t q f).stack k_ = s.stack k_ := rfl
@[simp] theorem State.dimm_modSeat (s : State) (c t q : Nat) (f : Seat → Seat) (k_ : Nat) : (s.modSeat c t q f).dimm k_ = s.dimm k_ := rfl
@[simp] theorem State.model_modSeat (s : State) (c t q : Nat) (f : Seat → Seat) (k_ : Nat) : (s.modSeat c t q f).model k_ = s.model k_ := rfl
@[simp] theorem State.port_modSeat (s : State) (c t q : Nat) (f : Seat → Seat) (k_ : Nat) : (s.modSeat c t q f).port k_ = s.port k_ := rfl
@[simp] theorem State.pdev_modSeat (s : State) (c t q : Nat) (f : Seat → Seat) (k_ : Nat) : (s.modSeat c t q f).pdev k_ = s.pdev k_ := rfl
@[simp] theorem State.pdie_modSeat (s : State) (c t q : Nat) (f : Seat → Seat) (k_ : Nat) : (s.modSeat c t q f).pdie k_ = s.pdie k_ := rfl

@[simp] theorem State.dom_modDesc (s : State) (c r : Nat) (i : Word) (f : Desc → Desc) (k_ : Nat) : (s.modDesc c r i f).dom k_ = s.dom k_ := rfl
@[simp] theorem State.att_modDesc (s : State) (c r : Nat) (i : Word) (f : Desc → Desc) (k_ : Nat) : (s.modDesc c r i f).att k_ = s.att k_ := rfl
@[simp] theorem State.tile_modDesc (s : State) (c r : Nat) (i : Word) (f : Desc → Desc) (k_ : Nat) : (s.modDesc c r i f).tile k_ = s.tile k_ := rfl
@[simp] theorem State.stack_modDesc (s : State) (c r : Nat) (i : Word) (f : Desc → Desc) (k_ : Nat) : (s.modDesc c r i f).stack k_ = s.stack k_ := rfl
@[simp] theorem State.dimm_modDesc (s : State) (c r : Nat) (i : Word) (f : Desc → Desc) (k_ : Nat) : (s.modDesc c r i f).dimm k_ = s.dimm k_ := rfl
@[simp] theorem State.model_modDesc (s : State) (c r : Nat) (i : Word) (f : Desc → Desc) (k_ : Nat) : (s.modDesc c r i f).model k_ = s.model k_ := rfl
@[simp] theorem State.port_modDesc (s : State) (c r : Nat) (i : Word) (f : Desc → Desc) (k_ : Nat) : (s.modDesc c r i f).port k_ = s.port k_ := rfl
@[simp] theorem State.pdev_modDesc (s : State) (c r : Nat) (i : Word) (f : Desc → Desc) (k_ : Nat) : (s.modDesc c r i f).pdev k_ = s.pdev k_ := rfl
@[simp] theorem State.pdie_modDesc (s : State) (c r : Nat) (i : Word) (f : Desc → Desc) (k_ : Nat) : (s.modDesc c r i f).pdie k_ = s.pdie k_ := rfl

@[simp] theorem State.dom_finish (s : State) (c r : Nat) (i : Word) (st : Stop) (k_ : Nat) : (s.finish c r i st).dom k_ = s.dom k_ := rfl
@[simp] theorem State.att_finish (s : State) (c r : Nat) (i : Word) (st : Stop) (k_ : Nat) : (s.finish c r i st).att k_ = s.att k_ := rfl
@[simp] theorem State.tile_finish (s : State) (c r : Nat) (i : Word) (st : Stop) (k_ : Nat) : (s.finish c r i st).tile k_ = s.tile k_ := rfl
@[simp] theorem State.stack_finish (s : State) (c r : Nat) (i : Word) (st : Stop) (k_ : Nat) : (s.finish c r i st).stack k_ = s.stack k_ := rfl
@[simp] theorem State.dimm_finish (s : State) (c r : Nat) (i : Word) (st : Stop) (k_ : Nat) : (s.finish c r i st).dimm k_ = s.dimm k_ := rfl
@[simp] theorem State.model_finish (s : State) (c r : Nat) (i : Word) (st : Stop) (k_ : Nat) : (s.finish c r i st).model k_ = s.model k_ := rfl
@[simp] theorem State.port_finish (s : State) (c r : Nat) (i : Word) (st : Stop) (k_ : Nat) : (s.finish c r i st).port k_ = s.port k_ := rfl
@[simp] theorem State.pdev_finish (s : State) (c r : Nat) (i : Word) (st : Stop) (k_ : Nat) : (s.finish c r i st).pdev k_ = s.pdev k_ := rfl
@[simp] theorem State.pdie_finish (s : State) (c r : Nat) (i : Word) (st : Stop) (k_ : Nat) : (s.finish c r i st).pdie k_ = s.pdie k_ := rfl

@[simp] theorem State.dom_setProg (s : State) (c r : Nat) (i : Word) (p : Prog) (k_ : Nat) : (s.setProg c r i p).dom k_ = s.dom k_ := rfl
@[simp] theorem State.att_setProg (s : State) (c r : Nat) (i : Word) (p : Prog) (k_ : Nat) : (s.setProg c r i p).att k_ = s.att k_ := rfl
@[simp] theorem State.tile_setProg (s : State) (c r : Nat) (i : Word) (p : Prog) (k_ : Nat) : (s.setProg c r i p).tile k_ = s.tile k_ := rfl
@[simp] theorem State.stack_setProg (s : State) (c r : Nat) (i : Word) (p : Prog) (k_ : Nat) : (s.setProg c r i p).stack k_ = s.stack k_ := rfl
@[simp] theorem State.dimm_setProg (s : State) (c r : Nat) (i : Word) (p : Prog) (k_ : Nat) : (s.setProg c r i p).dimm k_ = s.dimm k_ := rfl
@[simp] theorem State.model_setProg (s : State) (c r : Nat) (i : Word) (p : Prog) (k_ : Nat) : (s.setProg c r i p).model k_ = s.model k_ := rfl
@[simp] theorem State.port_setProg (s : State) (c r : Nat) (i : Word) (p : Prog) (k_ : Nat) : (s.setProg c r i p).port k_ = s.port k_ := rfl
@[simp] theorem State.pdev_setProg (s : State) (c r : Nat) (i : Word) (p : Prog) (k_ : Nat) : (s.setProg c r i p).pdev k_ = s.pdev k_ := rfl
@[simp] theorem State.pdie_setProg (s : State) (c r : Nat) (i : Word) (p : Prog) (k_ : Nat) : (s.setProg c r i p).pdie k_ = s.pdie k_ := rfl

@[simp] theorem State.dom_startIssue (s : State) (c : Nat) (d : Desc) (k_ : Nat) : (s.startIssue c d).dom k_ = s.dom k_ := rfl
@[simp] theorem State.att_startIssue (s : State) (c : Nat) (d : Desc) (k_ : Nat) : (s.startIssue c d).att k_ = s.att k_ := rfl
@[simp] theorem State.tile_startIssue (s : State) (c : Nat) (d : Desc) (k_ : Nat) : (s.startIssue c d).tile k_ = s.tile k_ := rfl
@[simp] theorem State.stack_startIssue (s : State) (c : Nat) (d : Desc) (k_ : Nat) : (s.startIssue c d).stack k_ = s.stack k_ := rfl
@[simp] theorem State.dimm_startIssue (s : State) (c : Nat) (d : Desc) (k_ : Nat) : (s.startIssue c d).dimm k_ = s.dimm k_ := rfl
@[simp] theorem State.model_startIssue (s : State) (c : Nat) (d : Desc) (k_ : Nat) : (s.startIssue c d).model k_ = s.model k_ := rfl
@[simp] theorem State.port_startIssue (s : State) (c : Nat) (d : Desc) (k_ : Nat) : (s.startIssue c d).port k_ = s.port k_ := rfl
@[simp] theorem State.pdev_startIssue (s : State) (c : Nat) (d : Desc) (k_ : Nat) : (s.startIssue c d).pdev k_ = s.pdev k_ := rfl
@[simp] theorem State.pdie_startIssue (s : State) (c : Nat) (d : Desc) (k_ : Nat) : (s.startIssue c d).pdie k_ = s.pdie k_ := rfl

@[simp] theorem State.ctx_modPt (s : State) (t : Nat) (f : PwrTile → PwrTile) (k_ : Nat) : (s.modPt t f).ctx k_ = s.ctx k_ := rfl
@[simp] theorem State.dom_modPt (s : State) (t : Nat) (f : PwrTile → PwrTile) (k_ : Nat) : (s.modPt t f).dom k_ = s.dom k_ := rfl
@[simp] theorem State.att_modPt (s : State) (t : Nat) (f : PwrTile → PwrTile) (k_ : Nat) : (s.modPt t f).att k_ = s.att k_ := rfl
@[simp] theorem State.tile_modPt (s : State) (t : Nat) (f : PwrTile → PwrTile) (k_ : Nat) : (s.modPt t f).tile k_ = s.tile k_ := rfl
@[simp] theorem State.stack_modPt (s : State) (t : Nat) (f : PwrTile → PwrTile) (k_ : Nat) : (s.modPt t f).stack k_ = s.stack k_ := rfl
@[simp] theorem State.dimm_modPt (s : State) (t : Nat) (f : PwrTile → PwrTile) (k_ : Nat) : (s.modPt t f).dimm k_ = s.dimm k_ := rfl
@[simp] theorem State.model_modPt (s : State) (t : Nat) (f : PwrTile → PwrTile) (k_ : Nat) : (s.modPt t f).model k_ = s.model k_ := rfl
@[simp] theorem State.port_modPt (s : State) (t : Nat) (f : PwrTile → PwrTile) (k_ : Nat) : (s.modPt t f).port k_ = s.port k_ := rfl
@[simp] theorem State.pdev_modPt (s : State) (t : Nat) (f : PwrTile → PwrTile) (k_ : Nat) : (s.modPt t f).pdev k_ = s.pdev k_ := rfl
@[simp] theorem State.pdie_modPt (s : State) (t : Nat) (f : PwrTile → PwrTile) (k_ : Nat) : (s.modPt t f).pdie k_ = s.pdie k_ := rfl

@[simp] theorem State.ctx_errLog (s : State) (a b u e : Nat) (loc : DWord) (w : LogWho) (k_ : Nat) : (s.errLog a b u e loc w).ctx k_ = s.ctx k_ := rfl
@[simp] theorem State.dom_errLog (s : State) (a b u e : Nat) (loc : DWord) (w : LogWho) (k_ : Nat) : (s.errLog a b u e loc w).dom k_ = s.dom k_ := rfl
@[simp] theorem State.att_errLog (s : State) (a b u e : Nat) (loc : DWord) (w : LogWho) (k_ : Nat) : (s.errLog a b u e loc w).att k_ = s.att k_ := rfl
@[simp] theorem State.tile_errLog (s : State) (a b u e : Nat) (loc : DWord) (w : LogWho) (k_ : Nat) : (s.errLog a b u e loc w).tile k_ = s.tile k_ := rfl
@[simp] theorem State.stack_errLog (s : State) (a b u e : Nat) (loc : DWord) (w : LogWho) (k_ : Nat) : (s.errLog a b u e loc w).stack k_ = s.stack k_ := rfl
@[simp] theorem State.dimm_errLog (s : State) (a b u e : Nat) (loc : DWord) (w : LogWho) (k_ : Nat) : (s.errLog a b u e loc w).dimm k_ = s.dimm k_ := rfl
@[simp] theorem State.model_errLog (s : State) (a b u e : Nat) (loc : DWord) (w : LogWho) (k_ : Nat) : (s.errLog a b u e loc w).model k_ = s.model k_ := rfl
@[simp] theorem State.port_errLog (s : State) (a b u e : Nat) (loc : DWord) (w : LogWho) (k_ : Nat) : (s.errLog a b u e loc w).port k_ = s.port k_ := rfl
@[simp] theorem State.pdev_errLog (s : State) (a b u e : Nat) (loc : DWord) (w : LogWho) (k_ : Nat) : (s.errLog a b u e loc w).pdev k_ = s.pdev k_ := rfl
@[simp] theorem State.pdie_errLog (s : State) (a b u e : Nat) (loc : DWord) (w : LogWho) (k_ : Nat) : (s.errLog a b u e loc w).pdie k_ = s.pdie k_ := rfl

@[simp] theorem Ctx.ring_modRing_same (x : Ctx) (k : Nat) (f : Ring → Ring) : (x.modRing k f).ring k = f (x.ring k) :=
  tget_tput_same _ _ _ _
theorem Ctx.ring_modRing_other (x : Ctx) (k j : Nat) (f : Ring → Ring) (h : j ≠ k) : (x.modRing k f).ring j = x.ring j :=
  tget_tput_other _ _ _ _ _ h
@[simp] theorem State.ring_modRing_same (s : State) (c k : Nat) (f : Ring → Ring) :
    ((s.modRing c k f).ctx c).ring k = f ((s.ctx c).ring k) := by
  simp [State.modRing]
@[simp] theorem State.emit_outs (s : State) (o : Out) : (s.emit o).outs = s.outs ++ [o] := rfl
@[simp] theorem State.tick_free (s : State) : s.tick.free = s.free + 1 := rfl

end Sys2Proof.Machine
end

