-- ==== Sys2Proof/Laws/Memory.lean ====
section
/-! SUPPORT. Laws/Memory.lean: every operation of a byte memory keeps its canonical form; a byte reads as it was last written. -/
namespace Sys2Proof.Machine

/-- A lower bound may be lowered. -/
theorem wfFrom_le (m : Memory) (lo hi : Nat) (hle : lo ≤ hi) (h : wfFrom hi m = true) : wfFrom lo m = true := by
  cases m with
  | nil => rfl
  | cons e r =>
    obtain ⟨j, b⟩ := e
    simp only [wfFrom, Bool.and_eq_true, decide_eq_true_eq] at h ⊢
    exact ⟨⟨by omega, h.1.2⟩, h.2⟩

/-- An address below a canonical memory reads as blank. -/
theorem mget_below (m : Memory) (lo a : Nat) (h : wfFrom lo m = true) (ha : a < lo) : mget m a = Memory.blank := by
  induction m generalizing lo with
  | nil => rfl
  | cons e r ih =>
    obtain ⟨j, b⟩ := e
    simp only [wfFrom, Bool.and_eq_true, decide_eq_true_eq] at h
    have hj : ¬ j = a := by omega
    simp only [mget, hj, if_false]
    exact ih (j + 1) h.2 (by omega)

/-- A put keeps the canonical form. -/
theorem wfFrom_mput (m : Memory) (lo a : Nat) (b : Byte) (h : wfFrom lo m = true) (ha : lo ≤ a) : wfFrom lo (mput m a b) = true := by
  induction m generalizing lo with
  | nil =>
    simp only [mput]
    split
    · rfl
    · rename_i hb
      simp [wfFrom, hb, ha]
  | cons e r ih =>
    obtain ⟨j, c⟩ := e
    simp only [wfFrom, Bool.and_eq_true, decide_eq_true_eq] at h
    simp only [mput]
    split
    · split
      · simp [wfFrom, h.1.1, h.1.2, h.2]
      · rename_i h1 hb
        have hw : wfFrom (a + 1) ((j, c) :: r) = true := by
          simp only [wfFrom, Bool.and_eq_true, decide_eq_true_eq]
          exact ⟨⟨by omega, h.1.2⟩, h.2⟩
        simp only [wfFrom, Bool.and_eq_true, decide_eq_true_eq] at hw ⊢
        exact ⟨⟨ha, by simp [hb]⟩, hw⟩
    · split
      · split
        · exact wfFrom_le r lo (j + 1) (by omega) h.2
        · rename_i h1 h2 hb
          subst h2
          simp only [wfFrom, Bool.and_eq_true, decide_eq_true_eq]
          exact ⟨⟨ha, by simp [hb]⟩, h.2⟩
      · rename_i h1 h2
        simp only [wfFrom, Bool.and_eq_true, decide_eq_true_eq]
        exact ⟨⟨h.1.1, h.1.2⟩, ih (j + 1) h.2 (by omega)⟩

/-- A put keeps the canonical form. -/
theorem mput_wf (m : Memory) (a : Nat) (b : Byte) (h : m.wf = true) : Memory.wf (mput m a b) = true :=
  wfFrom_mput m 0 a b h (Nat.zero_le _)

/-- A write keeps the canonical form. -/
theorem mwrite_wf (bs : List Byte) (m : Memory) (a : Nat) (h : m.wf = true) : Memory.wf (mwrite m a bs) = true := by
  induction bs generalizing m a with
  | nil => exact h
  | cons b r ih => exact ih _ _ (mput_wf m a b h)

/-- Entries may be left out. -/
theorem wfFrom_filter (p : Host.Cell → Bool) (m : Memory) (lo : Nat) (h : wfFrom lo m = true) : wfFrom lo (m.filter p) = true := by
  induction m generalizing lo with
  | nil => rfl
  | cons e r ih =>
    obtain ⟨j, b⟩ := e
    simp only [wfFrom, Bool.and_eq_true, decide_eq_true_eq] at h
    simp only [List.filter_cons]
    split
    · simp only [wfFrom, Bool.and_eq_true, decide_eq_true_eq]
      exact ⟨h.1, ih (j + 1) h.2⟩
    · exact wfFrom_le _ lo (j + 1) (by omega) (ih (j + 1) h.2)

/-- Leaving entries out keeps the canonical form. -/
theorem filter_wf (p : Host.Cell → Bool) (m : Memory) (h : m.wf = true) : Memory.wf (m.filter p) = true := wfFrom_filter p m 0 h

/-- A clear keeps the canonical form. -/
theorem mclear_wf (m : Memory) (a n : Nat) (h : m.wf = true) : Memory.wf (mclear m a n) = true := filter_wf _ m h

/-- A put changes no other byte. -/
theorem mget_mput_other (m : Memory) (a c : Nat) (b : Byte) (h : c ≠ a) : mget (mput m a b) c = mget m c := by
  induction m with
  | nil =>
    simp only [mput]
    split
    · rfl
    · simp [mget, Ne.symm h]
  | cons e r ih =>
    obtain ⟨j, d⟩ := e
    simp only [mput]
    split
    · split
      · rfl
      · simp [mget, Ne.symm h]
    · split
      · rename_i h2
        subst h2
        split <;> simp [mget, Ne.symm h]
      · simp [mget, ih]

/-- The byte put is the byte read. -/
theorem wfFrom_mget_mput (m : Memory) (lo a : Nat) (b : Byte) (h : wfFrom lo m = true) : mget (mput m a b) a = b := by
  induction m generalizing lo with
  | nil =>
    simp only [mput]
    split
    · rename_i hb
      exact hb.symm
    · simp [mget]
  | cons e r ih =>
    obtain ⟨j, d⟩ := e
    simp only [wfFrom, Bool.and_eq_true, decide_eq_true_eq] at h
    simp only [mput]
    split
    · split
      · rename_i h1 hb
        have hj : ¬ j = a := by omega
        simp only [mget, hj, if_false]
        rw [mget_below r (j + 1) a h.2 (by omega), hb]
      · simp [mget]
    · split
      · rename_i h2
        subst h2
        split
        · rename_i hb
          rw [mget_below r (a + 1) a h.2 (by omega), hb]
        · simp [mget]
      · rename_i h1 h2
        have hj : ¬ j = a := fun h => h2 h.symm
        simp only [mget, hj, if_false]
        exact ih (j + 1) h.2

/-- The byte put is the byte read. -/
theorem mget_mput_same (m : Memory) (a : Nat) (b : Byte) (h : m.wf = true) : mget (mput m a b) a = b := wfFrom_mget_mput m 0 a b h

/-- A write changes no byte outside it. -/
theorem mget_mwrite_outside (bs : List Byte) (m : Memory) (a c : Nat) (h : c < a ∨ a + bs.length ≤ c) :
    mget (mwrite m a bs) c = mget m c := by
  induction bs generalizing m a with
  | nil => rfl
  | cons b r ih =>
    simp only [List.length_cons] at h
    simp only [mwrite]
    rw [ih _ _ (by omega), mget_mput_other _ _ _ _ (by omega)]

/-- A byte written is the byte read. -/
theorem mget_mwrite_inside (bs : List Byte) (m : Memory) (a i : Nat) (hm : m.wf = true) (h : i < bs.length) :
    mget (mwrite m a bs) (a + i) = bs[i] := by
  induction bs generalizing m a i with
  | nil => simp at h
  | cons b r ih =>
    simp only [mwrite]
    cases i with
    | zero =>
      rw [mget_mwrite_outside r _ _ _ (by omega)]
      exact mget_mput_same m a b hm
    | succ k =>
      have := ih (mput m a b) (a + 1) k (mput_wf m a b hm) (by simpa using h)
      rw [show a + (k + 1) = a + 1 + k by omega, this]
      rfl

/-- A store to the physical address space keeps everything but the memory. -/
theorem State.poke_mem (bs : List Byte) (s : State) (pa : Nat) : ∃ m, s.poke pa bs = { s with mem := m } ∧ (s.mem.wf = true → Memory.wf m = true) := by
  induction bs generalizing s pa with
  | nil => exact ⟨s.mem, rfl, id⟩
  | cons b r ih =>
    obtain ⟨m, h1, h2⟩ := ih { s with mem := mput s.mem (s.home pa) b } (pa + 1)
    exact ⟨m, h1, fun h => h2 (mput_wf _ _ _ h)⟩

end Sys2Proof.Machine
end

