-- ==== Sys2Proof/Laws/Ops.lean ====
section
/-! SUPPORT. Laws/Ops.lean: what each shared operation around a command's own effect can do, said once, for the provers to cite. -/
namespace Sys2Proof.Machine

/-! ### The queue -/

/-- A step on a queue with a command in front is that command on the queue's rest. -/
theorem step_cons (s : State) (c : Instr) (r : List Instr) (h : s.pending = c :: r) : step s = exec c { s with pending := r } := by
  simp [step, h]

theorem step_nil (s : State) (h : s.pending = []) : step s = .next s := by simp [step, h]

/-! ### Issue and progress of a descriptor -/

/-- On stores that can be read a unit acts as it is. -/
@[simp] theorem withStores_nil (c : Nat) (d : Desc) (unit : Act (Option Stop)) : withStores [] c d unit = unit := rfl

/-- An issue either meets its descriptor and runs the unit, within the stores that it uses, on the state in which it executes, or leaves the state
as it is. -/
theorem issue_cases (op : Nat) (ref : DescRef) (unit : Desc → Act (Option Stop)) (s : State) :
    (∃ d, s.desc ref = some d ∧ d.opcode = op ∧ s.mayIssue ref.ctx d = true ∧ issue op ref unit s =
      State.settle ref.ctx ref.ring ref.index (withStores (s.badFor ref.ctx d) ref.ctx d (unit d) (s.startIssue ref.ctx d).tick)) ∨
    ((∀ d, s.desc ref = some d → ¬ (d.opcode = op ∧ s.mayIssue ref.ctx d = true)) ∧ issue op ref unit s = s) := by
  unfold issue
  cases h : s.desc ref with
  | none => exact .inr ⟨fun d e => by simp at e, rfl⟩
  | some d =>
    by_cases g : d.opcode = op ∧ s.mayIssue ref.ctx d = true
    · exact .inl ⟨d, rfl, g.1, g.2, by simp [g]⟩
    · exact .inr ⟨fun e he => by cases he; exact g, by simp [g]⟩

/-- A descriptor that issues, with no uncorrectable word to use, runs its unit as it is. -/
theorem issue_of_issues (op : Nat) (ref : DescRef) (d : Desc) (unit : Desc → Act (Option Stop)) (s : State) (h : s.issues ref op d) :
    issue op ref unit s = State.settle ref.ctx ref.ring ref.index (unit d (s.begun ref d)) := by
  obtain ⟨h1, h2, h3, h4⟩ := h
  simp [issue, h1, h2, h3, h4, State.begun]

/-- A unit goes on, within the stores that its descriptor uses, with a descriptor that executes at its units, or leaves the state as it is. -/
theorem continueDesc_cases (op : Nat) (ref : DescRef) (unit : Desc → Act (Option Stop)) (s : State) :
    (∃ d, s.desc ref = some d ∧ d.opcode = op ∧ d.st = .executing ∧ (s.ctx ref.ctx).atUnits = true ∧ continueDesc op ref unit s =
      State.settle ref.ctx ref.ring ref.index (withStores (s.badFor ref.ctx d) ref.ctx d (unit d) s.tick)) ∨
    ((∀ d, s.desc ref = some d → ¬ (d.opcode = op ∧ d.st = .executing ∧ (s.ctx ref.ctx).atUnits = true)) ∧
      continueDesc op ref unit s = s) := by
  unfold continueDesc
  cases h : s.desc ref with
  | none => exact .inr ⟨fun d e => by simp at e, rfl⟩
  | some d =>
    by_cases g : d.opcode = op ∧ d.st = .executing ∧ (s.ctx ref.ctx).atUnits = true
    · exact .inl ⟨d, rfl, g.1, g.2.1, g.2.2, by simp [g]⟩
    · exact .inr ⟨fun e he => by cases he; exact g, by simp [g]⟩

/-- A descriptor that runs, with no uncorrectable word to use, runs its unit as it is. -/
theorem continueDesc_of_runs (op : Nat) (ref : DescRef) (d : Desc) (unit : Desc → Act (Option Stop)) (s : State) (h : s.runs ref op d) :
    continueDesc op ref unit s = State.settle ref.ctx ref.ring ref.index (unit d s.tick) := by
  obtain ⟨h1, h2, h3, h4, h5⟩ := h
  simp [continueDesc, h1, h2, h3, h4, h5]

/-- What becomes of a unit whose descriptor uses an uncorrectable word that it does not write anew: the refusal that it gives, or 0x31 (R460). -/
theorem storeOutcome_bad (bad : List BadWord) (c : Nat) (d : Desc) (s : State) (r : EStateM.Result Stop State (Option Stop)) (b : BadWord)
    (h : bad.find? (fun b => !d.anew b) = some b) :
    (storeOutcome bad c d s r = r ∧ ∃ st t, (r = .error st t ∨ r = .ok (some st) t) ∧ st.refuses d.opcode = true) ∨
    storeOutcome bad c d s r = failStore (d.who c) b s := by
  unfold storeOutcome
  match r with
  | .ok none t => exact .inr (by simp [h])
  | .ok (some st) t =>
    by_cases hr : st.refuses d.opcode = true
    · exact .inl ⟨by simp [h, hr], st, t, .inr rfl, hr⟩
    · exact .inr (by simp [h, hr])
  | .error st t =>
    by_cases hr : st.refuses d.opcode = true
    · exact .inl ⟨by simp [h, hr], st, t, .inl rfl, hr⟩
    · exact .inr (by simp [h, hr])

/-- What an action ends in: a state in which the descriptor goes on, or one in which it is finished with a status. -/
theorem State.settle_cases (c r : Nat) (i : Word) (o : EStateM.Result Stop State (Option Stop)) :
    (∃ t, o = .ok none t ∧ State.settle c r i o = t) ∨
    (∃ st t, (o = .ok (some st) t ∨ o = .error st t) ∧ State.settle c r i o = t.finish c r i st) := by
  match o with
  | .ok none t => exact .inl ⟨t, rfl, rfl⟩
  | .ok (some st) t => exact .inr ⟨st, t, .inl rfl, rfl⟩
  | .error st t => exact .inr ⟨st, t, .inr rfl, rfl⟩

/-- A status finishes one descriptor of one context and changes no other part of the state. -/
theorem State.finish_onlyCtx (s : State) (c r : Nat) (i : Word) (st : Stop) : s.onlyCtx (s.finish c r i st) c :=
  ⟨rfl, fun j h => by rw [State.finish, State.modDesc, State.ctx_modCtx_other _ c j _ h, State.ctx_modCtx_other _ c j _ h]⟩

/-- Progress is kept in one descriptor of one context. -/
theorem State.setProg_onlyCtx (s : State) (c r : Nat) (i : Word) (p : Prog) : s.onlyCtx (s.setProg c r i p) c :=
  ⟨rfl, fun j h => State.ctx_modCtx_other s c j _ h⟩

/-! ### What leaves the module, logs, answers -/

theorem State.emit_eq (s : State) (o : Out) : s.emit o = { s with outs := s.outs ++ [o] } := rfl
theorem State.emits_eq (s : State) (os : List Out) : s.emits os = { s with outs := s.outs ++ os } := rfl
theorem State.tick_eq (s : State) : s.tick = { s with free := s.free + 1 } := rfl

/-- An entry of the module error log changes the log's own registers and pulls MGT_ALERT_N low; ORDINAL goes up by one. -/
theorem State.errLog_only (s : State) (cls source unit core : Nat) (loc : DWord) (who : LogWho) :
    ∃ e, s.errLog cls source unit core loc who = { s with err := e, pins := { s.pins with alert := true } } ∧
      e.log.ord = s.err.log.ord + 1 ∧ e.fatal = s.err.fatal ∧ e.closed = s.err.closed := by
  exact ⟨_, rfl, rfl, rfl, rfl⟩

/-- An answer is one entry of what leaves the module, and pulls MGT_ALERT_N low. -/
theorem State.answer_eq (s : State) (cmd code : Nat) (data : List Byte) :
    s.answer cmd code data = { s with pins := { s.pins with alert := true }, outs := s.outs ++ [.mgt cmd code data] } := rfl

/-- A reply leaves where the connector stays mated, and not otherwise. -/
theorem State.reply_eq (s : State) (p : OwnerProof) (cmd code : Nat) :
    s.reply p cmd code = if p.mated then s.answer cmd code [] else s := rfl

/-- What the asking of an owner command can do (R446): it is served, it waits, or no Bluone hears it. -/
theorem State.ask_cases (s : State) (i : Instr) (act : State → State) :
    (s.hears = true ∧ s.ask i act = act s) ∨
    (s.hears = false ∧ s.ask i act = { s with blu := { s.blu with waiting := s.blu.waiting ++ [i] } }) ∨
    (s.hears = false ∧ (s.pins.inputGood = false ∨ s.blu.halted = true) ∧ s.ask i act = s) := by
  unfold State.ask
  cases s.hears <;> cases s.pins.inputGood <;> cases s.blu.halted <;> simp

/-- What an owner command that is heard can do (R440): an answer of 1, 2 or 3 with no other effect but the nonce's, or its effect. -/
theorem State.ownerCmd_cases (s : State) (cmd : Nat) (args : List Byte) (p : OwnerProof) (act : State → State × Nat) (h : s.hears = true) :
    (s.unowned = true ∧ s.ownerCmd cmd args p act = s.reply p cmd 2) ∨
    (s.unowned = false ∧ s.inRecovery = true ∧ s.ownerCmd cmd args p act = s.reply p cmd 3) ∨
    (s.inRecovery = false ∧ 2 ≤ s.blu.stage ∧ s.unowned = false ∧ s.blu.nonce ≠ some p.nonce ∧ s.ownerCmd cmd args p act = s.reply p cmd 1) ∨
    (s.ownerHears p ∧ s.ownerSigned cmd args p = false ∧ s.ownerCmd cmd args p act = s.nonceUsed.reply p cmd 1) ∨
    (s.ownerHears p ∧ s.ownerSigned cmd args p = true ∧
      s.ownerCmd cmd args p act = (act s.nonceUsed).1.reply p cmd (act s.nonceUsed).2) := by
  unfold State.ownerCmd State.ownerHears
  by_cases h3 : s.unowned = true
  · exact .inl ⟨h3, by rw [if_pos h3]⟩
  rw [if_neg h3]
  simp only [Bool.not_eq_true] at h3
  by_cases h1 : s.inRecovery = true
  · exact .inr (.inl ⟨h3, h1, by rw [if_pos h1]⟩)
  rw [if_neg h1]
  simp only [Bool.not_eq_true] at h1
  have h2 : 2 ≤ s.blu.stage := by simpa [State.hears, h1] using h
  by_cases h4 : s.blu.nonce = some p.nonce
  · rw [if_neg (by simp [h4])]
    cases h5 : s.ownerSigned cmd args p <;> simp only [State.ownerSigned] at h5 <;> simp only [h5]
    · exact .inr (.inr (.inr (.inl ⟨⟨h1, h2, h3, h4⟩, by simp, rfl⟩)))
    · exact .inr (.inr (.inr (.inr ⟨⟨h1, h2, h3, h4⟩, by simp, rfl⟩)))
  · exact .inr (.inr (.inl ⟨h1, h2, h3, h4, by rw [if_pos h4]⟩))

/-- What an SPDM request can do (R438): nothing before stage 2, ERROR out of its order, else its response. -/
theorem State.spdmReply_cases (s : State) (need code : Nat) (data : List Byte) (next : Nat) :
    (s.blu.stage < 2 ∧ s.spdmReply need code data next = s) ∨
    (2 ≤ s.blu.stage ∧ s.blu.spdm < need ∧ s.spdmReply need code data next = s.spdmOut 0x7F [4]) ∨
    (2 ≤ s.blu.stage ∧ need ≤ s.blu.spdm ∧
      s.spdmReply need code data next = ({ s with blu := { s.blu with spdm := next } } : State).spdmOut code data) := by
  unfold State.spdmReply
  by_cases h1 : s.blu.stage < 2
  · exact .inl ⟨h1, by simp [h1]⟩
  · by_cases h2 : s.blu.spdm < need
    · exact .inr (.inl ⟨by omega, h2, by simp [h1, h2]⟩)
    · exact .inr (.inr ⟨by omega, by omega, by simp [h1, h2]⟩)

/-! ### Resets -/

/-- What a cold or module reset keeps (R465): what no rail powers, the queue, and the model's own fields. -/
theorem State.reboot_kept (s : State) (switch good : Bool) :
    (s.reboot switch good).blu = s.settleFrost.blu.unpowered ∧ (s.reboot switch good).pending = s.settleFrost.pending ∧
      (s.reboot switch good).outs = s.settleFrost.outs ∧ (s.reboot switch good).ctxs = [] ∧ (s.reboot switch good).boot = Boot.reset ∧
      (s.reboot switch good).sec = SecRegs.reset ∧ (s.reboot switch good).err = ErrMod.reset := by
  unfold State.reboot
  generalize s.settleFrost = r
  exact ⟨rfl, rfl, rfl, rfl, rfl, rfl, rfl⟩

end Sys2Proof.Machine
end

