-- ==== Sys2Proof/WellFormed.lean ====
section
/-! DEFINITION. WellFormed.lean: the operands that a command can have: numbers of units within what the module has (R3, R30, R362), and data of
the length that its bus carries. -/
namespace Sys2Proof

/-- Contexts 0 to 1,023 (R30). -/
def ctxOk (c : Nat) : Bool := decide (c < 1024)
/-- Rings 0 to 63 (R30). -/
def ringOk (k : Nat) : Bool := decide (k < 64)
/-- Key/value spaces 0 to 7 (R175). -/
def spaceOk (k : Nat) : Bool := decide (k < 8)
/-- Tiles and stacks 0 to 11 (R17). -/
def tileOk (t : Nat) : Bool := decide (t < 12)
/-- Seats 0 to 15 of a tile (R369). -/
def seatOk (q : Nat) : Bool := decide (q < 16)
/-- Physical cores 0 to 17 of a tile (R14). -/
def coreOk (n : Nat) : Bool := decide (n < 18)
/-- Domains 0 to 15 (R362). -/
def domOk (h : Nat) : Bool := decide (h < 16)
/-- Functions, downstream ports and CacheIDs 0 to 15 (R419, R424). -/
def fnOk (n : Nat) : Bool := decide (n < 16)
/-- Attachments 0 to 3 (R428). -/
def attachOk (i : Nat) : Bool := decide (i < 4)
/-- I/O dies, UCIe attaches and PCIe ports 0 and 1. -/
def dieOk (i : Nat) : Bool := decide (i < 2)
/-- Vexja ports 0 to 11 (R283). -/
def portOk (p : Nat) : Bool := decide (p < 12)
/-- Where a packet arrives: a port, or 15 for delivery inside the module (R302). -/
def arrivalOk (p : Nat) : Bool := portOk p || p == 15
/-- Lanes 0 to 4 of a port (R284). -/
def laneOk (n : Nat) : Bool := decide (n < 5)
/-- Permafrost devices 0 to 7 (R233). -/
def devOk (n : Nat) : Bool := decide (n < 8)
/-- Sequence numbers and tags of 12 bits (R237, R421). -/
def seqOk (n : Nat) : Bool := decide (n < 4096)
/-- DIMM channels 0 to 15 (R217). -/
def channelOk (n : Nat) : Bool := decide (n < 16)
/-- Slots 0 to 63 of the cyclic table (R376). -/
def slotOk (n : Nat) : Bool := decide (n < 64)
/-- An offset of a doorbell page (R36). -/
def pageOk (n : Nat) : Bool := decide (n < 4096)
/-- A fetch read of 1 to 32 slots (R35). -/
def fetchOk (n : Nat) : Bool := decide (1 ≤ n) && decide (n ≤ 32)
/-- KIND of an array fault (R453); 5 stands for a check that fails in the commit queue once release has begun. -/
def kindOk (n : Nat) : Bool := decide (1 ≤ n) && decide (n ≤ 5)
/-- Boot stages 2 and 3, loaded by the stage before (R433). -/
def stageOk (n : Nat) : Bool := n == 2 || n == 3

def DescRef.ok (d : DescRef) : Bool := ctxOk d.ctx && ringOk d.ring

/-- A register that the address space, or a setup window of 8 KiB, can name (R40, R470). -/
def RegTarget.ok : RegTarget → Bool
  | .space a => decide (a < 2 ^ 32)
  | .window c off => ctxOk c && decide (off < 0x2000)

def HostResp.ok : HostResp → Bool
  | .data h _ _ => domOk h
  | .fetchErr c k => ctxOk c && ringOk k
  | .recordErr c k _ => ctxOk c && ringOk k
  | .dataErr d _ _ => d.ok
  | .unknown i => attachOk i

/-- The command is one that the module's surroundings can give. -/
def Instr.wellFormed : Instr → Bool
  | .sqTailWrite c k _ => ctxOk c && ringOk k
  | .cqHeadWrite c k _ => ctxOk c && ringOk k
  | .irqArm c k => ctxOk c && ringOk k
  | .doorbellStrayWrite c off => ctxOk c && pageOk off
  | .registerWrite target _ => target.ok
  | .fetchRequest c k n => ctxOk c && ringOk k && fetchOk n
  | .descriptorAdmit c k _ => ctxOk c && ringOk k
  | .fetchErr c k => ctxOk c && ringOk k
  | .descriptorComplete ref => ref.ok
  | .writeErr c k _ => ctxOk c && ringOk k
  | .ringReset c k _ => ctxOk c && ringOk k
  | .ringEnable c k _ => ctxOk c && ringOk k
  | .ringDisable c k _ => ctxOk c && ringOk k
  | .ringBaseWrite c k _ _ => ctxOk c && ringOk k
  | .ctxCfgWrite c _ => ctxOk c
  | .start c => ctxOk c
  | .suspend c => ctxOk c
  | .resume c => ctxOk c
  | .close c => ctxOk c
  | .kill c => ctxOk c
  | .teardownStopped c => ctxOk c
  | .nop d => d.ok
  | .fence d => d.ok
  | .freeze d => d.ok
  | .thaw d => d.ok
  | .matmul d => d.ok
  | .passClean d => d.ok
  | .arrayFault d t q kind _ _ => d.ok && tileOk t && seatOk q && kindOk kind
  | .arrayCheckpointReached c t q _ => ctxOk c && tileOk t && seatOk q
  | .cskyArm d => d.ok
  | .cskySnapshot d => d.ok
  | .vstream d => d.ok
  | .chainLoad d => d.ok
  | .chainCacheFill c t q _ => ctxOk c && tileOk t && seatOk q
  | .planLoad d => d.ok
  | .boundSet d => d.ok
  | .wcSet d => d.ok
  | .tiledGemm d => d.ok
  | .workCounterFetch ref t q => ref.ok && tileOk t && seatOk q
  | .nodeMark ref t q => ref.ok && tileOk t && seatOk q
  | .sectionStart ref => ref.ok
  | .kvSpaceSet d => d.ok
  | .kvSeqSet d => d.ok
  | .kvAppend d => d.ok
  | .kvScatter d => d.ok
  | .kvFork d => d.ok
  | .kvFree d => d.ok
  | .kvPrefetch d => d.ok
  | .attn d => d.ok
  | .pageMoveComplete c k _ => ctxOk c && spaceOk k
  | .pageRecomputeComplete c k _ => ctxOk c && spaceOk k
  | .xlateInval d => d.ok
  | .ptRootWrite c _ => ctxOk c
  | .pageWalkComplete ref _ _ => ref.ok
  | .dmaCopy d => d.ok
  | .actPoolSet d => d.ok
  | .actSave d => d.ok
  | .actLoad d => d.ok
  | .memAdd d => d.ok
  | .memAddLine ref _ => ref.ok
  | .paramPrefetch d => d.ok
  | .stackPatrolScrub n _ => tileOk n
  | .dimmPatrolScrub ch _ => channelOk ch
  | .sramPatrolScrub t core _ => tileOk t && core.all coreOk
  | .rdd n ack _ status _ => devOk n && seqOk ack && decide (status < 4)
  | .wra n ack _ status => devOk n && seqOk ack && decide (status < 4)
  | .mrd n ack _ _ => devOk n && seqOk ack
  | .pmtNak n ack _ => devOk n && seqOk ack
  | .evt n ack _ => devOk n && seqOk ack
  | .pmtResendTimeout n _ _ => devOk n
  | .pmtResponseTimeout n _ _ _ => devOk n
  | .pmtRetrainDone n => devOk n
  | .wearSwapEval n => devOk n
  | .wearSwapComplete n => devOk n
  | .dewPassStart n => devOk n
  | .dewLineRead n _ => devOk n
  | .urgentDewEnd n => devOk n
  | .pmtCkptSet d => d.ok
  | .pmtPersist d => d.ok
  | .pmtCommit d => d.ok
  | .hailPrepare d => d.ok
  | .hailCommit ref _ => ref.ok
  | .hailAbort d => d.ok
  | .hailGroupSet d => d.ok
  | .hailRangeSet ref => ref.ok
  | .hailStatus d => d.ok
  | .frameReceive port _ _ => portOk port
  | .train port _ _ _ _ _ => portOk port
  | .hb port => portOk port
  | .linkErr port => portOk port
  | .hbSend port => portOk port
  | .hbLoss port _ => portOk port
  | .replayTimeout port _ _ => portOk port
  | .nakResendTimeout port => portOk port
  | .laneBerWindow port lanes _ => portOk port && lanes.all laneOk
  | .trainingPhaseDone port lanes => portOk port && lanes.all laneOk
  | .trainingPhaseOverrun port _ => portOk port
  | .put port => arrivalOk port
  | .putCommit port => arrivalOk port
  | .signal port => arrivalOk port
  | .signalRelease port => arrivalOk port
  | .commitRsp port => arrivalOk port
  | .nackRsp port => arrivalOk port
  | .packetForward port _ => arrivalOk port
  | .vxPut d => d.ok
  | .vxPutTimeout ref => ref.ok
  | .vxSignal d => d.ok
  | .vxExport d => d.ok
  | .lnkRouteDataWrite _ => true
  | .lnkCfgWrite _ => true
  | .lnkTxCfgWrite port _ => portOk port
  | .release port => portOk port
  | .disable port _ => portOk port
  | .cablePresenceChange p _ => portOk p
  | .thin d => d.ok
  | .redSet d => d.ok
  | .redRun d => d.ok
  | .reduce port => arrivalOk port
  | .reductionWindowClose ref _ _ _ => ref.ok
  | .foldLimitExpiry ref => ref.ok
  | .redDoldrums ref => ref.ok
  | .jetRingSet d => d.ok
  | .jetPass d => d.ok
  | .jet port => arrivalOk port
  | .attnMerge d => d.ok
  | .frontSet d => d.ok
  | .frontArrive d => d.ok
  | .frontWait d => d.ok
  | .frontStatus d => d.ok
  | .tallyAdd d => d.ok
  | .tallyWait d => d.ok
  | .tallyAlign d => d.ok
  | .waitSlotPlace ref => ref.ok
  | .spinExpiry ref => ref.ok
  | .doldrums ref => ref.ok
  | .create h _ => domOk h
  | .createAnswer h _ => domOk h
  | .contextPlace c => ctxOk c
  | .contextPreempt c => ctxOk c
  | .contextSaveComplete c => ctxOk c
  | .contextRestoreComplete c => ctxOk c
  | .idleLimitExpiry c => ctxOk c
  | .holdLimitExpiry c => ctxOk c
  | .ringSeatWrite c k _ => ctxOk c && ringOk k
  | .cyclicCommit => true
  | .cyclicTrim _ => true
  | .cyclicPeriodStart => true
  | .cyclicSlotLead n => slotOk n
  | .cyclicSlotStart n => slotOk n
  | .cyclicSlotEnd n => slotOk n
  | .modelLoad d => d.ok
  | .modelEvict d => d.ok
  | .modelPin d => d.ok
  | .modelUnpin d => d.ok
  | .hbaseWrite h _ => domOk h
  | .overvoltage => true
  | .powerFail => true
  | .powerFailReset => true
  | .inputSample _ _ _ _ _ _ => true
  | .budgetRecompute _ => true
  | .tilePowerInterval t _ => tileOk t
  | .clamp _ => true
  | .clampHoldExpiry _ => true
  | .clampCutoff _ => true
  | .slewWindow _ => true
  | .drizzleHoldExpiry d => d.ok
  | .forecast d => d.ok
  | .forecastLeadReached _ => true
  | .forecastExpiry _ => true
  | .forecastMiss _ => true
  | .gustChoice t _ => tileOk t
  | .thermalSample _ _ _ _ => true
  | .thermalTrip tile _ => tileOk tile
  | .energyRecalibrate _ => true
  | .pwrSet _ _ => true
  | .hmsRd i tag dom _ => dieOk i && seqOk tag && domOk dom
  | .hmsWr i dom _ _ data => dieOk i && domOk dom && decide (data.length = 64)
  | .h2dSnoop i cacheId _ => dieOk i && fnOk cacheId
  | .hostRegisterTlp i fn _ _ => attachOk i && fnOk fn
  | .hostReadResponse r => r.ok
  | .flr i fn => attachOk i && fnOk fn
  | .domainLoss i => attachOk i
  | .ucieRetrain i _ => dieOk i
  | .perstDeassert port => dieOk port
  | .perstAssert port => dieOk port
  | .romBoot _ _ => true
  | .stageLoaded stage _ => stageOk stage
  | .getNonce => true
  | .readReg _ => true
  | .recoveryBundle _ => true
  | .configStage _ _ => true
  | .tokenStage _ => true
  | .reset _ => true
  | .routeWrite _ _ => true
  | .portCtl port _ _ => portOk port
  | .pmtFormat _ => true
  | .pmtFormatEnd _ => true
  | .getVersion => true
  | .getCapabilities => true
  | .negotiateAlgorithms _ _ => true
  | .getDigests => true
  | .getCertificate _ _ _ => true
  | .challenge _ nonce => decide (nonce.length = 32)
  | .getMeasurements _ nonce => decide (nonce.length = 32)
  | .secLockDone => true
  | .watchdogService => true
  | .watchdogExpiry => true
  | .coreSelfTestDone t n _ => tileOk t && coreOk n
  | .fatalError _ => true
  | .inPrsntChange _ => true
  | .inputGood _ => true
  | .bringupStepDone _ _ => true
  | .moduleReset => true
  | .stackLost n => tileOk n
  | .frameSend port => portOk port
  | .laneLockLoss port lane _ => portOk port && laneOk lane
  | .jetDoldrums ref => ref.ok
  | .pcieCompletionTimeout r => r.ok
  | .pcieLinkTrained port _ _ => dieOk port
  | .dimmChannelFail ch => channelOk ch
  | .pmtBadPacket n _ _ => devOk n
  | .hmsBadHeader i dom => dieOk i && domOk dom

end Sys2Proof
end

