-- ==== Sys2Proof/Laws/PerInstr.lean ====
section
/-! SUPPORT. Laws/PerInstr.lean: the family Named: a well-formed command names contexts that the module has (R30). -/
namespace Sys2Proof.Laws

/-- The contexts that a register target names. -/
def targetContexts : RegTarget → List Nat
  | .space _ => []
  | .window c _ => [c]

/-- The contexts that a host's response names. -/
def responseContexts : HostResp → List Nat
  | .data _ _ _ => []
  | .fetchErr c _ => [c]
  | .recordErr c _ _ => [c]
  | .dataErr d _ _ => [d.ctx]
  | .unknown _ => []

/-- The contexts that a command names. -/
def contexts : Instr → List Nat
  | .sqTailWrite c _ _ => [c]
  | .cqHeadWrite c _ _ => [c]
  | .irqArm c _ => [c]
  | .doorbellStrayWrite c _ => [c]
  | .registerWrite target _ => targetContexts target
  | .fetchRequest c _ _ => [c]
  | .descriptorAdmit c _ _ => [c]
  | .fetchErr c _ => [c]
  | .descriptorComplete ref => [ref.ctx]
  | .writeErr c _ _ => [c]
  | .ringReset c _ _ => [c]
  | .ringEnable c _ _ => [c]
  | .ringDisable c _ _ => [c]
  | .ringBaseWrite c _ _ _ => [c]
  | .ctxCfgWrite c _ => [c]
  | .start c => [c]
  | .suspend c => [c]
  | .resume c => [c]
  | .close c => [c]
  | .kill c => [c]
  | .teardownStopped c => [c]
  | .nop d => [d.ctx]
  | .fence d => [d.ctx]
  | .freeze d => [d.ctx]
  | .thaw d => [d.ctx]
  | .matmul d => [d.ctx]
  | .passClean d => [d.ctx]
  | .arrayFault d _ _ _ _ _ => [d.ctx]
  | .arrayCheckpointReached c _ _ _ => [c]
  | .cskyArm d => [d.ctx]
  | .cskySnapshot d => [d.ctx]
  | .vstream d => [d.ctx]
  | .chainLoad d => [d.ctx]
  | .chainCacheFill c _ _ _ => [c]
  | .planLoad d => [d.ctx]
  | .boundSet d => [d.ctx]
  | .wcSet d => [d.ctx]
  | .tiledGemm d => [d.ctx]
  | .workCounterFetch ref _ _ => [ref.ctx]
  | .nodeMark ref _ _ => [ref.ctx]
  | .sectionStart ref => [ref.ctx]
  | .kvSpaceSet d => [d.ctx]
  | .kvSeqSet d => [d.ctx]
  | .kvAppend d => [d.ctx]
  | .kvScatter d => [d.ctx]
  | .kvFork d => [d.ctx]
  | .kvFree d => [d.ctx]
  | .kvPrefetch d => [d.ctx]
  | .attn d => [d.ctx]
  | .pageMoveComplete c _ _ => [c]
  | .pageRecomputeComplete c _ _ => [c]
  | .xlateInval d => [d.ctx]
  | .ptRootWrite c _ => [c]
  | .pageWalkComplete ref _ _ => [ref.ctx]
  | .dmaCopy d => [d.ctx]
  | .actPoolSet d => [d.ctx]
  | .actSave d => [d.ctx]
  | .actLoad d => [d.ctx]
  | .memAdd d => [d.ctx]
  | .memAddLine ref _ => [ref.ctx]
  | .paramPrefetch d => [d.ctx]
  | .stackPatrolScrub _ _ => []
  | .dimmPatrolScrub _ _ => []
  | .sramPatrolScrub _ _ _ => []
  | .rdd _ _ _ _ _ => []
  | .wra _ _ _ _ => []
  | .mrd _ _ _ _ => []
  | .pmtNak _ _ _ => []
  | .evt _ _ _ => []
  | .pmtResendTimeout _ _ _ => []
  | .pmtResponseTimeout _ _ _ _ => []
  | .pmtRetrainDone _ => []
  | .wearSwapEval _ => []
  | .wearSwapComplete _ => []
  | .dewPassStart _ => []
  | .dewLineRead _ _ => []
  | .urgentDewEnd _ => []
  | .pmtCkptSet d => [d.ctx]
  | .pmtPersist d => [d.ctx]
  | .pmtCommit d => [d.ctx]
  | .hailPrepare d => [d.ctx]
  | .hailCommit ref _ => [ref.ctx]
  | .hailAbort d => [d.ctx]
  | .hailGroupSet d => [d.ctx]
  | .hailRangeSet ref => [ref.ctx]
  | .hailStatus d => [d.ctx]
  | .frameReceive _ _ _ => []
  | .train _ _ _ _ _ _ => []
  | .hb _ => []
  | .linkErr _ => []
  | .hbSend _ => []
  | .hbLoss _ _ => []
  | .replayTimeout _ _ _ => []
  | .nakResendTimeout _ => []
  | .laneBerWindow _ _ _ => []
  | .trainingPhaseDone _ _ => []
  | .trainingPhaseOverrun _ _ => []
  | .put _ => []
  | .putCommit _ => []
  | .signal _ => []
  | .signalRelease _ => []
  | .commitRsp _ => []
  | .nackRsp _ => []
  | .packetForward _ _ => []
  | .vxPut d => [d.ctx]
  | .vxPutTimeout ref => [ref.ctx]
  | .vxSignal d => [d.ctx]
  | .vxExport d => [d.ctx]
  | .lnkRouteDataWrite _ => []
  | .lnkCfgWrite _ => []
  | .lnkTxCfgWrite _ _ => []
  | .release _ => []
  | .disable _ _ => []
  | .cablePresenceChange _ _ => []
  | .thin d => [d.ctx]
  | .redSet d => [d.ctx]
  | .redRun d => [d.ctx]
  | .reduce _ => []
  | .reductionWindowClose ref _ _ _ => [ref.ctx]
  | .foldLimitExpiry ref => [ref.ctx]
  | .redDoldrums ref => [ref.ctx]
  | .jetRingSet d => [d.ctx]
  | .jetPass d => [d.ctx]
  | .jet _ => []
  | .attnMerge d => [d.ctx]
  | .frontSet d => [d.ctx]
  | .frontArrive d => [d.ctx]
  | .frontWait d => [d.ctx]
  | .frontStatus d => [d.ctx]
  | .tallyAdd d => [d.ctx]
  | .tallyWait d => [d.ctx]
  | .tallyAlign d => [d.ctx]
  | .waitSlotPlace ref => [ref.ctx]
  | .spinExpiry ref => [ref.ctx]
  | .doldrums ref => [ref.ctx]
  | .create _ _ => []
  | .createAnswer _ _ => []
  | .contextPlace c => [c]
  | .contextPreempt c => [c]
  | .contextSaveComplete c => [c]
  | .contextRestoreComplete c => [c]
  | .idleLimitExpiry c => [c]
  | .holdLimitExpiry c => [c]
  | .ringSeatWrite c _ _ => [c]
  | .cyclicCommit => []
  | .cyclicTrim _ => []
  | .cyclicPeriodStart => []
  | .cyclicSlotLead _ => []
  | .cyclicSlotStart _ => []
  | .cyclicSlotEnd _ => []
  | .modelLoad d => [d.ctx]
  | .modelEvict d => [d.ctx]
  | .modelPin d => [d.ctx]
  | .modelUnpin d => [d.ctx]
  | .hbaseWrite _ _ => []
  | .overvoltage => []
  | .powerFail => []
  | .powerFailReset => []
  | .inputSample _ _ _ _ _ _ => []
  | .budgetRecompute _ => []
  | .tilePowerInterval _ _ => []
  | .clamp _ => []
  | .clampHoldExpiry _ => []
  | .clampCutoff _ => []
  | .slewWindow _ => []
  | .drizzleHoldExpiry d => [d.ctx]
  | .forecast d => [d.ctx]
  | .forecastLeadReached _ => []
  | .forecastExpiry _ => []
  | .forecastMiss _ => []
  | .gustChoice _ _ => []
  | .thermalSample _ _ _ _ => []
  | .thermalTrip _ _ => []
  | .energyRecalibrate _ => []
  | .pwrSet _ _ => []
  | .hmsRd _ _ _ _ => []
  | .hmsWr _ _ _ _ _ => []
  | .h2dSnoop _ _ _ => []
  | .hostRegisterTlp _ _ _ _ => []
  | .hostReadResponse r => responseContexts r
  | .flr _ _ => []
  | .domainLoss _ => []
  | .ucieRetrain _ _ => []
  | .perstDeassert _ => []
  | .perstAssert _ => []
  | .romBoot _ _ => []
  | .stageLoaded _ _ => []
  | .getNonce => []
  | .readReg _ => []
  | .recoveryBundle _ => []
  | .configStage _ _ => []
  | .tokenStage _ => []
  | .reset _ => []
  | .routeWrite _ _ => []
  | .portCtl _ _ _ => []
  | .pmtFormat _ => []
  | .pmtFormatEnd _ => []
  | .getVersion => []
  | .getCapabilities => []
  | .negotiateAlgorithms _ _ => []
  | .getDigests => []
  | .getCertificate _ _ _ => []
  | .challenge _ _ => []
  | .getMeasurements _ _ => []
  | .secLockDone => []
  | .watchdogService => []
  | .watchdogExpiry => []
  | .coreSelfTestDone _ _ _ => []
  | .fatalError _ => []
  | .inPrsntChange _ => []
  | .inputGood _ => []
  | .bringupStepDone _ _ => []
  | .moduleReset => []
  | .stackLost _ => []
  | .frameSend _ => []
  | .laneLockLoss _ _ _ => []
  | .jetDoldrums ref => [ref.ctx]
  | .pcieCompletionTimeout r => responseContexts r
  | .pcieLinkTrained _ _ _ => []
  | .dimmChannelFail _ => []
  | .pmtBadPacket _ _ _ => []
  | .hmsBadHeader _ _ => []

/-- Every context that the well-formed command names is one of 0 to 1,023. -/
def Named.Statement (i : Instr) : Prop := i.wellFormed = true → ∀ c ∈ contexts i, c < 1024

theorem andL {a b : Bool} (h : (a && b) = true) : a = true := by
  cases a <;> simp_all

theorem Named.ctx {c : Nat} (h : ctxOk c = true) : ∀ x ∈ [c], x < 1024 := by
  simp_all [ctxOk]

theorem Named.ref {d : DescRef} (h : d.ok = true) : ∀ x ∈ [d.ctx], x < 1024 := Named.ctx (andL h)

theorem Named.target (t : RegTarget) (h : t.ok = true) : ∀ c ∈ targetContexts t, c < 1024 := by
  cases t <;> simp_all [targetContexts, RegTarget.ok, ctxOk]

theorem Named.response (t : HostResp) (h : t.ok = true) : ∀ c ∈ responseContexts t, c < 1024 := by
  cases t <;> simp_all [responseContexts, HostResp.ok, DescRef.ok, ctxOk]

theorem Named.sqTailWrite (c k : Nat) (t : Word) : Named.Statement (.sqTailWrite c k t) := fun h => Named.ctx (andL h)
theorem Named.cqHeadWrite (c k : Nat) (h : Word) : Named.Statement (.cqHeadWrite c k h) := fun h => Named.ctx (andL h)
theorem Named.irqArm (c k : Nat) : Named.Statement (.irqArm c k) := fun h => Named.ctx (andL h)
theorem Named.doorbellStrayWrite (c off : Nat) : Named.Statement (.doorbellStrayWrite c off) := fun h => Named.ctx (andL h)
theorem Named.registerWrite (target : RegTarget) (v : DWord) : Named.Statement (.registerWrite target v) := fun h => Named.target _ h
theorem Named.fetchRequest (c k n : Nat) : Named.Statement (.fetchRequest c k n) := fun h => Named.ctx (andL (andL h))
theorem Named.descriptorAdmit (c k : Nat) (ws : List DWord) : Named.Statement (.descriptorAdmit c k ws) := fun h => Named.ctx (andL h)
theorem Named.fetchErr (c k : Nat) : Named.Statement (.fetchErr c k) := fun h => Named.ctx (andL h)
theorem Named.descriptorComplete (ref : DescRef) : Named.Statement (.descriptorComplete ref) := fun h => Named.ref h
theorem Named.writeErr (c k : Nat) (i : Word) : Named.Statement (.writeErr c k i) := fun h => Named.ctx (andL h)
theorem Named.ringReset (c k : Nat) (v : DWord) : Named.Statement (.ringReset c k v) := fun h => Named.ctx (andL h)
theorem Named.ringEnable (c k : Nat) (v : DWord) : Named.Statement (.ringEnable c k v) := fun h => Named.ctx (andL h)
theorem Named.ringDisable (c k : Nat) (v : DWord) : Named.Statement (.ringDisable c k v) := fun h => Named.ctx (andL h)
theorem Named.ringBaseWrite (c k : Nat) (cq : Bool) (v : DWord) : Named.Statement (.ringBaseWrite c k cq v) := fun h => Named.ctx (andL h)
theorem Named.ctxCfgWrite (c : Nat) (v : DWord) : Named.Statement (.ctxCfgWrite c v) := fun h => Named.ctx h
theorem Named.start (c : Nat) : Named.Statement (.start c) := fun h => Named.ctx h
theorem Named.suspend (c : Nat) : Named.Statement (.suspend c) := fun h => Named.ctx h
theorem Named.resume (c : Nat) : Named.Statement (.resume c) := fun h => Named.ctx h
theorem Named.close (c : Nat) : Named.Statement (.close c) := fun h => Named.ctx h
theorem Named.kill (c : Nat) : Named.Statement (.kill c) := fun h => Named.ctx h
theorem Named.teardownStopped (c : Nat) : Named.Statement (.teardownStopped c) := fun h => Named.ctx h
theorem Named.nop (d : DescRef) : Named.Statement (.nop d) := fun h => Named.ref h
theorem Named.fence (d : DescRef) : Named.Statement (.fence d) := fun h => Named.ref h
theorem Named.freeze (d : DescRef) : Named.Statement (.freeze d) := fun h => Named.ref h
theorem Named.thaw (d : DescRef) : Named.Statement (.thaw d) := fun h => Named.ref h
theorem Named.matmul (d : DescRef) : Named.Statement (.matmul d) := fun h => Named.ref h
theorem Named.passClean (d : DescRef) : Named.Statement (.passClean d) := fun h => Named.ref h
theorem Named.arrayFault (d : DescRef) (t q kind row col : Nat) : Named.Statement (.arrayFault d t q kind row col) := fun h => Named.ref (andL (andL (andL h)))
theorem Named.arrayCheckpointReached (c t q checkpoint : Nat) : Named.Statement (.arrayCheckpointReached c t q checkpoint) := fun h => Named.ctx (andL (andL h))
theorem Named.cskyArm (d : DescRef) : Named.Statement (.cskyArm d) := fun h => Named.ref h
theorem Named.cskySnapshot (d : DescRef) : Named.Statement (.cskySnapshot d) := fun h => Named.ref h
theorem Named.vstream (d : DescRef) : Named.Statement (.vstream d) := fun h => Named.ref h
theorem Named.chainLoad (d : DescRef) : Named.Statement (.chainLoad d) := fun h => Named.ref h
theorem Named.chainCacheFill (c t q slot : Nat) : Named.Statement (.chainCacheFill c t q slot) := fun h => Named.ctx (andL (andL h))
theorem Named.planLoad (d : DescRef) : Named.Statement (.planLoad d) := fun h => Named.ref h
theorem Named.boundSet (d : DescRef) : Named.Statement (.boundSet d) := fun h => Named.ref h
theorem Named.wcSet (d : DescRef) : Named.Statement (.wcSet d) := fun h => Named.ref h
theorem Named.tiledGemm (d : DescRef) : Named.Statement (.tiledGemm d) := fun h => Named.ref h
theorem Named.workCounterFetch (ref : DescRef) (t q : Nat) : Named.Statement (.workCounterFetch ref t q) := fun h => Named.ref (andL (andL h))
theorem Named.nodeMark (ref : DescRef) (t q : Nat) : Named.Statement (.nodeMark ref t q) := fun h => Named.ref (andL (andL h))
theorem Named.sectionStart (ref : DescRef) : Named.Statement (.sectionStart ref) := fun h => Named.ref h
theorem Named.kvSpaceSet (d : DescRef) : Named.Statement (.kvSpaceSet d) := fun h => Named.ref h
theorem Named.kvSeqSet (d : DescRef) : Named.Statement (.kvSeqSet d) := fun h => Named.ref h
theorem Named.kvAppend (d : DescRef) : Named.Statement (.kvAppend d) := fun h => Named.ref h
theorem Named.kvScatter (d : DescRef) : Named.Statement (.kvScatter d) := fun h => Named.ref h
theorem Named.kvFork (d : DescRef) : Named.Statement (.kvFork d) := fun h => Named.ref h
theorem Named.kvFree (d : DescRef) : Named.Statement (.kvFree d) := fun h => Named.ref h
theorem Named.kvPrefetch (d : DescRef) : Named.Statement (.kvPrefetch d) := fun h => Named.ref h
theorem Named.attn (d : DescRef) : Named.Statement (.attn d) := fun h => Named.ref h
theorem Named.pageMoveComplete (c k page : Nat) : Named.Statement (.pageMoveComplete c k page) := fun h => Named.ctx (andL h)
theorem Named.pageRecomputeComplete (c k page : Nat) : Named.Statement (.pageRecomputeComplete c k page) := fun h => Named.ctx (andL h)
theorem Named.xlateInval (d : DescRef) : Named.Statement (.xlateInval d) := fun h => Named.ref h
theorem Named.ptRootWrite (c : Nat) (v : DWord) : Named.Statement (.ptRootWrite c v) := fun h => Named.ctx h
theorem Named.pageWalkComplete (ref : DescRef) (va : DWord) (write : Bool) : Named.Statement (.pageWalkComplete ref va write) := fun h => Named.ref h
theorem Named.dmaCopy (d : DescRef) : Named.Statement (.dmaCopy d) := fun h => Named.ref h
theorem Named.actPoolSet (d : DescRef) : Named.Statement (.actPoolSet d) := fun h => Named.ref h
theorem Named.actSave (d : DescRef) : Named.Statement (.actSave d) := fun h => Named.ref h
theorem Named.actLoad (d : DescRef) : Named.Statement (.actLoad d) := fun h => Named.ref h
theorem Named.memAdd (d : DescRef) : Named.Statement (.memAdd d) := fun h => Named.ref h
theorem Named.memAddLine (ref : DescRef) (k : Nat) : Named.Statement (.memAddLine ref k) := fun h => Named.ref h
theorem Named.paramPrefetch (d : DescRef) : Named.Statement (.paramPrefetch d) := fun h => Named.ref h
theorem Named.stackPatrolScrub (n : Nat) (found : List Finding) : Named.Statement (.stackPatrolScrub n found) := fun _ _ h => nomatch h
theorem Named.dimmPatrolScrub (ch : Nat) (found : List Finding) : Named.Statement (.dimmPatrolScrub ch found) := fun _ _ h => nomatch h
theorem Named.sramPatrolScrub (t : Nat) (core : Option Nat) (found : List Finding) : Named.Statement (.sramPatrolScrub t core found) := fun _ _ h => nomatch h
theorem Named.rdd (n ack tag status : Nat) (sense : Sense) : Named.Statement (.rdd n ack tag status sense) := fun _ _ h => nomatch h
theorem Named.wra (n ack tag status : Nat) : Named.Statement (.wra n ack tag status) := fun _ _ h => nomatch h
theorem Named.mrd (n ack reg value : Nat) : Named.Statement (.mrd n ack reg value) := fun _ _ h => nomatch h
theorem Named.pmtNak (n ack now : Nat) : Named.Statement (.pmtNak n ack now) := fun _ _ h => nomatch h
theorem Named.evt (n ack code : Nat) : Named.Statement (.evt n ack code) := fun _ _ h => nomatch h
theorem Named.pmtResendTimeout (n seq now : Nat) : Named.Statement (.pmtResendTimeout n seq now) := fun _ _ h => nomatch h
theorem Named.pmtResponseTimeout (n : Nat) (write : Bool) (tag now : Nat) : Named.Statement (.pmtResponseTimeout n write tag now) := fun _ _ h => nomatch h
theorem Named.pmtRetrainDone (n : Nat) : Named.Statement (.pmtRetrainDone n) := fun _ _ h => nomatch h
theorem Named.wearSwapEval (n : Nat) : Named.Statement (.wearSwapEval n) := fun _ _ h => nomatch h
theorem Named.wearSwapComplete (n : Nat) : Named.Statement (.wearSwapComplete n) := fun _ _ h => nomatch h
theorem Named.dewPassStart (n : Nat) : Named.Statement (.dewPassStart n) := fun _ _ h => nomatch h
theorem Named.dewLineRead (n : Nat) (tries : List Sense) : Named.Statement (.dewLineRead n tries) := fun _ _ h => nomatch h
theorem Named.urgentDewEnd (n : Nat) : Named.Statement (.urgentDewEnd n) := fun _ _ h => nomatch h
theorem Named.pmtCkptSet (d : DescRef) : Named.Statement (.pmtCkptSet d) := fun h => Named.ref h
theorem Named.pmtPersist (d : DescRef) : Named.Statement (.pmtPersist d) := fun h => Named.ref h
theorem Named.pmtCommit (d : DescRef) : Named.Statement (.pmtCommit d) := fun h => Named.ref h
theorem Named.hailPrepare (d : DescRef) : Named.Statement (.hailPrepare d) := fun h => Named.ref h
theorem Named.hailCommit (ref : DescRef) (adv : List Nat) : Named.Statement (.hailCommit ref adv) := fun h => Named.ref h
theorem Named.hailAbort (d : DescRef) : Named.Statement (.hailAbort d) := fun h => Named.ref h
theorem Named.hailGroupSet (d : DescRef) : Named.Statement (.hailGroupSet d) := fun h => Named.ref h
theorem Named.hailRangeSet (ref : DescRef) : Named.Statement (.hailRangeSet ref) := fun h => Named.ref h
theorem Named.hailStatus (d : DescRef) : Named.Statement (.hailStatus d) := fun h => Named.ref h
theorem Named.frameReceive (port : Nat) (f : Frame) (now : Nat) : Named.Statement (.frameReceive port f now) := fun _ _ h => nomatch h
theorem Named.train (port verMin verMax epid : Nat) (credits : List Nat) (resume : Bool) : Named.Statement (.train port verMin verMax epid credits resume) := fun _ _ h => nomatch h
theorem Named.hb (port : Nat) : Named.Statement (.hb port) := fun _ _ h => nomatch h
theorem Named.linkErr (port : Nat) : Named.Statement (.linkErr port) := fun _ _ h => nomatch h
theorem Named.hbSend (port : Nat) : Named.Statement (.hbSend port) := fun _ _ h => nomatch h
theorem Named.hbLoss (port now : Nat) : Named.Statement (.hbLoss port now) := fun _ _ h => nomatch h
theorem Named.replayTimeout (port n now : Nat) : Named.Statement (.replayTimeout port n now) := fun _ _ h => nomatch h
theorem Named.nakResendTimeout (port : Nat) : Named.Statement (.nakResendTimeout port) := fun _ _ h => nomatch h
theorem Named.laneBerWindow (port : Nat) (lanes : List Nat) (now : Nat) : Named.Statement (.laneBerWindow port lanes now) := fun _ _ h => nomatch h
theorem Named.trainingPhaseDone (port : Nat) (lanes : List Nat) : Named.Statement (.trainingPhaseDone port lanes) := fun _ _ h => nomatch h
theorem Named.trainingPhaseOverrun (port now : Nat) : Named.Statement (.trainingPhaseOverrun port now) := fun _ _ h => nomatch h
theorem Named.put (port : Nat) : Named.Statement (.put port) := fun _ _ h => nomatch h
theorem Named.putCommit (port : Nat) : Named.Statement (.putCommit port) := fun _ _ h => nomatch h
theorem Named.signal (port : Nat) : Named.Statement (.signal port) := fun _ _ h => nomatch h
theorem Named.signalRelease (port : Nat) : Named.Statement (.signalRelease port) := fun _ _ h => nomatch h
theorem Named.commitRsp (port : Nat) : Named.Statement (.commitRsp port) := fun _ _ h => nomatch h
theorem Named.nackRsp (port : Nat) : Named.Statement (.nackRsp port) := fun _ _ h => nomatch h
theorem Named.packetForward (port vc : Nat) : Named.Statement (.packetForward port vc) := fun _ _ h => nomatch h
theorem Named.vxPut (d : DescRef) : Named.Statement (.vxPut d) := fun h => Named.ref h
theorem Named.vxPutTimeout (ref : DescRef) : Named.Statement (.vxPutTimeout ref) := fun h => Named.ref h
theorem Named.vxSignal (d : DescRef) : Named.Statement (.vxSignal d) := fun h => Named.ref h
theorem Named.vxExport (d : DescRef) : Named.Statement (.vxExport d) := fun h => Named.ref h
theorem Named.lnkRouteDataWrite (v : Half) : Named.Statement (.lnkRouteDataWrite v) := fun _ _ h => nomatch h
theorem Named.lnkCfgWrite (v : DWord) : Named.Statement (.lnkCfgWrite v) := fun _ _ h => nomatch h
theorem Named.lnkTxCfgWrite (port : Nat) (v : DWord) : Named.Statement (.lnkTxCfgWrite port v) := fun _ _ h => nomatch h
theorem Named.release (port : Nat) : Named.Statement (.release port) := fun _ _ h => nomatch h
theorem Named.disable (port : Nat) (on : Bool) : Named.Statement (.disable port on) := fun _ _ h => nomatch h
theorem Named.cablePresenceChange (p : Nat) (cable : Cable) : Named.Statement (.cablePresenceChange p cable) := fun _ _ h => nomatch h
theorem Named.thin (d : DescRef) : Named.Statement (.thin d) := fun h => Named.ref h
theorem Named.redSet (d : DescRef) : Named.Statement (.redSet d) := fun h => Named.ref h
theorem Named.redRun (d : DescRef) : Named.Statement (.redRun d) := fun h => Named.ref h
theorem Named.reduce (port : Nat) : Named.Statement (.reduce port) := fun _ _ h => nomatch h
theorem Named.reductionWindowClose (ref : DescRef) (seg level idx : Nat) : Named.Statement (.reductionWindowClose ref seg level idx) := fun h => Named.ref h
theorem Named.foldLimitExpiry (ref : DescRef) : Named.Statement (.foldLimitExpiry ref) := fun h => Named.ref h
theorem Named.redDoldrums (ref : DescRef) : Named.Statement (.redDoldrums ref) := fun h => Named.ref h
theorem Named.jetRingSet (d : DescRef) : Named.Statement (.jetRingSet d) := fun h => Named.ref h
theorem Named.jetPass (d : DescRef) : Named.Statement (.jetPass d) := fun h => Named.ref h
theorem Named.jet (port : Nat) : Named.Statement (.jet port) := fun _ _ h => nomatch h
theorem Named.attnMerge (d : DescRef) : Named.Statement (.attnMerge d) := fun h => Named.ref h
theorem Named.frontSet (d : DescRef) : Named.Statement (.frontSet d) := fun h => Named.ref h
theorem Named.frontArrive (d : DescRef) : Named.Statement (.frontArrive d) := fun h => Named.ref h
theorem Named.frontWait (d : DescRef) : Named.Statement (.frontWait d) := fun h => Named.ref h
theorem Named.frontStatus (d : DescRef) : Named.Statement (.frontStatus d) := fun h => Named.ref h
theorem Named.tallyAdd (d : DescRef) : Named.Statement (.tallyAdd d) := fun h => Named.ref h
theorem Named.tallyWait (d : DescRef) : Named.Statement (.tallyWait d) := fun h => Named.ref h
theorem Named.tallyAlign (d : DescRef) : Named.Statement (.tallyAlign d) := fun h => Named.ref h
theorem Named.waitSlotPlace (ref : DescRef) : Named.Statement (.waitSlotPlace ref) := fun h => Named.ref h
theorem Named.spinExpiry (ref : DescRef) : Named.Statement (.spinExpiry ref) := fun h => Named.ref h
theorem Named.doldrums (ref : DescRef) : Named.Statement (.doldrums ref) := fun h => Named.ref h
theorem Named.create (h : Nat) (v : DWord) : Named.Statement (.create h v) := fun _ _ h => nomatch h
theorem Named.createAnswer (h : Nat) (rec_ : Option (List DWord)) : Named.Statement (.createAnswer h rec_) := fun _ _ h => nomatch h
theorem Named.contextPlace (c : Nat) : Named.Statement (.contextPlace c) := fun h => Named.ctx h
theorem Named.contextPreempt (c : Nat) : Named.Statement (.contextPreempt c) := fun h => Named.ctx h
theorem Named.contextSaveComplete (c : Nat) : Named.Statement (.contextSaveComplete c) := fun h => Named.ctx h
theorem Named.contextRestoreComplete (c : Nat) : Named.Statement (.contextRestoreComplete c) := fun h => Named.ctx h
theorem Named.idleLimitExpiry (c : Nat) : Named.Statement (.idleLimitExpiry c) := fun h => Named.ctx h
theorem Named.holdLimitExpiry (c : Nat) : Named.Statement (.holdLimitExpiry c) := fun h => Named.ctx h
theorem Named.ringSeatWrite (c k : Nat) (v : DWord) : Named.Statement (.ringSeatWrite c k v) := fun h => Named.ctx (andL h)
theorem Named.cyclicCommit : Named.Statement (.cyclicCommit) := fun _ _ h => nomatch h
theorem Named.cyclicTrim (trim : Half) : Named.Statement (.cyclicTrim trim) := fun _ _ h => nomatch h
theorem Named.cyclicPeriodStart : Named.Statement (.cyclicPeriodStart) := fun _ _ h => nomatch h
theorem Named.cyclicSlotLead (n : Nat) : Named.Statement (.cyclicSlotLead n) := fun _ _ h => nomatch h
theorem Named.cyclicSlotStart (n : Nat) : Named.Statement (.cyclicSlotStart n) := fun _ _ h => nomatch h
theorem Named.cyclicSlotEnd (n : Nat) : Named.Statement (.cyclicSlotEnd n) := fun _ _ h => nomatch h
theorem Named.modelLoad (d : DescRef) : Named.Statement (.modelLoad d) := fun h => Named.ref h
theorem Named.modelEvict (d : DescRef) : Named.Statement (.modelEvict d) := fun h => Named.ref h
theorem Named.modelPin (d : DescRef) : Named.Statement (.modelPin d) := fun h => Named.ref h
theorem Named.modelUnpin (d : DescRef) : Named.Statement (.modelUnpin d) := fun h => Named.ref h
theorem Named.hbaseWrite (h : Nat) (v : DWord) : Named.Statement (.hbaseWrite h v) := fun _ _ h => nomatch h
theorem Named.overvoltage : Named.Statement (.overvoltage) := fun _ _ h => nomatch h
theorem Named.powerFail : Named.Statement (.powerFail) := fun _ _ h => nomatch h
theorem Named.powerFailReset : Named.Statement (.powerFailReset) := fun _ _ h => nomatch h
theorem Named.inputSample (mv ca : Nat) (tiles : List Nat) (base links memory : Nat) : Named.Statement (.inputSample mv ca tiles base links memory) := fun _ _ h => nomatch h
theorem Named.budgetRecompute (estimates : List Nat) : Named.Statement (.budgetRecompute estimates) := fun _ _ h => nomatch h
theorem Named.tilePowerInterval (t : Nat) (powers : List Nat) : Named.Statement (.tilePowerInterval t powers) := fun _ _ h => nomatch h
theorem Named.clamp (ca : Nat) : Named.Statement (.clamp ca) := fun _ _ h => nomatch h
theorem Named.clampHoldExpiry (ca : Nat) : Named.Statement (.clampHoldExpiry ca) := fun _ _ h => nomatch h
theorem Named.clampCutoff (ca : Nat) : Named.Statement (.clampCutoff ca) := fun _ _ h => nomatch h
theorem Named.slewWindow (needs : List Int) : Named.Statement (.slewWindow needs) := fun _ _ h => nomatch h
theorem Named.drizzleHoldExpiry (d : DescRef) : Named.Statement (.drizzleHoldExpiry d) := fun h => Named.ref h
theorem Named.forecast (d : DescRef) : Named.Statement (.forecast d) := fun h => Named.ref h
theorem Named.forecastLeadReached (k : Nat) : Named.Statement (.forecastLeadReached k) := fun _ _ h => nomatch h
theorem Named.forecastExpiry (k : Nat) : Named.Statement (.forecastExpiry k) := fun _ _ h => nomatch h
theorem Named.forecastMiss (k : Nat) : Named.Statement (.forecastMiss k) := fun _ _ h => nomatch h
theorem Named.gustChoice (t : Nat) (powers : List Nat) : Named.Statement (.gustChoice t powers) := fun _ _ h => nomatch h
theorem Named.thermalSample (tiles : List (List Nat)) (dies stks dimms : List Nat) : Named.Statement (.thermalSample tiles dies stks dimms) := fun _ _ h => nomatch h
theorem Named.thermalTrip (tile temp : Nat) : Named.Statement (.thermalTrip tile temp) := fun _ _ h => nomatch h
theorem Named.energyRecalibrate (mj : Nat) : Named.Statement (.energyRecalibrate mj) := fun _ _ h => nomatch h
theorem Named.pwrSet (v : DWord) (proof : OwnerProof) : Named.Statement (.pwrSet v proof) := fun _ _ h => nomatch h
theorem Named.hmsRd (i tag dom line : Nat) : Named.Statement (.hmsRd i tag dom line) := fun _ _ h => nomatch h
theorem Named.hmsWr (i dom line : Nat) (ben : DWord) (data : List Byte) : Named.Statement (.hmsWr i dom line ben data) := fun _ _ h => nomatch h
theorem Named.h2dSnoop (i cacheId addr : Nat) : Named.Statement (.h2dSnoop i cacheId addr) := fun _ _ h => nomatch h
theorem Named.hostRegisterTlp (i fn off : Nat) (kind : TlpKind) : Named.Statement (.hostRegisterTlp i fn off kind) := fun _ _ h => nomatch h
theorem Named.hostReadResponse (r : HostResp) : Named.Statement (.hostReadResponse r) := fun h => Named.response _ h
theorem Named.flr (i fn : Nat) : Named.Statement (.flr i fn) := fun _ _ h => nomatch h
theorem Named.domainLoss (i : Nat) : Named.Statement (.domainLoss i) := fun _ _ h => nomatch h
theorem Named.ucieRetrain (i modules : Nat) : Named.Statement (.ucieRetrain i modules) := fun _ _ h => nomatch h
theorem Named.perstDeassert (port : Nat) : Named.Statement (.perstDeassert port) := fun _ _ h => nomatch h
theorem Named.perstAssert (port : Nat) : Named.Statement (.perstAssert port) := fun _ _ h => nomatch h
theorem Named.romBoot (ms : Nat) (bad : RomFuses) : Named.Statement (.romBoot ms bad) := fun _ _ h => nomatch h
theorem Named.stageLoaded (stage ms : Nat) : Named.Statement (.stageLoaded stage ms) := fun _ _ h => nomatch h
theorem Named.getNonce : Named.Statement (.getNonce) := fun _ _ h => nomatch h
theorem Named.readReg (addr : Nat) : Named.Statement (.readReg addr) := fun _ _ h => nomatch h
theorem Named.recoveryBundle (bundle : List Byte) : Named.Statement (.recoveryBundle bundle) := fun _ _ h => nomatch h
theorem Named.configStage (cfg : OwnerCfg) (proof : OwnerProof) : Named.Statement (.configStage cfg proof) := fun _ _ h => nomatch h
theorem Named.tokenStage (token : List Byte) : Named.Statement (.tokenStage token) := fun _ _ h => nomatch h
theorem Named.reset (proof : OwnerProof) : Named.Statement (.reset proof) := fun _ _ h => nomatch h
theorem Named.routeWrite (entries : List (Nat × Half)) (proof : OwnerProof) : Named.Statement (.routeWrite entries proof) := fun _ _ h => nomatch h
theorem Named.portCtl (port : Nat) (v : DWord) (proof : OwnerProof) : Named.Statement (.portCtl port v proof) := fun _ _ h => nomatch h
theorem Named.pmtFormat (proof : OwnerProof) : Named.Statement (.pmtFormat proof) := fun _ _ h => nomatch h
theorem Named.pmtFormatEnd (defects : List (List Nat)) : Named.Statement (.pmtFormatEnd defects) := fun _ _ h => nomatch h
theorem Named.getVersion : Named.Statement (.getVersion) := fun _ _ h => nomatch h
theorem Named.getCapabilities : Named.Statement (.getCapabilities) := fun _ _ h => nomatch h
theorem Named.negotiateAlgorithms (sm2 sm3 : Bool) : Named.Statement (.negotiateAlgorithms sm2 sm3) := fun _ _ h => nomatch h
theorem Named.getDigests : Named.Statement (.getDigests) := fun _ _ h => nomatch h
theorem Named.getCertificate (slot off len : Nat) : Named.Statement (.getCertificate slot off len) := fun _ _ h => nomatch h
theorem Named.challenge (slot : Nat) (nonce : List Byte) : Named.Statement (.challenge slot nonce) := fun _ _ h => nomatch h
theorem Named.getMeasurements (index : Nat) (nonce : List Byte) : Named.Statement (.getMeasurements index nonce) := fun _ _ h => nomatch h
theorem Named.secLockDone : Named.Statement (.secLockDone) := fun _ _ h => nomatch h
theorem Named.watchdogService : Named.Statement (.watchdogService) := fun _ _ h => nomatch h
theorem Named.watchdogExpiry : Named.Statement (.watchdogExpiry) := fun _ _ h => nomatch h
theorem Named.coreSelfTestDone (t n : Nat) (pass : Bool) : Named.Statement (.coreSelfTestDone t n pass) := fun _ _ h => nomatch h
theorem Named.fatalError (loc : DWord) : Named.Statement (.fatalError loc) := fun _ _ h => nomatch h
theorem Named.inPrsntChange (low : Bool) : Named.Statement (.inPrsntChange low) := fun _ _ h => nomatch h
theorem Named.inputGood (addr : BitVec 3) : Named.Statement (.inputGood addr) := fun _ _ h => nomatch h
theorem Named.bringupStepDone (step : BringUp) (ms : Nat) : Named.Statement (.bringupStepDone step ms) := fun _ _ h => nomatch h
theorem Named.moduleReset : Named.Statement (.moduleReset) := fun _ _ h => nomatch h
theorem Named.stackLost (n : Nat) : Named.Statement (.stackLost n) := fun _ _ h => nomatch h
theorem Named.frameSend (port : Nat) : Named.Statement (.frameSend port) := fun _ _ h => nomatch h
theorem Named.laneLockLoss (port lane now : Nat) : Named.Statement (.laneLockLoss port lane now) := fun _ _ h => nomatch h
theorem Named.jetDoldrums (ref : DescRef) : Named.Statement (.jetDoldrums ref) := fun h => Named.ref h
theorem Named.pcieCompletionTimeout (r : HostResp) : Named.Statement (.pcieCompletionTimeout r) := fun h => Named.response _ h
theorem Named.pcieLinkTrained (port : Nat) (width : BitVec 4) (fast : Bool) : Named.Statement (.pcieLinkTrained port width fast) := fun _ _ h => nomatch h
theorem Named.dimmChannelFail (ch : Nat) : Named.Statement (.dimmChannelFail ch) := fun _ _ h => nomatch h
theorem Named.pmtBadPacket (n kind now : Nat) : Named.Statement (.pmtBadPacket n kind now) := fun _ _ h => nomatch h
theorem Named.hmsBadHeader (i dom : Nat) : Named.Statement (.hmsBadHeader i dom) := fun _ _ h => nomatch h

end Sys2Proof.Laws
end

