-- ==== Sys2Proof/Laws/Units.lean ====
section
/-! SUPPORT. Laws/Units.lean: what the named updates of one unit, and the order of waiting, can change. -/
namespace Sys2Proof.Machine

theorem State.modCtx_onlyCtx (s : State) (c : Nat) (f : Ctx → Ctx) : s.onlyCtx (s.modCtx c f) c :=
  ⟨rfl, fun j h => State.ctx_modCtx_other s c j f h⟩

theorem State.modRing_onlyRing (s : State) (c k : Nat) (f : Ring → Ring) : s.onlyRing (s.modRing c k f) c k := by
  refine ⟨State.modCtx_onlyCtx s c _, ?_, ?_⟩
  · simp [State.modRing, Ctx.modRing]
  · intro j h
    simp [State.modRing, Ctx.ring_modRing_other _ _ _ _ h]

theorem State.modDom_onlyDom (s : State) (h : Nat) (f : Dom → Dom) : s.onlyDom (s.modDom h f) h :=
  ⟨rfl, fun j e => State.dom_modDom_other s h j f e⟩

theorem State.modAtt_onlyAtt (s : State) (i : Nat) (f : Attach → Attach) : s.onlyAtt (s.modAtt i f) i :=
  ⟨rfl, fun j e => State.att_modAtt_other s i j f e⟩

theorem State.modTile_onlyTile (s : State) (k : Nat) (f : Tile → Tile) : s.onlyTile (s.modTile k f) k :=
  ⟨rfl, fun j e => State.tile_modTile_other s k j f e⟩

theorem State.modPort_onlyPort (s : State) (p : Nat) (f : Port → Port) : s.onlyPort (s.modPort p f) p :=
  ⟨rfl, fun j e => State.port_modPort_other s p j f e⟩

theorem State.modPdev_onlyPdev (s : State) (n : Nat) (f : PmtDev → PmtDev) : s.onlyPdev (s.modPdev n f) n :=
  ⟨rfl, fun j e => State.pdev_modPdev_other s n j f e⟩

/-! ### The order of waiting -/

theorem State.onlyOrder_refl (s : State) : s.onlyOrder s := ⟨rfl, fun _ => rfl, fun _ => rfl⟩

theorem State.onlyOrder_trans (s t u : State) (h1 : s.onlyOrder t) (h2 : t.onlyOrder u) : s.onlyOrder u := by
  obtain ⟨a1, b1, c1⟩ := h1
  obtain ⟨a2, b2, c2⟩ := h2
  refine ⟨?_, fun c => ?_, fun h => ?_⟩
  · rw [a2, a1]
  · rw [b2, b1]
  · rw [c2, c1]

theorem State.onlyOrder_served (s : State) (h : Nat) (v : DWord) : s.onlyOrder (s.modDom h (fun d => { d with served := v })) := by
  refine ⟨rfl, fun c => rfl, fun j => ?_⟩
  by_cases e : j = h
  · subst e; simp
  · rw [State.dom_modDom_other _ _ _ _ e]

theorem State.onlyOrder_stamp (s : State) (c n k : Nat) :
    s.onlyOrder (let s' := s.modCtx c (fun x => x.modSched (fun q => { q with waitStamp := n }))
      { s' with sched := { s'.sched with stamp := k } }) := by
  refine ⟨rfl, fun j => ?_, fun j => rfl⟩
  show (s.modCtx c (fun x => x.modSched (fun q => { q with waitStamp := n }))).ctx j = { s.ctx j with sched := { (s.ctx j).sched with
    waitStamp := ((s.modCtx c (fun x => x.modSched (fun q => { q with waitStamp := n }))).ctx j).sched.waitStamp
    idleHit := ((s.modCtx c (fun x => x.modSched (fun q => { q with waitStamp := n }))).ctx j).sched.idleHit } }
  by_cases e : j = c
  · subst e
    rw [State.ctx_modCtx_same]
    rfl
  · rw [State.ctx_modCtx_other _ _ _ _ e]

theorem State.onlyOrder_idle (s : State) (c : Nat) (b : Bool) :
    s.onlyOrder (s.modCtx c (fun x => x.modSched (fun q => { q with idleHit := b }))) := by
  refine ⟨rfl, fun j => ?_, fun j => rfl⟩
  by_cases e : j = c
  · subst e
    rw [State.ctx_modCtx_same]
    rfl
  · rw [State.ctx_modCtx_other _ _ _ _ e]

theorem foldl_onlyOrder {α : Type} (f : State → α → State) (hf : ∀ (s : State) (x : α), s.onlyOrder (f s x)) (l : List α) (s : State) :
    s.onlyOrder (l.foldl f s) := by
  induction l generalizing s with
  | nil => exact State.onlyOrder_refl s
  | cons x r ih => exact State.onlyOrder_trans _ _ _ (hf s x) (ih (f s x))

/-- What an event does beside its own effect touches the order of waiting alone (R372, R373). -/
theorem State.track_onlyOrder (old new : State) : new.onlyOrder (State.track old new) := by
  unfold State.track
  refine State.onlyOrder_trans _ _ _ (foldl_onlyOrder _ ?_ _ _) (foldl_onlyOrder _ ?_ _ _)
  · intro s h
    split
    · split
      · rename_i v _
        by_cases e : (s.dom h).served.toNat < v
        · have : (s.modDom h (fun d => if d.served.toNat < v then { d with served := BitVec.ofNat 64 v } else d))
              = s.modDom h (fun d => { d with served := BitVec.ofNat 64 v }) := by simp [State.modDom, e]
          rw [this]
          exact State.onlyOrder_served _ _ _
        · have : (s.modDom h (fun d => if d.served.toNat < v then { d with served := BitVec.ofNat 64 v } else d))
              = s.modDom h (fun d => { d with served := (s.dom h).served }) := by simp [State.modDom, e]
          rw [this]
          exact State.onlyOrder_served _ _ _
      · exact State.onlyOrder_refl _
    · exact State.onlyOrder_refl _
  · intro s c
    have hi : s.onlyOrder (if (new.ctx c).hasWork && !(old.ctx c).hasWork
        then s.modCtx c (fun x => x.modSched (fun q => { q with idleHit := false })) else s) := by
      split
      · exact State.onlyOrder_idle _ _ _
      · exact State.onlyOrder_refl _
    simp only
    split
    · exact State.onlyOrder_trans _ _ _ hi (State.onlyOrder_stamp _ _ _ _)
    · exact hi

end Sys2Proof.Machine
end

