-- ==== Sys2Proof/Tests/Slice0.lean ====
section
/-! SUPPORT. Tests/Slice0.lean: refused ill-formed commands, small runs against the spec's own numbers, and a state for every hypothesis of the statements. -/
namespace Sys2Proof.Tests
open Sys2Proof Sys2Proof.Machine
set_option Elab.async false

/-! ### States for tests: context 0 in RUN on tile 0, its first 2 MiB mapped to the bottom of stack 0 -/

/-- Page tables at 2 MiB: the first 2 MiB of virtual memory are the first 2 MiB of stack 0, readable and writable. -/
def wMem : Memory :=
  [(0x200000, 0x01), (0x200001, 0x10), (0x200002, 0x20), (0x201000, 0x01), (0x201001, 0x20), (0x201002, 0x20), (0x202000, 0x0F)]

def wRing : Ring := { Ring.reset with enable := true, sqTail := 8, fetched := 4 }

/-- Context 0 with the descriptors given. -/
def wCtx (ds : List Desc) : Ctx :=
  { Ctx.reset with
    st := .run, rings := [(0, wRing)], descs := ds
    sched := { CtxSched.reset with placed := true, tileMask := 1, seats := 1, rings := 1, wc := 1, fronts := 1, place := [(0, 0, 0)] }
    xl := { CtxXlate.reset with ptRoot := 0x200, windows := [(0, ⟨true, true, 0, 0x400000⟩)] } }

def wTile : Tile := { Tile.reset with inService := true, enabled := 0xFFFF }
def wDom : Dom := { Dom.reset with en := true, external := true, attach := 3, ctxMax := 8 }

def wState (ds : List Desc) : State :=
  { State.reset with mem := wMem, ctxs := [(0, wCtx ds)], doms := [(0, wDom)], tiles := [(0, wTile)], stks := [(0, { Stack.reset with inService := true })] }

/-- A descriptor of ring 0 at index 0 that waits. -/
def wDesc (ws : List DWord) : Desc := ⟨0, 0, ws, .waiting, 0, 0, false, .none⟩
/-- Word 0 of an opcode, VERSION 1. -/
def wOp (op : Nat) : DWord := at_ 1 0 ||| at_ op 4
/-- A descriptor of 8 words, or of 16. -/
def wD (op : Nat) (ws : List DWord) : Desc := wDesc ((wOp op :: ws) ++ List.replicate (7 - ws.length) 0)
def wD16 (op : Nat) (ws : List DWord) : Desc := wDesc (((wOp op ||| at_ 1 16) :: ws) ++ List.replicate (15 - ws.length) 0)
def wRef : DescRef := ⟨0, 0, 0⟩
def wWho : Who := { ctx := 0, ring := 0, index := 0 }
/-- It executes, with a progress. -/
def wExec (d : Desc) (p : Prog) : Desc := { d with st := .executing, issued := true, prog := p }

/-! ### A state for every hypothesis: the machine, rings, contexts -/

theorem witness_StepRunsFrontCommand : ({ wState [] with pending := [.watchdogService, .powerFail] } : State).pending = [.watchdogService, .powerFail] := by decide
theorem witness_EmptyQueueIdles : (wState []).pending = [] := by decide
theorem witness_StepKeepsMemoriesCanonical : ({ wState [] with pending := [.watchdogService] } : State).canonical = true := by decide +kernel
theorem witness_StepKeepsMemoriesCanonical_next : step { wState [] with pending := [.watchdogService] } = .next (wState []) := rfl
theorem witness_NoCommandChangesIdentity : exec .watchdogService (wState []) = .next (wState []) := rfl

/-- A ring of 16 slots with entries on both sides, and its interrupt enabled. -/
def wRing2 : Ring := { wRing with irqEn := true, qualifying := [0], cqTail := 2, armed := false }
def wRings (r : Ring) (st : CtxState) : State :=
  { wState [] with ctxs := [(0, { wCtx [] with rings := [(0, r)], st := st })] }

theorem witness_DoorbellTailWrite : 0 < ((wState []).ctx 0).sched.rings.toNat := by decide
theorem witness_DoorbellHeadWrite : let r := ((wRings wRing2 .run).ctx 0).ring 0
    0 < ((wRings wRing2 .run).ctx 0).sched.rings.toNat ∧ ((2 : Word) - r.cqHead).toNat ≤ (r.cqTail - r.cqHead).toNat
      ∧ (r.cqTail - r.cqHead).toNat + (((wRings wRing2 .run).ctx 0).ringDescs 0).length ≤ r.slots := by decide
theorem witness_InterruptArmAndStrayDoorbell :
    (((wState []).ctx 0).ring 0).irqEn = false
    ∧ (((wRings wRing2 .run).ctx 0).ring 0).irqEn = true
    ∧ (((wRings wRing2 .run).ctx 0).ring 0).qualifying.any (((wRings wRing2 .run).ctx 0).ring 0).pendingRecord = true
    ∧ ((wState []).ctx 1).st = .empty ∧ ((wState []).ctx 0).st ≠ .empty ∧ ¬ 1 < ((wState []).ctx 0).sched.rings.toNat := by decide
theorem witness_RingConfigurationWrites :
    ((wState []).ctx 0).st ≠ .empty ∧ fld (0x1FFA4 : DWord) 0 5 = (((wState []).ctx 0).ring 0).sizeLog2.toNat ∧ bit (0x1FFA4 : DWord) 6 = false
    ∧ fld (0x44 : DWord) 0 5 = (((wState []).ctx 0).ring 0).sizeLog2.toNat ∧ bit (0x44 : DWord) 5 = false ∧ ((wState []).ctx 0).ringDescs 0 = []
    ∧ (((wRings Ring.reset .run).ctx 0).ring 0).enable = false
    ∧ fld (5 : DWord) 0 5 ≠ (((wRings Ring.reset .run).ctx 0).ring 0).sizeLog2.toNat ∧ bit (5 : DWord) 6 = false
    ∧ fld (0x11 : DWord) 0 5 ≠ (((wState []).ctx 0).ring 0).sizeLog2.toNat
    ∧ ((wState [wD 0 []]).ctx 0).ringDescs 0 ≠ [] ∧ bit (0x24 : DWord) 5 = true
    ∧ ((wState []).dom ((wState []).ctxDom 0)).hostOffset ((0xFFFFFFFFFFFFF000 : DWord) &&& ~~~0xFFF).toNat = none
    ∧ (((wRings Ring.reset .run).dom ((wRings Ring.reset .run).ctxDom 0)).hostOffset ((0x3FFFFFFF000 : DWord) &&& ~~~0xFFF).toNat).isSome
    ∧ (((wState []).ctx 0).ring 0).enable = true := by decide
theorem witness_FetchAndAdmission : (wState []).admits 0 0 = true
    ∧ ((((wState []).ctx 0).ring 0).fetched + 4 ≤ ((((wState []).ctx 0).ring 0).sqTail - (((wState []).ctx 0).ring 0).sqHead).toNat)
    ∧ (((((wState []).ctx 0).ring 0).sqHead + BitVec.ofNat 32 (((wState []).ctx 0).ring 0).fetched).toNat
        % 2 ^ (((wState []).ctx 0).ring 0).sizeLog2.toNat) + 4 ≤ 2 ^ (((wState []).ctx 0).ring 0).sizeLog2.toNat
    ∧ (if bit (wrd [wOp 0 ||| at_ 1 16] 0) 16 ∧ (((wState []).ctx 0).ring 0).sqHead.toNat % 2 = 0 then 2 else 1) ≤ (((wState []).ctx 0).ring 0).fetched
    ∧ (((wRings wRing2 .run).ctx 0).ring 0).pendingRecord 1 = true := by decide

def wDone (op : Nat) : Desc := { wExec (wD op []) .none with st := .done }
theorem witness_CompletionRecordLayout : let s := wState [wDone 0x500]
    s.desc wRef = some (wDone 0x500) ∧ (wDone 0x500).st = .done ∧ s.frostWaits 0 0 0 = false ∧ (s.ctx 0).tearsDown (wDone 0x500).status = false
    ∧ (wDone 0x500).opcode ∈ [0x000, 0x001, 0x002, 0x003, 0x100, 0x200, 0x201, 0x300, 0x301, 0x302, 0x500, 0x501, 0x506]
    ∧ (s.ctx 0).silent = false ∧ ((s.ctx 0).ring 0).dropping = false
    ∧ ((wDone 0x500).qualifies && ((s.ctx 0).ring 0).irqEn && ((s.ctx 0).ring 0).armed) = false ∧ (s.ctx 0).st = .run := by decide
theorem witness_RingsNeverOverflow : State.reset.ringsSound := fun _ _ =>
  ⟨(by decide : Ring.reset.sizeLog2.toNat ≤ 16), (by decide : (Ring.reset.sqTail - Ring.reset.sqHead).toNat ≤ Ring.reset.slots),
    (by decide : Ring.reset.fetched ≤ (Ring.reset.sqTail - Ring.reset.sqHead).toNat),
    (by decide : (Ring.reset.cqTail - Ring.reset.cqHead).toNat + 0 ≤ Ring.reset.slots)⟩

theorem witness_IssueRespectsFencesAndPriority : (wD 0x100 []).opcode ≠ 0x506 ∧ (wD 0 []).fenceClass ≠ 0xFF ∧ (wD 0 []).order = false
    ∧ (wDesc [wOp 0 ||| at_ 0xFF 24]).opcode = 0 := by decide
theorem witness_FinishingChangesOneDescriptor : (wState [wD 0 []]).desc wRef = some (wD 0 []) := by decide

def wFrozen (ds : List Desc) : State := { wState ds with ctxs := [(0, { wCtx ds with frozen := true })] }
theorem witness_ControlGroup :
    (∀ op ∈ [0x000, 0x001, 0x002, 0x003], (wState [wD op []]).issues wRef op (wD op []) ∧ (∀ j ∈ [1, 2, 3, 4, 5, 6, 7], (wD op []).word j = 0))
    ∧ ((wState []).ctx 0).update = false ∧ ((wState []).ctx 0).frozen = false
    ∧ (∀ op ∈ [0x002, 0x003], (wFrozen [wD op []]).issues wRef op (wD op []) ∧ ((wFrozen [wD op []]).ctx 0).frozen = true)
    ∧ (∀ op ∈ [0x000, 0x001, 0x002, 0x003], (wState [wD op [0, 0, 0, 0, 0, 0, 1]]).issues wRef op (wD op [0, 0, 0, 0, 0, 0, 1])
      ∧ (wD op [0, 0, 0, 0, 0, 0, 1]).word 7 ≠ 0 ∧ ∀ n < 7, 1 ≤ n → (wD op [0, 0, 0, 0, 0, 0, 1]).word n = 0) := by
  unfold State.issues; decide

def wSt (st : CtxState) : State := { wState [] with ctxs := [(0, { wCtx [] with st := st, descs := [] })] }
theorem witness_ContextConfigStartSuspendResume :
    ((wSt .bound).ctx 0).st = .bound
    ∧ ((wSt .run).ctx 0).st = .run ∧ ((wSt .run).ctx 0).descs = [] ∧ ((wSt .run).ctx 0).sched.saving = false
    ∧ ((wSt .run).ctx 0).sched.restoring = false ∧ (wSt .run).slotsFree 0 = true ∧ ((wSt .paused).ctx 0).st = .paused := by decide
theorem witness_CloseKillAndTeardown :
    ((wSt .bound).ctx 0).st = .bound ∧ ((wSt .paused).ctx 0).st = .paused ∧ ((wSt .paused).ctx 0).descs = []
    ∧ ((wState [wD 0 []]).ctx 0).st = .run ∧ ((wState [wD 0 []]).ctx 0).descs ≠ []
    ∧ (let s : State := { wState [] with ctxs := [(0, { wCtx [wD 0 []] with st := .paused })] }
       (s.ctx 0).st = .paused ∧ (s.ctx 0).descs ≠ [] ∧ ∀ d ∈ (s.ctx 0).descs, d.runsOn = false)
    ∧ ((wSt .drain).ctx 0).st = .drain ∧ ((wSt .empty).ctx 0).st = .empty
    ∧ (let s : State := { wState [] with ctxs := [(0, { wCtx [] with st := .dead, closing := true })] }
       (s.ctx 0).st = .dead ∧ (s.ctx 0).descs = [] ∧ (s.ctx 0).closing = true)
    ∧ (let s : State := { wState [] with ctxs := [(0, { wCtx [wExec (wD 0x100 []) .none] with st := .dead })] }
       (s.ctx 0).st = .dead ∧ (s.ctx 0).closing = false ∧ (s.ctx 0).descs = [wExec (wD 0x100 []) .none]
       ∧ (wExec (wD 0x100 []) .none).st = .executing ∧ (wExec (wD 0x100 []) .none).opcode = 0x100) := by decide

/-! ### A state for every hypothesis: creation, placement, the cyclic table, models -/

/-- A creation record: tile 0, one seat, four rings, one counter block, one front block, two pool frames; window 0 is 64 KiB of stack 0. -/
def wRec : List DWord :=
  [(0x101_0108_1001 : DWord)] ++ List.replicate 31 0 ++ [(0x3 : DWord), (0x10000 : DWord)] ++ List.replicate 30 0
def wAsk (d : Dom) : State :=
  { State.reset with
    doms := [(0, d)], tiles := [(0, wTile)], stks := [(0, { Stack.reset with inService := true })]
    blu := { Bluone.reset with stage := 2 }, sec := { SecRegs.reset with done := true }
    boot := { Boot.reset with cap := 0x100000, stkGib := 4 } }
def wAskDom : Dom := { wDom with busy := true, seatMax := 4, ringMax := 64, wcMax := 8, frontMax := 8, poolMax := 8 }
theorem witness_ContextCreation : ((wAsk wDom).dom 0).busy = false ∧ fld (0x40001 : DWord) 0 2 = 1 ∧ fld (0x40001 : DWord) 2 10 = 0
    ∧ ((wAsk wAskDom).dom 0).busy = true ∧ (wAsk wAskDom).err.closed = false ∧ 2 ≤ (wAsk wAskDom).blu.stage
    ∧ ((wAsk wAskDom).dom 0).lostWhileBusy = false ∧ (wAsk wAskDom).formatting = false
    ∧ ((wAsk wDom).dom 0).external = true ∧ (wAsk wDom).domCtxs 0 = []
    ∧ ((wAsk { wDom with external := false }).dom 0).external = false ∧ ((wState []).dom 0).external = true ∧ (wState []).domCtxs 0 ≠ [] := by decide
theorem witness_ContextCreation_code0 : (wAsk wAskDom).createCode 0 (some ⟨wRec⟩) = 0 ∧ (wAsk wAskDom).freeCtx (CreateRec.rings ⟨wRec⟩) = some 0
    ∧ CreateRec.rings ⟨wRec⟩ = 4 ∧ CreateRec.pool ⟨wRec⟩ = 2 := by decide +kernel
theorem witness_ContextCreation_code2 : (wAsk { wAskDom with ctxMax := 0 }).createCode 0 (some ⟨wRec⟩) = 2 := by decide +kernel

def wWait : State :=
  { wState [] with ctxs := [(0, { wCtx [] with st := .bound, sched := { (wCtx []).sched with placed := false, place := [], queued := true, seats := 2 } })] }
def wMove (f : CtxSched → CtxSched) : State := { wState [] with ctxs := [(0, { wCtx [] with sched := f (wCtx []).sched })] }
theorem witness_PlacementAndPreemption :
    wWait.mayPlace 0 = true ∧ wWait.lostSeats 0 = []
    ∧ (wMove (fun q => { q with suspended := true })).mayPreempt 0 = true
    ∧ ((wMove (fun q => { q with saving := true })).ctx 0).sched.saving = true
    ∧ (∀ p ∈ ((wMove (fun q => { q with saving := true })).ctx 0).sched.place, ((wMove (fun q => { q with saving := true })).ctx 0).atBoundary p.1 p.2.1 = true)
    ∧ ((wMove (fun q => { q with restoring := true, images := [(0, 0)] })).ctx 0).sched.restoring = true
    ∧ ((wRings Ring.reset .run).ctx 0).sched.placed = true ∧ ((wRings Ring.reset .run).ctx 0).hasWork = false ∧ ((wState []).ctx 0).sched.placed = true ∧ ((wState []).ctx 0).descs = []
    ∧ ({ wState [] with sched := { Sched.reset with holdLimit := 5 } } : State).sched.holdLimit ≠ 0 := by decide

def wSlot : CycSlot := ⟨true, 0, 1, 800, 1000⟩
def wCyc (f : Cyclic → Cyclic) (x : Ctx) : State :=
  { wState [] with
    ctxs := [(0, x)], doms := [(0, { wDom with class2Ok := true })]
    sched := { Sched.reset with cyc := f { Cyclic.reset with en := true, live := [(3, wSlot)] } } }
def wCtx2 : Ctx := { wCtx [] with cfg := { CtxCfg.reset with cls := 2 } }
theorem witness_RingSeatAndCyclicTable :
    ((wRings Ring.reset .run).ctx 0).st ≠ .empty ∧ 0 < ((wRings Ring.reset .run).ctx 0).sched.rings.toNat
    ∧ (((wRings Ring.reset .run).ctx 0).ring 0).enable = false ∧ ((wRings Ring.reset .run).ctx 0).sched.tileMask.getLsbD (fld (0 : DWord) 0 4) = true
    ∧ fld (0 : DWord) 4 4 < ((wRings Ring.reset .run).ctx 0).sched.seats.toNat
    ∧ ((wRings Ring.reset .run).ctx 0).sched.seats.toNat ≤ fld (0x10 : DWord) 4 4
    ∧ (wState []).blu.variant ≠ .ms08
    ∧ (wCyc (fun q => { q with shadow := [(0, wSlot)] }) wCtx2).cycError = 0
    ∧ (wCyc (fun q => { q with shadow := [(0, wSlot)] }) (wCtx [])).cycError = 3
    ∧ (wCyc (fun q => { q with leadUs := 719 }) wCtx2).cycError = 1
    ∧ (wCyc (fun q => { q with checked := some ([(0, wSlot)], 1000, 800) }) wCtx2).sched.cyc.checked = some ([(0, wSlot)], 1000, 800)
    ∧ (wCyc id wCtx2).sched.cyc.en = true ∧ (wCyc id wCtx2).sched.cyc.checked = none := by decide
theorem witness_CyclicSlots :
    let bare : Ctx := { wCtx2 with st := .paused, sched := { wCtx2.sched with placed := false, place := [], resumed := true } }
    (wCyc id bare).liveSlot 3 = some wSlot ∧ ((wCyc id bare).ctx 0).slotMay = true ∧ 0 < (wCyc id bare).need 0 0 ∧ 0 ∈ tilesOf ((wCyc id bare).ctx 0).sched.tileMask.toNat ∧ ((wCyc id bare).ctx 0).sched.saving = false
    ∧ (∀ t ∈ tilesOf ((wCyc id bare).ctx 0).sched.tileMask.toNat, (wCyc id bare).need 0 t ≤ ((wCyc id bare).freeCores t).length)
    ∧ (wCyc id bare).lostSeats 0 = []
    ∧ (wCyc id wCtx2).liveSlot 3 = some wSlot ∧ (wCyc id wCtx2).slotFollows wSlot = false ∧ ((wCyc id wCtx2).ctx 0).sched.placed = true
    ∧ ((wCyc id wCtx2).ctx 0).sched.restoring = false ∧ (wCyc id wCtx2).slotsFree 0 = true
    ∧ ((wCyc id wCtx2).ctx 0).st = .run ∧ ((wCyc id wCtx2).ctx 0).descs = [] := by decide
theorem witness_CyclicSlots_nonePlaced :
    ∀ c, ((wCyc id { wCtx2 with st := .paused, sched := { wCtx2.sched with placed := false, place := [], resumed := true } }).ctx c).sched.placed
      = false := by
  intro c
  by_cases h : c = 0
  · subst h; rfl
  · simp [State.ctx, wCyc, wState, tget, Ne.symm h, Ctx.reset, CtxSched.reset]

def wSlotOf (st : SlotState) (hs : List Nat) (pin : Bool) : ModelSlot := { ModelSlot.reset with state := st, holders := hs, pin := pin, bytes := 64, id := 7 }
def wModels (ms : Tbl ModelSlot) (ds : List Desc) : State :=
  { wState ds with
    models := ms, boot := { Boot.reset with stkGib := 4 }, doms := [(0, { wDom with modelOk := true, shareOk := true, pinMax := 1 })] }
def wLoad : Desc := wD 0xA00 [0x40, 0x40, 7, 1]
theorem witness_ModelCache :
    (wModels [(2, wSlotOf .resident [5] false)] [wLoad]).issues wRef 0xA00 wLoad ∧ wLoad.st = .waiting
    ∧ (wLoad.word 1).toNat % 64 = 0 ∧ (wLoad.word 2).toNat % 64 = 0 ∧ wLoad.word 2 ≠ 0 ∧ wLoad.word 3 ≠ 0 ∧ (wLoad.word 4).toNat < 2
    ∧ (∀ j ∈ [5, 6, 7], wLoad.word j = 0) ∧ ((wModels [] [wLoad]).dom 0).modelOk = true ∧ ((wModels [] [wLoad]).dom 0).shareOk = true
    ∧ ((wModels [] [wLoad]).ctx 0).cyclic = false ∧ (wModels [] [wLoad]).boot.stkGib ≠ 0 ∧ (wLoad.word 2).toNat ≤ (wModels [] [wLoad]).modelCapacity
    ∧ (wModels [(2, wSlotOf .resident [5] false)] [wLoad]).modelMatch 0 7 64 = some 2
    ∧ (wModels [] [wLoad]).issues wRef 0xA00 wLoad ∧ (wModels [] [wLoad]).modelMatch 0 7 64 = none ∧ ((wModels [] [wLoad]).begun wRef wLoad).modelAhead wLoad = false ∧ (wModels [] [wLoad]).modelVictim = some 0
    ∧ (wModels [] [wD 0xA00 [0x40, 0, 7, 1]]).issues wRef 0xA00 (wD 0xA00 [0x40, 0, 7, 1]) ∧ (wD 0xA00 [0x40, 0, 7, 1]).word 2 = 0 := by
  unfold State.issues; decide
theorem witness_ModelCache_copy :
    let s := wModels [(1, { wSlotOf .loading [] false with loader := some (0, 0, 0) })] [wExec wLoad .none]
    s.runs wRef 0xA00 (wExec wLoad .none)
    ∧ (List.range 8).find? (fun j => (s.model j).loader == some (0, 0, 0)) = some 1
    ∧ (match (do let bs ← rdVa ((wExec wLoad .none).who 0) 0x40 0x40; wrPa ((wExec wLoad .none).who 0) (modelView 1) bs : Act Unit) s.tick with
      | .ok _ _ => true
      | .error _ _ => false) = true := by
  unfold State.runs; decide +kernel
theorem witness_ModelCache_evictPin :
    (wModels [(1, wSlotOf .resident [0] false)] [wD 0xA01 [7, 1]]).issues wRef 0xA01 (wD 0xA01 [7, 1])
    ∧ (wModels [(1, wSlotOf .resident [0] false)] []).modelNamed 0 7 = some 1
    ∧ ((wModels [(1, wSlotOf .resident [0] false)] []).model 1).holders.contains 0 = true
    ∧ ((wModels [(1, wSlotOf .resident [0] false)] []).model 1).owner = ((wModels [] []).ctx 0).sched.domain
    ∧ (wModels [(1, wSlotOf .resident [0] false)] [wD 0xA02 [7]]).issues wRef 0xA02 (wD 0xA02 [7])
    ∧ (wModels [(1, wSlotOf .resident [0] false)] []).pins_ 0 < ((wModels [] []).dom 0).pinMax.toNat
    ∧ (wModels [(1, wSlotOf .resident [0] true)] [wD 0xA03 [7]]).issues wRef 0xA03 (wD 0xA03 [7])
    ∧ ((wModels [(1, wSlotOf .resident [0] true)] []).model 1).pin = true := by
  unfold State.issues; decide

/-! ### A state for every hypothesis: the array and the vector unit -/

/-- A MATMUL of one row, one column and k products: A at 0, B at 64 KiB, DST at 128 KiB, no scaling. -/
def wMm (k : Nat) : Desc :=
  wD16 0x100 [at_ 0x10000 32, 0x20000, at_ 1 0 ||| at_ 1 9 ||| at_ k 18 ||| at_ 0xFFF 40, 0x11 ||| at_ 1 32, 1, 0, 0, 0, 0, 0x3F800000]
def actOk {α : Type} (a : Act α) (s : State) : Bool :=
  match a s with
  | .ok _ _ => true
  | .error _ _ => false
def wPass (ws : List (Nat × List Byte)) (sn : List (Nat × Bool × Nat)) : Pass := ⟨0, 1, ws, [], sn⟩
def wMmRun (ps : List Pass) (cs : Option (Nat × Nat)) : Desc := wExec (wMm 1) (.matmul 0 0 0 ps cs 0x1 none)

theorem witness_MatmulPassesAndCommit :
    (wState [wMm 1]).issues wRef 0x100 (wMm 1) ∧ (wMm 1).matmul.chainEn = false ∧ fld ((wMm 1).word 3) 40 12 = 0xFFF
    ∧ fld ((wMm 1).word 3) 52 2 = 0 ∧ firstFail ((wMm 1).matmul.checks (wMm 1) (((wState [wMm 1]).ctx 0).judged (wMm 1).muse)) = none
    ∧ firstFail (((wState [wMm 1]).ctx 0).planCheck (wMm 1).muse) = none ∧ (((wState [wMm 1]).ctx 0).seat 0 0).bad = []
    ∧ (wState [wMm 0]).issues wRef 0x100 (wMm 0) ∧ fld ((wMm 0).word 3) 18 22 = 0
    ∧ firstFail ((wMm 0).matmul.checks (wMm 0) (((wState [wMm 0]).ctx 0).judged (wMm 0).muse)) = none := by
  unfold State.issues; decide +kernel
theorem witness_MatmulPassesAndCommit_dims :
    (match runDims ((wMm 1).who 0) (wMm 1).muse ((wState [wMm 1]).begun wRef (wMm 1)) with
     | .ok r _ => decide (r = some [1, 1, 1])
     | .error _ _ => false) = true := by decide +kernel
theorem witness_MatmulPassesAndCommit_computes :
    actOk ((wMm 1).matmul.compute ((wMm 1).who 0) 0 0 none false 1 1 1 none) ((wState [wMm 1]).begun wRef (wMm 1)) = true := by
  decide +kernel
theorem witness_MatmulPassesAndCommit_release :
    let d := wMmRun [wPass [(0x20000, [1, 2, 3, 4])] []] none
    (wState [d]).arrayWorks wRef d ∧ d.prog = .matmul 0 0 0 [wPass [(0x20000, [1, 2, 3, 4])] []] none 0x1 none
    ∧ ((wState [d]).ctx 0).oldestPass 0 0 0 = true ∧ (((wState [d]).ctx 0).seat 0 0).stands = false ∧ (((wState [d]).ctx 0).seat 0 0).bad = [] := by
  unfold State.arrayWorks; decide

def wSaving (ds : List Desc) : State :=
  { wState ds with ctxs := [(0, { wCtx ds with sched := { (wCtx ds).sched with saving := true } })] }
def wArm : Desc := wD 0xF00 [0x10000, at_ 1 8]
def wDebug (b : Bool) : State := { wState [wArm] with ctxs := [(0, { wCtx [wArm] with cfg := { CtxCfg.reset with debug := b } })] }
theorem witness_ArrayFaultsAndClearSky :
    let d := wMmRun [wPass [] []] none
    (wState [d]).desc wRef = some d ∧ d.st = .executing ∧ (wState [d]).arrayPasses 0 d 0 0 = [0] ∧ ((wState [d]).ctx 0).coreOf 0 0 = some 0
    ∧ (((wState [d]).tile 0).core 0).held = false
    ∧ ((wSaving [d]).ctx 0).sched.saving = true ∧ (wSaving [d]).arrayRuns 0 0 0 = true ∧ ((wSaving [d]).ctx 0).arrayQueue 0 0 ≠ []
    ∧ (((wSaving [d]).ctx 0).seat 0 0).held = none
    ∧ (∀ b, (wDebug b).issues wRef 0xF00 wArm) ∧ (wArm.word 1).toNat % 64 = 0 ∧ fld (wArm.word 2) 8 8 ≠ 0 ∧ fld (wArm.word 2) 16 48 = 0
    ∧ (∀ j ∈ [3, 4, 5, 6, 7], wArm.word j = 0) ∧ ((wDebug true).ctx 0).cfg.debug = true ∧ ((wDebug false).ctx 0).cfg.debug = false := by
  unfold State.issues; decide
theorem witness_ArrayFaultsAndClearSky_queue :
    let p := wPass [(0x20000, [1, 2, 3, 4]), (0x20040, [5])] []
    let d := wMmRun [p] none
    (wState [d]).arrayWorks wRef d ∧ ((wState [d]).ctx 0).oldestPass 0 0 0 = true ∧ (((wState [d]).ctx 0).seat 0 0).stands = false
    ∧ (∀ row ∈ [0, 1], row < p.writes.length
      ∧ actOk ((p.writes.take row).forM (fun e => wrSeat (d.who 0) 0 0 e.1 e.2)) (wState [d]).tick = true) := by
  unfold State.arrayWorks; decide +kernel
theorem witness_ArrayFaultsAndClearSky_snapshot :
    let d := wMmRun [wPass [] [(0, true, 1)]] (some (0x10000, 0))
    (wState [d]).arrayWorks wRef d
    ∧ actOk (wrVa (d.who 0) 0x10000 (snapBytes d.seq d.ring 0 0 128 (wPass [] [(0, true, 1)]) (0, true, 1))) (wState [d]).tick = true := by
  unfold State.arrayWorks; decide +kernel

/-- A VSTREAM of n elements in one row through an inline stage that passes X on. -/
def wVs (n : Nat) : Desc :=
  wD16 0x200 [0, 0, 0, 0x10000, at_ n 0 ||| at_ 1 24 ||| at_ 1 44, at_ 0xFFF 14, 0]
def wChainD : Desc := wD 0x201 [0x10000, 3]
/-- Waits for the record of chain slot 3. -/
def wVsChain : Desc := wD16 0x200 [0, 0, 0, 0x10000, at_ 4 0 ||| at_ 1 24 ||| at_ 1 44, at_ 3 0 ||| at_ 1 8 ||| at_ 0xFFF 14, 0]
theorem witness_VectorStreamsAndChains :
    (∀ n ∈ [0, 4], (wState [wVs n]).issues wRef 0x200 (wVs n) ∧ (wVs n).vstream.chainEn = false ∧ fld ((wVs n).word 6) 14 12 = 0xFFF
      ∧ fld ((wVs n).word 6) 26 2 = 0
      ∧ firstFail ((wVs n).vstream.checks (wVs n) [(wVs n).word 7] (((wState [wVs n]).ctx 0).judged (wVs n).vuse)) = none
      ∧ firstFail (((wState [wVs n]).ctx 0).planCheck (wVs n).vuse) = none)
    ∧ (wState [wChainD]).issues wRef 0x201 wChainD ∧ (wChainD.word 1).toNat % 64 = 0 ∧ (wChainD.word 2).toNat < 64
    ∧ (∀ j ∈ [3, 4, 5, 6, 7], wChainD.word j = 0)
    ∧ chainBad (bytesWords 16 (List.replicate 128 0)) = none ∧ chainBad (bytesWords 16 ((0x10 : Byte) :: List.replicate 127 0)) = some (0, 4) := by
  unfold State.issues; decide +kernel
theorem witness_VectorStreamsAndChains_record :
    (match rdVa (wChainD.who 0) 0x10000 128 ((wState [wChainD]).begun wRef wChainD) with
     | .ok bs _ => decide (bs = List.replicate 128 0)
     | .error _ _ => false) = true := by decide +kernel
theorem witness_VectorStreamsAndChains_fill :
    let s : State := { wState [wVsChain] with ctxs := [(0, { wCtx [wVsChain] with chains := [(3, List.replicate 16 0)] })] }
    s.awaitsChain 0 0 0 3 = true ∧ ((s.ctx 0).seat 0 0).chainCache.length ≤ 8 := by decide +kernel
/-- What an action answers, or the stop that it ends with. -/
def actIs {α : Type} (p : α → Bool) (e : Stop → Bool) (a : Act α) (s : State) : Bool :=
  match a s with
  | .ok x _ => p x
  | .error st _ => e st
/-- A VSTREAM through chain slot 3, its dimensions those of plan 5 and bound slot 2: 4 elements in one row. -/
def wVsPlan : Desc := wD16 0x200 [0, 0, 0, 0x10000, 0, at_ 3 0 ||| at_ 1 8 ||| at_ 5 14 ||| at_ 1 26, 0]
def wPlanned (dim : Word) : State := { wState [wVsPlan] with ctxs := [(0, { wCtx [wVsPlan] with
  chains := [(3, at_ 1 0 :: List.replicate 15 0)], seats := [(0, { Seat.reset with chainCache := [3] })]
  plans := [(5, [at_ 2 0 ||| at_ 7 4 ||| at_ 2 16, at_ 4 0 ||| at_ 1 32, 1, 0, 0, 0, 0, 0])], bounds := [(2, (dim, 1, 1))] })] }
theorem witness_VectorStreamsAndChains_planned :
    (wPlanned 0).issues wRef 0x200 wVsPlan ∧ (wPlanned 4).issues wRef 0x200 wVsPlan ∧ (wPlanned 5).issues wRef 0x200 wVsPlan
    ∧ wVsPlan.vstream.chainEn = true
    ∧ (((wPlanned 4).ctx 0).chain wVsPlan.vstream.slot).any (fun ch => decide
        (firstFail (wVsPlan.vstream.checks wVsPlan ch.stages (((wPlanned 4).ctx 0).judged wVsPlan.vuse)) = none)) = true
    ∧ firstFail (((wPlanned 4).ctx 0).planCheck wVsPlan.vuse) = none
    ∧ wVsPlan.vuse.bound = true ∧ (((wPlanned 4).ctx 0).plan 5).isSome = true
    ∧ actIs (fun r => decide (r = some [4, 1, 1])) (fun _ => false) (runDims (wVsPlan.who 0) wVsPlan.vuse) ((wPlanned 4).begun wRef wVsPlan) = true
    ∧ actIs (fun _ => false) (fun st => st.status == 0x13) (runDims (wVsPlan.who 0) wVsPlan.vuse) ((wPlanned 5).begun wRef wVsPlan) = true := by
  unfold State.issues; decide +kernel
theorem witness_VectorStreamsAndChains_row :
    actOk ((wVs 4).vstream.row ((wVs 4).who 0) 0 0 ⟨0, [(wVs 4).word 7], (wVs 4).vstream.consts⟩ 4 1 0 0)
      ((wState [wVs 4]).begun wRef (wVs 4)) = true := by decide +kernel

/-! ### A state for every hypothesis: plans, counters, tiles of work -/

theorem witness_PlansBoundsAndCounters :
    (wState [wD 0x300 [0x10000, 0xFFE]]).issues wRef 0x300 (wD 0x300 [0x10000, 0xFFE])
    ∧ planBad (bytesWords 8 (List.replicate 64 0)) = none ∧ planBad (bytesWords 8 ((0x80 : Byte) :: List.replicate 63 0)) = some (0, 7)
    ∧ (wState [wD 0x301 [5, 0x3F_00000007]]).issues wRef 0x301 (wD 0x301 [5, 0x3F_00000007]) ∧ fld (0x3F_00000007 : DWord) 38 26 = 0
    ∧ (wFrozen [wD 0x301 [5, 7]]).issues wRef 0x301 (wD 0x301 [5, 7]) ∧ ((wFrozen []).ctx 0).frozen = true
    ∧ (wFrozen [wD 0x302 [0xF0, 9, 1]]).issues wRef 0x302 (wD 0x302 [0xF0, 9, 1])
    ∧ (wFrozen [wD 0x300 [0x10000, 0xFFE]]).issues wRef 0x300 (wD 0x300 [0x10000, 0xFFE])
    ∧ (wState [wD 0x302 [0xF0, 9, 1]]).issues wRef 0x302 (wD 0x302 [0xF0, 9, 1]) ∧ 15 < ((wState []).ctx 0).wcAllot 0
    ∧ (((wState []).tile 0).counter (((wState []).ctx 0).wcAt 0 15)).holder = none := by
  unfold State.issues; decide +kernel
theorem witness_PlansBoundsAndCounters_record :
    (match rdVa ((wD 0x300 [0x10000, 0xFFE]).who 0) 0x10000 64 ((wState [wD 0x300 [0x10000, 0xFFE]]).begun wRef (wD 0x300 [0x10000, 0xFFE])) with
     | .ok bs _ => decide (bs = List.replicate 64 0)
     | .error _ _ => false) = true := by decide +kernel
/-- Counter 15 of tile 0 serves another descriptor. -/
def wBusy (ds : List Desc) : State :=
  { wState ds with tiles := [(0, { wTile with counters := [(15, ⟨0, 9, 1, [], some (0, 1, 4)⟩)] })] }
theorem witness_PlansBoundsAndCounters_busy :
    (wBusy [wD 0x302 [0xF0, 9, 1]]).issues wRef 0x302 (wD 0x302 [0xF0, 9, 1])
    ∧ (((wBusy []).tile 0).counter (((wBusy []).ctx 0).wcAt 0 15)).holder.isSome := by
  unfold State.issues; decide

/-- A TILED_GEMM of M × 1 × K from BF16, one core, work counter 0, with the split named: A, B, C, BIAS and STAGE on pages of their own. -/
def wTg (m k split : Nat) : Desc :=
  wD16 0x303 [0x10000, 0x20000, 0x30000, 0x40000, 0x50000, at_ 64 0 ||| at_ 64 32, 64, at_ m 0 ||| at_ 1 24 ||| at_ 0xFFF 48,
    at_ k 0 ||| at_ 1 24 ||| at_ 1 28 ||| at_ split 47, at_ 1 0 ||| at_ 1 12 ||| at_ 0x3F800000 32]
def wJob (dims : List Nat) (total : Nat) (bits : List Nat) : Job :=
  { started := true, waits := [], dims := dims, latch := [], total := total, section_ := 0, bits := bits, joined := [], left := [], run := 0, dups := 0,
    flags := 0, sums := [], chunks := [] }
theorem witness_TiledGemmAndCounterFetch :
    let d := wTg 1 1 0
    (wState [d]).issues wRef 0x303 d ∧ d.prog = .none ∧ fld (d.word 8) 48 12 = 0xFFF ∧ fld (d.word 8) 60 2 = 0
    ∧ firstFail (d.tiled.checks ((wState [d]).ctx 0) d (((wState [d]).ctx 0).judged d.tuse)) = none ∧ (wState [d]).jobBusy 0 d = false
    ∧ (wState [d]).unitsLack 0 d (d.tiled.bits 1 1 1) = false ∧ (wState [d]).sliceLack d = [] ∧ fld (d.word 9) 0 24 ≠ 0 := by
  unfold State.issues; decide +kernel
def wFetch (next limit : Word) (redo : List Nat) : State :=
  { wState [wExec (wTg 1 1 0) (.job (wJob [1, 1, 1] 1 []))] with
    tiles := [(0, { wTile with counters := [(0, ⟨next, limit, 1, redo, some (0, 0, 0)⟩)] })] }
theorem witness_TiledGemmAndCounterFetch_fetch :
    let d := wExec (wTg 1 1 0) (.job (wJob [1, 1, 1] 1 []))
    (wFetch 0 1 []).desc wRef = some d ∧ d.running = some (wJob [1, 1, 1] 1 []) ∧ (wFetch 0 1 []).mayFetch 0 d (wJob [1, 1, 1] 1 []) 0 0 = true
    ∧ (wFetch 1 1 []).mayFetch 0 d (wJob [1, 1, 1] 1 []) 0 0 = true ∧ (wFetch 1 1 [0]).mayFetch 0 d (wJob [1, 1, 1] 1 []) 0 0 = true
    ∧ ((wFetch 1 1 [0]).tile 0).counter (((wFetch 1 1 [0]).ctx 0).wcAt 0 d.jobWc) = ⟨1, 1, 1, [0], some (0, 0, 0)⟩ := by decide +kernel

/-- The seat stands at a node of a work tile. -/
def wAtNode (d : Desc) (n node : Nat) : State :=
  { wState [d] with ctxs := [(0, { wCtx [d] with seats := [(0, { Seat.reset with work := some (0, 0, n, node) })] })] }
theorem witness_NodeMarksAndSections :
    let j := wJob [512, 1, 2] 4 [0]
    let d := wExec (wTg 512 2 1) (.job j)
    (wAtNode d 0 1).desc wRef = some d ∧ d.running = some j ∧ (((wAtNode d 0 1).ctx 0).seat 0 0).work = some (0, 0, 0, 1)
    ∧ ((wAtNode d 0 1).ctx 0).coresRun = true ∧ (((wAtNode d 0 1).ctx 0).coreOf 0 0).isSome ∧ 1 ≠ d.leafNode j 0
    ∧ j.bits.contains (d.bitOf j 0 1) = true ∧ d.allMarked j = false := by decide +kernel
theorem witness_ArrayFaultsAndClearSky_workTile :
    let d := wExec (wTg 1 1 0) (.job (wJob [1, 1, 1] 1 []))
    let s := (wAtNode d 0 1).modCtx 0 (fun x => { x with sched := { x.sched with saving := true } })
    (s.ctx 0).sched.saving = true ∧ s.arrayRuns 0 0 0 = true ∧ (s.ctx 0).arrayQueue 0 0 = [] ∧ ((s.ctx 0).seat 0 0).held = none := by decide +kernel
theorem witness_NodeMarksAndSections_mark :
    let j := wJob [1, 1, 1] 1 []
    let d := wExec (wTg 1 1 0) (.job j)
    d.leafNode j 0 = 1 ∧ (match runLeaf (d.whoAt 0 0 0) d j 0 (wAtNode d 0 1).tick with
      | .ok (some j1) s1 => decide (s1.desc wRef = some d) && decide (d.bitOf j1 0 1 ∉ j1.bits)
      | _ => false) = true := by decide +kernel
def wThinRun (j : Job) : Desc := wExec (wD16 0x710 []) (.job j)
theorem witness_NodeMarksAndSections_section (j : Job) (h : j = wJob [] 262145 (List.range 262144)) :
    (wState [wThinRun j]).desc wRef = some (wThinRun j) ∧ (wThinRun j).running = some j ∧ (wThinRun j).opcode ≠ 0x303
      ∧ (wThinRun j).opcode ∈ [0x407, 0x710, 0x722] ∧ j.sectionTiles ≤ j.bits.length ∧ j.section_ + j.sectionTiles < j.total
      ∧ (wState [wThinRun j]).unitsLack 0 (wThinRun j) 1 = false := by
  subst h
  refine ⟨rfl, rfl, by decide, by decide, ?_, ?_, by rfl⟩ <;> simp [Job.sectionTiles, sectionSize, wJob]

/-! ### A state for every hypothesis: keys and values

Space 0: 16 tokens a page, BF16, d = 64, so a frame is 4 KiB; its owned region at 256 KiB, one stack frame at 320 KiB and one MRDIMM-less
lower region left out; sequences 0 and 1 of one layer, one head, at most 16 tokens. -/

def wTier (fresh : Nat) : KvTier := ⟨0x50000, 2, 0, 0, fresh, [], none⟩
def wSpace (fresh : Nat) : KvSpace :=
  { KvSpace.reset with
    geom := 1, tokLog2 := 4, fmt := 1, ownVa := 0x40000, ownSize := 0x10000, pagesMax := 2, seqMax := 2, pageTail := 1
    tiers := [wTier fresh, ⟨0x60000, 1, 0, 0, 0, [], none⟩, KvTier.reset] }
/-- A page entry of two words that are not zero: state, tier 0, reference count; fill; frame 0. -/
def wEntry (state refcnt fill : Nat) : List (Nat × Byte) :=
  [(0x40100, BitVec.ofNat 8 state), (0x40102, BitVec.ofNat 8 refcnt), (0x40103, BitVec.ofNat 8 (refcnt / 256)), (0x40108, BitVec.ofNat 8 fill)]
def wSeqs : List (Nat × Byte) :=
  [(0x40140, 1), (0x40141, 1), (0x40142, 1), (0x40144, 16), (0x40149, 2), (0x40180, 1), (0x40181, 1), (0x40182, 1), (0x40184, 16), (0x40189, 3)]
def wLen (l : Nat) : List (Nat × Byte) := [(0x40200, BitVec.ofNat 8 l)]
def wMap (base : Nat) : List (Nat × Byte) := (List.range 4).map (fun i => (base + i, (0xFF : Byte)))
/-- Header: two page entries free. -/
def wHdr (use free : Nat) : List (Nat × Byte) := [(0x40008, BitVec.ofNat 8 use), (0x4001C, BitVec.ofNat 8 free)]
def wKv (m : Memory) (cls : BitVec 2) (p : KvSpace) (ds : List Desc) : State :=
  { wState ds with
    mem := m.filter (fun e => e.2 ≠ 0) ++ wMem
    ctxs := [(0, { wCtx ds with cfg := { CtxCfg.reset with cls := cls }, spaces := [(0, p)] })] }

def wSpSet : Desc := wD 0x400 [0x10000, 7]
/-- A record: GEOM 1, 16 tokens, BF16; owned 2 MiB at 2 MiB; one page, one sequence; one frame at 4 MiB. -/
def wSpRec (geom : Byte) : List Byte :=
  (wordsBytes [at_ geom.toNat 0 ||| at_ 4 2 ||| at_ 1 6, 0x200000, 0x200000, 0x1_00000001, 0x400000, 1]) ++ List.replicate 80 0
theorem witness_KeyValueSpacesAndSequences :
    (wState [wSpSet]).issues wRef 0x400 wSpSet ∧ fld (wSpSet.word 2) 3 61 = 0
    ∧ spaceBad (bytesWords 16 (wSpRec 1)) 0 = none ∧ (spaceOf (bytesWords 16 (wSpRec 1))).geom = 1
    ∧ spaceBad (bytesWords 16 (List.replicate 128 0)) 0 = none ∧ spaceBad (bytesWords 16 (wSpRec 3)) 0 = some (0, 0)
    ∧ (wKv [] 0 (wSpace 0) [wD 0x401 [0x10000, 0]]).issues wRef 0x401 (wD 0x401 [0x10000, 0])
    ∧ seqBad ⟨[at_ 1 0 ||| at_ 1 8 ||| at_ 1 16 ||| at_ 16 32, 0x200, 0, 0, 0, 0, 0, 0]⟩ (wSpace 0) 0 = none := by
  unfold State.issues; decide +kernel
theorem witness_KeyValueSpacesAndSequences_empty :
    (match (do let bs ← rdVa (wSpSet.who 0) 0x10000 128
               let b ← anySeq (wSpSet.who 0) 7
               pure (bs, b)) ((wState [wSpSet]).begun wRef wSpSet) with
     | .ok (bs, b) _ => decide (bs = List.replicate 128 0) && !b
     | .error _ _ => false) = true := by decide +kernel
theorem witness_KeyValueSpacesAndSequences_sequence :
    (match (do let bs ← rdVa ((wD 0x401 [0x10000, 0]).who 0) 0x10000 64
               let old ← rdSeq ((wD 0x401 [0x10000, 0]).who 0) 0 0
               let h ← holdsPages ((wD 0x401 [0x10000, 0]).who 0) (wSpace 0) old
               wrVa ((wD 0x401 [0x10000, 0]).who 0) ((wSpace 0).seqVa 0) bs
               pure (bs, h)) ((wKv [] 0 (wSpace 0) [wD 0x401 [0x10000, 0]]).begun wRef (wD 0x401 [0x10000, 0])) with
     | .ok (bs, h) _ => decide (bs = List.replicate 64 0) && !h
     | .error _ _ => false) = true := by decide +kernel

/-- An append of n tokens at position 0 of layer 0. -/
def wApp (n : Nat) : Desc := wD16 0x402 [0x10000, 0x20000, 0, at_ n 32 ||| at_ 1 56, 128]
theorem witness_KeyValueAppends :
    ∀ n ∈ [0, 1, 17], (wKv (wSeqs ++ wMap 0x40240) 1 (wSpace 0) [wApp n]).issues wRef 0x402 (wApp n) ∧ (wApp n).prog = .none
      ∧ (match (do let r ← rdSeq ((wApp n).who 0) 0 0
                   let s ← get
                   appendState ((wApp n).who 0) (s.ctx 0) 0x402 (wApp n).kvAppend (wSpace 0) r
                   pure r) ((wKv (wSeqs ++ wMap 0x40240) 1 (wSpace 0) [wApp n]).begun wRef (wApp n)) with
         | .ok r _ => decide (firstFail ((wApp n).kvAppend.checks (wApp n) (wSpace 0) r) = none) && decide (r.maxLen = 16)
         | .error _ _ => false) = true := by
  unfold State.issues; decide +kernel
theorem witness_KeyValueAppends_inPlace :
    (match (do let r ← rdSeq ((wApp 1).who 0) 0 0
               let ps ← appendParts ((wApp 1).who 0) 0 (wApp 1).kvAppend r
               let _ ← appendParts ((wApp 1).who 0) 0 (wApp 1).kvAppend r
               let _ ← ps.foldlM (fun (f : NumFlags) g => do
                 let x ← writePart ((wApp 1).who 0) 0 (wApp 1).kvAppend r g
                 pure (f ||| x)) 0
               pure ps) ((wKv (wEntry 1 1 0 ++ wSeqs) 1 (wSpace 1) [wApp 1]).begun wRef (wApp 1)) with
     | .ok ps _ => ps.all PagePart.inPlace && decide (ps.length = 1)
     | .error _ _ => false) = true := by decide +kernel
theorem witness_KeyValueAppends_noFrame :
    (match (do let r ← rdSeq ((wApp 1).who 0) 0 0
               let ps ← appendParts ((wApp 1).who 0) 0 (wApp 1).kvAppend r
               let got ← takePairs ((wApp 1).who 0) 0 [] 1 2 []
               let dry ← noFrameComing ((wApp 1).who 0) 0
               let _ ← hdr ((wApp 1).who 0) 0 hPagesFree
               returnTaken ((wApp 1).who 0) 0 got
               hdrInc ((wApp 1).who 0) 0 hAllocFails
               pure (ps, got, dry)) ((wKv (wHdr 0 1 ++ wSeqs ++ wMap 0x40240) 1 (wSpace 2) [wApp 1]).begun wRef (wApp 1)) with
     | .ok (ps, got, dry) _ => !ps.any PagePart.copies && decide (ps.length = 1) && decide (got = []) && dry
     | .error _ _ => false) = true := by decide +kernel
/-- An append of one token at a position; the pages that it takes. -/
def wAppAt (pos : Nat) : Desc := wD16 0x402 [0x10000, 0x20000, 0, at_ pos 0 ||| at_ 1 32 ||| at_ 1 56, 128]
def wTakes (pos : Nat) : Act (List PagePart × List (Nat × Nat)) := do
  let w := (wAppAt pos).who 0
  let r ← rdSeq w 0 0
  let ps ← appendParts w 0 (wAppAt pos).kvAppend r
  let got ← takePairs w 0 ((sources ps).map (·.old)) 1 2 []
  pure (ps, got)
def wShare2 : State := (wKv (wHdr 0 1 ++ wEntry 1 2 1 ++ wSeqs ++ wLen 1) 1 { wSpace 1 with pageHead := 1 } [wAppAt 1]).begun wRef (wAppAt 1)
theorem witness_KeyValueAppends_newPage :
    (match wTakes 0 ((wKv (wHdr 0 2 ++ wSeqs ++ wMap 0x40240) 1 (wSpace 0) [wAppAt 0]).begun wRef (wAppAt 0)) with
     | .ok (ps, got) _ => !ps.any PagePart.copies && decide (ps.length = 1 ∧ got = [(0, 0)])
     | .error _ _ => false) = true := by decide +kernel
theorem witness_KeyValueAppends_copy :
    (match wTakes 1 wShare2 with
     | .ok (ps, got) _ => ps.all PagePart.copies && decide (ps.length = 1 ∧ got = [(1, 1)])
     | .error _ _ => false) = true := by decide +kernel
theorem witness_KeyValueAppends_source :
    (match sourcesReady ((wAppAt 1).who 0) 0
       [⟨262720, 0, 0, 0, 1, 2, 0, { freeEntry 0 with state := 1, tier := 0, refcnt := 2, fill := 1 }⟩] wShare2 with
     | .ok b _ => b
     | .error _ _ => false) = true := by decide +kernel

/-- A fork of l tokens from sequence 0 to sequence 1; a free of a layer that keeps 16 tokens; a prefetch of a range. -/
def wFork (l : Nat) : Desc := wD 0x404 [at_ 1 16, at_ l 0]
def wFree (nl : Nat) : Desc := wD 0x405 [at_ nl 48, 16]
def wPre (n : Nat) : Desc := wD 0x406 [at_ 1 48, at_ n 32]
/-- The parent's one page has the greatest reference count. -/
def wFull : Memory := wEntry 2 65535 16 ++ wSeqs ++ wLen 16 ++ wMap 0x40340
theorem witness_KeyValueForkFreePrefetch :
    (∀ l ∈ [0, 16], (wKv wFull 0 (wSpace 1) [wFork l]).issues wRef 0x404 (wFork l)
      ∧ (match (do let a ← rdSeq ((wFork l).who 0) 0 0
                   let b ← rdSeq ((wFork l).who 0) 0 1
                   let la ← rd32 ((wFork l).who 0) (lenVa (wSpace 1) a 0)
                   let lb ← rd32 ((wFork l).who 0) (lenVa (wSpace 1) b 0)
                   let m ← rd32 ((wFork l).who 0) (mapVa (wSpace 1) a 0 0 0)
                   let e ← rdEntry ((wFork l).who 0) 0 m
                   pure (a, b, la, lb, e)) ((wKv wFull 0 (wSpace 1) [wFork l]).begun wRef (wFork l)) with
         | .ok (a, b, la, lb, e) _ => a.valid && b.valid && decide (a.layers = b.layers ∧ a.hkv = b.hkv ∧ la = 16 ∧ lb = 0 ∧ e.refcnt = 65535)
         | .error _ _ => false) = true)
    ∧ (∀ n ∈ [0, 1], (wKv (wSeqs ++ wLen 9 ++ wMap 0x40240) 0 (wSpace 0) [wFree n]).issues wRef 0x405 (wFree n)
      ∧ (match (do let r ← rdSeq ((wFree n).who 0) 0 0
                   let len ← rd32 ((wFree n).who 0) (lenVa (wSpace 0) r 0)
                   wr32 ((wFree n).who 0) (lenVa (wSpace 0) r 0) (min len 16)
                   pure r) ((wKv (wSeqs ++ wLen 9 ++ wMap 0x40240) 0 (wSpace 0) [wFree n]).begun wRef (wFree n)) with
         | .ok r _ => r.valid && decide (r.layers = 1 ∧ r.mapW 16 ≤ cdiv 16 16)
         | .error _ _ => false) = true)
    ∧ (∀ n ∈ [0, 5], (wKv (wSeqs ++ wMap 0x40240) 0 (wSpace 0) [wPre n]).issues wRef 0x406 (wPre n) ∧ (wPre n).prog = .none
      ∧ (match (do let r ← rdSeq ((wPre n).who 0) 0 0
                   let ms ← coverPages ((wPre n).who 0) 0 r 0 1 0 n
                   pure (r, ms)) ((wKv (wSeqs ++ wMap 0x40240) 0 (wSpace 0) [wPre n]).begun wRef (wPre n)) with
         | .ok (r, ms) _ => r.valid && decide (r.layers = 1 ∧ ms = [])
         | .error _ _ => false) = true) := by
  unfold State.issues; decide +kernel

/-- The parent's one page has one reference; a free that undefines the parent; a prefetch that pins a page of the stack tier. -/
def wShared : Memory := wEntry 2 1 16 ++ wSeqs ++ wLen 16 ++ wMap 0x40340
def wUndef : Desc := wD 0x405 [at_ 1 48, at_ 1 32]
def wPin : Desc := wD 0x406 [at_ 1 48, at_ 5 32, 1]
theorem witness_KeyValueForkFreePrefetch_shares :
    (wKv wShared 0 (wSpace 1) [wFork 16]).issues wRef 0x404 (wFork 16)
    ∧ (match (do let a ← rdSeq ((wFork 16).who 0) 0 0
                 let b ← rdSeq ((wFork 16).who 0) 0 1
                 let m ← rd32 ((wFork 16).who 0) (mapVa (wSpace 1) a 0 0 0)
                 let e ← rdEntry ((wFork 16).who 0) 0 m
                 wrEntry ((wFork 16).who 0) 0 m { e with refcnt := e.refcnt + 1 }
                 let old ← rd32 ((wFork 16).who 0) (mapVa (wSpace 1) b 0 0 0)
                 wr32 ((wFork 16).who 0) (mapVa (wSpace 1) b 0 0 0) m
                 wr32 ((wFork 16).who 0) (lenVa (wSpace 1) b 0) 16
                 pure (e, old)) ((wKv wShared 0 (wSpace 1) [wFork 16]).begun wRef (wFork 16)) with
       | .ok (e, old) _ => decide (e.refcnt = 1 ∧ old = noPage)
       | .error _ _ => false) = true := by
  unfold State.issues; decide +kernel
theorem witness_KeyValueForkFreePrefetch_undefines :
    (wKv wShared 0 (wSpace 1) [wUndef]).issues wRef 0x405 wUndef
    ∧ (match (do let r ← rdSeq (wUndef.who 0) 0 0
                 let m ← rd32 (wUndef.who 0) (mapVa (wSpace 1) r 0 0 0)
                 wr32 (wUndef.who 0) (mapVa (wSpace 1) r 0 0 0) noPage
                 let z ← decRef (wUndef.who 0) 0 m
                 wr32 (wUndef.who 0) (lenVa (wSpace 1) r 0) 0
                 advanceEpoch (wUndef.who 0) 0
                 wrVa (wUndef.who 0) ((wSpace 1).seqVa 0) (List.replicate 64 0)
                 pure (r, z)) ((wKv wShared 0 (wSpace 1) [wUndef]).begun wRef wUndef) with
       | .ok (r, z) _ => z && decide (r.layers = 1 ∧ r.mapW 16 = 1)
       | .error _ _ => false) = true := by
  unfold State.issues; decide +kernel
theorem witness_KeyValueForkFreePrefetch_pins :
    (wKv wShared 0 (wSpace 1) [wPin]).issues wRef 0x406 wPin ∧ wPin.prog = .none
    ∧ (match (do let r ← rdSeq (wPin.who 0) 0 0
                 let ms ← coverPages (wPin.who 0) 0 r 0 1 0 5
                 let e ← rdEntry (wPin.who 0) 0 0
                 wrEntry (wPin.who 0) 0 0 { e with pin := true }
                 let ms' ← coverPages (wPin.who 0) 0 r 0 1 0 5
                 let (need, _, _) ← needPage (wPin.who 0) 0 [0] 0 true
                 pure (ms, ms', e, need)) ((wKv wShared 0 (wSpace 1) [wPin]).begun wRef wPin) with
       | .ok (ms, ms', e, need) _ => decide (ms = [0] ∧ ms' = [0] ∧ e.tier = 0 ∧ need = .ready)
       | .error _ _ => false) = true := by
  unfold State.issues; decide +kernel

/-- An ATTN of nq queries on layer 0 of sequence 0, one head, one core, BF16. -/
def wAttn (nq : Nat) : Desc :=
  wD16 0x407 [0x10000, 0x20000, 0x30000, 0, at_ nq 32 ||| at_ 1 56, 0x11, at_ 128 0 ||| at_ 128 32, at_ 0x3F800000 0 ||| at_ 0x3F800000 32,
    at_ 1 0 ||| at_ 1 12]
theorem witness_AttentionStarts :
    ∀ nq ∈ [0, 1, 17], (wKv (wSeqs ++ wLen 9) 1 (wSpace 1) [wAttn nq]).issues wRef 0x407 (wAttn nq)
      ∧ (wKv (wSeqs ++ wLen 9) 1 (wSpace 1) [wAttn nq]).jobBusy 0 (wAttn nq) = false
      ∧ firstFail ((wAttn nq).attn.checks ((wKv (wSeqs ++ wLen 9) 1 (wSpace 1) [wAttn nq]).ctx 0) (wAttn nq)) = none
      ∧ (match (do let r ← rdSeq ((wAttn nq).who 0) 0 0
                   holdCounters 0 (wAttn nq)
                   let klen ← rd32 ((wAttn nq).who 0) (lenVa (wSpace 1) r 0)
                   takeEpoch ((wAttn nq).who 0) 0
                   hdrInc ((wAttn nq).who 0) 0 hUse
                   let s ← get
                   pure (r, klen, s)) ((wKv (wSeqs ++ wLen 9) 1 (wSpace 1) [wAttn nq]).begun wRef (wAttn nq)) with
         | .ok (r, klen, s4) _ => r.valid && decide ((wAttn nq).attn.layer < r.layers) && (feedClass (wAttn nq).attn.qFmt (wSpace 1).fmt).isSome
             && decide (r.hkv * (wAttn nq).attn.g ≤ 256) && !(wAttn nq).attn.shortStride (wSpace 1) r && decide (klen = 9)
             && !s4.unitsLack 0 (wAttn nq) 1 && decide (s4.sliceLack (wAttn nq) = [])
             && decide (s4.desc wRef = some { wAttn nq with st := .executing, issued := true })
         | .error _ _ => false) = true := by
  unfold State.issues; decide +kernel

/-- Page 0 moves from frame 0 of the stack tier to frame 0 of the next; the page is SPILLING. -/
def wMoving : State := wKv (wEntry 3 1 16 ++ wSeqs) 1 { wSpace 1 with moves := [⟨0, 0, 0, 1, 0⟩] } []
theorem witness_PageMovesAndRecomputesEnd :
    (wMoving.ctx 0).st ≠ .dead ∧ ((wMoving.ctx 0).space 0).moves.find? (fun m => m.page == 1) = none
    ∧ ((wMoving.ctx 0).space 0).moves.find? (fun m => m.page == 0) = some ⟨0, 0, 0, 1, 0⟩
    ∧ wMoving.moveWaits 0 0 ⟨0, 0, 0, 1, 0⟩ = false
    ∧ ((wMoving.ctx 0).space 0).recomps.find? (fun m => m.page == 0) = none
    ∧ (match (do let _ ← rdEntry (agentWho 0) 0 0
                 let s ← get
                 let bs ← rdVa (agentWho 0) 0x50000 4096
                 wrVa (agentWho 0) 0x60000 bs
                 pure (s.vaBad wWho 0x50000 4096)) (wMoving.tick.modCtx 0 (fun x => { x with spaces := tput x.spaces 0 (wSpace 1) })) with
       | .ok bad _ => !bad
       | .error _ _ => false) = true := by decide +kernel
/-- Frame 0 of the next tier takes 4,096 zero bytes over zero bytes, so the rest of the move runs as it does on the state before. -/
theorem witness_PageMovesAndRecomputesEnd_rest :
    actOk (do let e ← rdEntry (agentWho 0) 0 0
              giveFrame (agentWho 0) 0 0 0
              hdrInc (agentWho 0) 0 hSpills
              settlePage (agentWho 0) 0 0 { e with tier := 1, frame := 0 }
              reclaim (agentWho 0) 0
              resumeRelief (agentWho 0) 0)
      (wMoving.tick.modCtx 0 (fun x => { x with spaces := tput x.spaces 0 (wSpace 1) })) = true := by decide +kernel
def wRecomp : State := wKv (wEntry 6 1 0 ++ wSeqs) 1 { wSpace 2 with recomps := [⟨0, 1, 0, 0, 0⟩] } []
theorem witness_PageMovesAndRecomputesEnd_recompute :
    (wRecomp.ctx 0).st ≠ .dead ∧ (wRecomp.ctx 0).atUnits = true ∧ ((wRecomp.ctx 0).space 0).recomps.find? (fun m => m.page == 0) = some ⟨0, 1, 0, 0, 0⟩
    ∧ (match (do let e ← rdEntry wWho 0 0
                 recomputePage wWho 0 ⟨0, 1, 0, 0, 0⟩ e
                 hdrInc wWho 0 hRecomputes
                 let use ← hdr wWho 0 hUse
                 settlePage wWho 0 0 { e with tier := 0, frame := 1, lastUse := use }
                 reclaim wWho 0)
         (wRecomp.tick.modCtx 0 (fun x => { x with spaces := tput x.spaces 0 (wSpace 2) })) with
       | .ok _ _ => true
       | .error _ _ => false) = true := by decide +kernel

/-- An ATTN of one BF16 query over a 16-bit space of d = 64, with one key at position 0. -/
def wTile7 (mask qpos : Nat) : AttnCtx :=
  let ws : List DWord := [0, 0x10000, 0x11000, 0x12000, 0, at_ qpos 0 ||| at_ 1 32 ||| at_ 1 56, 1 ||| at_ 1 4 ||| at_ mask 8, at_ 128 0 ||| at_ 128 32,
    at_ 0x3E000000 0 ||| at_ 0x3F800000 32, 0, 0x15000, 0x16000, 0x18000, at_ 128 0 ||| at_ 128 32, 1, 0]
  ⟨(wDesc ws).attn, { KvSpace.reset with geom := 1, tokLog2 := 4, fmt := 1, dsel := 0 }, ⟨[]⟩, 1⟩
theorem witness_AttentionTileValues :
    (wTile7 0 0).p.narrow = false ∧ ((wTile7 0 0).a.rows 0).length = 1
    ∧ (keysOf (wTile7 0 0).klen 0).map ((wTile7 0 0).a.admits ((wTile7 0 0).a.qpos + ((wTile7 0 0).a.rows 0).getD 0 0)) = [true]
    ∧ actOk ((wTile7 0 0).forwardBlock wWho 0 0 0 [⟨0, 0, 0, 0, List.replicate 128 0, List.replicate 128 0⟩]
        ⟨0, [OnlineRow.start 64], 0, []⟩) (wState []) = true
    ∧ (wTile7 0 0).a.oFmt ≤ 2 ∧ (wTile7 0 0).a.gFmt ≤ 2
    ∧ (∀ qb < cdiv (wTile7 0 0).a.nq 128, (wTile7 1 0).a.meets 200 ((wTile7 1 0).a.rows qb) 1 = false)
    ∧ actOk ((wTile7 0 0).forwardEnd wWho 0 0 ⟨1, [OnlineRow.start 64], 0, []⟩) (wState []) = true
    ∧ svZero.val ≠ .nan := by decide +kernel

/-! ### A state for every hypothesis: translations, the DMA engine, memories -/

def wHas (x : XEntry) (s : State) : State := { s with ctxs := s.ctxs.map (fun e => (e.1, { e.2 with xl := { e.2.xl with cache := [x] } })) }
def wBigPage : XEntry := ⟨0, 0x200000, 0, true, true, 0⟩
def xok {α : Type} (r : Except XFail α) : Bool :=
  match r with
  | .ok _ => true
  | .error _ => false
theorem witness_TranslationsOfAContext :
    ((wSt .bound).ctx 0).st = .bound ∧ ((wSt .paused).ctx 0).st = .paused
    ∧ (∀ n ∈ [0, 0x10000], (wState [wD 0x506 [0x10000, at_ n 0]]).issues wRef 0x506 (wD 0x506 [0x10000, at_ n 0])) := by
  unfold State.issues; decide +kernel
theorem witness_TranslationsOfAContext_walk :
    (wState [wExec (wD 0x500 []) .none]).desc wRef = some (wExec (wD 0x500 []) .none) ∧ (wExec (wD 0x500 []) .none).st = .executing
    ∧ xok ((wState [wExec (wD 0x500 []) .none]).walk 0 0 0x1FFFFF) = true ∧ xok ((wState [wExec (wD 0x500 []) .none]).walk 0 0 0x200000) = false := by
  decide +kernel
theorem witness_TranslationsOfAContext_entry :
    xok ((wState []).xentry 0 0 0x1FFFFF) = true ∧ xok ((wHas wBigPage (wState [])).xentry 0 0 0) = true
    ∧ xok ((wHas wBigPage (wState [])).xlate 0 0 0x1FFFFF 1 true) = true := by
  decide +kernel
/-- The first 2 MiB without W. -/
def wNoWrite : State := { wState [] with mem := (wState []).mem.map (fun e => if e.1 = 0x202000 then (e.1, 0x07) else e) }
theorem witness_TranslationsOfAContext_readOnly :
    (match wNoWrite.xentry 0 0 0 with
     | .ok (e, _) => !e.w
     | .error _ => false) = true := by decide +kernel

/-- A DMA_COPY of d0 bytes from VA 64 KiB to VA 128 KiB, in `rows` rows of 64 B steps; or from the scratchpad in layout `lay`. -/
def wCopy (d0 rows : Nat) : Desc := wD 0x500 [0x10000, 0x20000, at_ 0xFFF 16, at_ d0 0 ||| at_ rows 32, 1, at_ 64 0, at_ 64 0]
def wCopySkew : Desc := wD 0x500 [0, 0x20000, at_ 1 0 ||| at_ 1 2 ||| at_ 1 4 ||| at_ 1 8 ||| at_ 0xFFF 16, at_ 2 0 ||| at_ 1 32, 1, at_ 64 0]
theorem witness_CopiesAndPrefetches :
    (∀ p ∈ [(0, 1), (64, 1), (64, 2)], (wState [wCopy p.1 p.2]).issues wRef 0x500 (wCopy p.1 p.2)
      ∧ (wCopy p.1 p.2).cuse.plan = 0xFFF ∧ (wCopy p.1 p.2).cuse.bound = false
      ∧ firstFail ((wCopy p.1 p.2).copy.checks ((wState [wCopy p.1 p.2]).ctx 0) (wCopy p.1 p.2) (some (wCopy p.1 p.2).cuse.imm)) = none
      ∧ firstFail [frozenSp ((wState [wCopy p.1 p.2]).ctx 0) (wCopy p.1 p.2).copy.dst.sp] = none)
    ∧ actOk (do judgeDst ((wCopy 64 1).who 0) 0 64 [0x20000]
                let bs ← rdSp ((wCopy 64 1).who 0) 0 0x10000 64
                wrSp ((wCopy 64 1).who 0) 0 0x20000 bs) ((wState [wCopy 64 1]).begun wRef (wCopy 64 1)) = true
    ∧ actOk (do (wCopy 64 2).copy.judge ((wCopy 64 2).who 0) [64, 2, 1]
                (wCopy 64 2).copy.plain ((wCopy 64 2).who 0) 64 2 1) ((wState [wCopy 64 2]).begun wRef (wCopy 64 2)) = true
    ∧ (wState [wCopySkew]).issues wRef 0x500 wCopySkew
    ∧ firstFail (wCopySkew.copy.checks ((wState [wCopySkew]).ctx 0) wCopySkew (some wCopySkew.cuse.imm)) = none
    ∧ wCopySkew.copy.layout = 1
    ∧ actOk (wCopySkew.copy.laid (wCopySkew.who 0) 2 1) ((wState [wCopySkew]).begun wRef wCopySkew) = true := by
  unfold State.issues; decide +kernel
/-- A PARAM_PREFETCH of n bytes to byte 64 of the pool window of tile 0, which has one frame. -/
def wPp (n : Nat) : Desc := wD 0x505 [0x10000, at_ 64 0 ||| at_ 1 32, at_ n 0]
def wPool (ds : List Desc) : State :=
  { wState ds with ctxs := [(0, { wCtx ds with xl := { (wCtx ds).xl with poolWin := [(0, (0, 1))] } })] }
theorem witness_CopiesAndPrefetches_prefetch :
    (∀ n ∈ [0, 64, 0x100000], (wPool [wPp n]).issues wRef 0x505 (wPp n) ∧ fld ((wPp n).word 3) 0 32 % 64 = 0)
    ∧ tilesOf (fld ((wPp 64).word 2) 32 12) = [0] ∧ (((wPool []).ctx 0).poolWindow 0).2 = 0x100000
    ∧ actOk (do let bs ← rdVa ((wPp 64).who 0) 0x10000 64
                [0].forM (fun t => wrPool ((wPp 64).who 0) t ((((wPool []).ctx 0).poolWindow t).1 + 64) bs))
        ((wPool [wPp 64]).begun wRef (wPp 64)) = true := by
  unfold State.issues; decide +kernel

def wActPool (saves : List (List Nat)) (entries bytes : Nat) : ActPool := ⟨true, entries, 0x30000, [(0x40000, bytes), (0, 0), (0, 0)], [0, 0, 0], saves⟩
def wActs (p : Tbl ActPool) (m : Memory) (ds : List Desc) : State :=
  { wState ds with mem := m ++ wMem, ctxs := [(0, { wCtx ds with actPools := p })] }
def wSave : Desc := wD16 0x502 [0, 1, at_ 64 0 ||| at_ 64 32, 64]
/-- A load of save i, released or not. -/
def wActLoad (i : Nat) (rel : Bool) : Desc := wD16 0x503 [0, at_ 1 0 ||| at_ (if rel then 1 else 0) 6 ||| at_ i 8, at_ 4096 0 ||| at_ 1 32, 4096]
def wOneSave : List Nat := [0, 0, 0, 65, 0, 4096, 0]
theorem witness_ActivationPools :
    (∀ sv ∈ [[], [wOneSave]], (wActs [(2, wActPool sv 4 0x10000)] [] [wD 0x501 [0x10000, 2]]).issues wRef 0x501 (wD 0x501 [0x10000, 2]))
    ∧ poolBad (bytesWords 8 (List.replicate 64 0)) = none
    ∧ actOk (rdVa ((wD 0x501 [0x10000, 2]).who 0) 0x10000 64) ((wActs [] [] [wD 0x501 [0x10000, 2]]).begun wRef (wD 0x501 [0x10000, 2])) = true
    ∧ (∀ p ∈ [[], [(0, wActPool [wOneSave] 1 0x10000)], [(0, wActPool [] 4 0x1000)], [(0, wActPool [] 4 0x10000)]],
        (wActs p [] [wSave]).issues wRef 0x502 wSave ∧ firstFail (wSave.act.checks ((wActs p [] [wSave]).ctx 0)) = none)
    ∧ (wActPool [] 4 0x1000).room ((wActs [] [] [wSave]).begun wRef wSave) wWho 4160 = none
    ∧ (wActPool [] 4 0x10000).room ((wActs [] [] [wSave]).begun wRef wSave) wWho 4160 = some 0
    ∧ (∀ p ∈ [([], 0, false), ([(0, wActPool [] 4 0x10000)], 0, false), ([(0, wActPool [wOneSave, wOneSave] 4 0x10000)], 0, true),
          ([(0, wActPool [wOneSave] 4 0x10000)], 0, false)],
        (wActs p.1 [] [wActLoad p.2.1 p.2.2]).issues wRef 0x503 (wActLoad p.2.1 p.2.2)
        ∧ firstFail ((wActLoad p.2.1 p.2.2).act.checks ((wActs p.1 [] [wActLoad p.2.1 p.2.2]).ctx 0)) = none) := by
  unfold State.issues; decide +kernel
/-- A record of a valid pool: 4 entries, its table at 192 KiB, one region of 64 KiB at 256 KiB in the stack tier. -/
def wPoolRec : List Byte := wordsBytes [at_ 1 0 ||| at_ 4 8, 0x30000, 0x40000, 0x10000, 0, 0, 0, 0]
def wPoolMem : Memory := (((List.range 64).map (fun i => (0x10000 + i, wPoolRec.getD i 0))).filter (fun e => e.2 ≠ 0)) ++ wMem
theorem witness_ActivationPools_set :
    let s : State := { wState [wD 0x501 [0x10000, 2]] with mem := wPoolMem }
    s.issues wRef 0x501 (wD 0x501 [0x10000, 2])
    ∧ (match rdVa ((wD 0x501 [0x10000, 2]).who 0) 0x10000 64 (s.begun wRef (wD 0x501 [0x10000, 2])) with
       | .ok bs s1 => decide (bs = wPoolRec) && (s1.ctx 0).pool 2 == ActPool.reset
           && actOk (do let ps ← xlRange ((wD 0x501 [0x10000, 2]).who 0) 0x40000 0x10000 true
                        require (ps.all (fun q => s1.ofTier 0 q.1)) (badRecord 2 0)) s1
       | .error _ _ => false) = true
    ∧ poolBad (bytesWords 8 wPoolRec) = none ∧ bit (wrd (bytesWords 8 wPoolRec) 0) 0 = true
    ∧ ((poolOf (bytesWords 8 wPoolRec)).regions.getD 2 (0, 0)).2 = 0 := by
  unfold State.issues; decide +kernel
theorem witness_ActivationPools_save :
    actOk (do judgeVa (wSave.who 0) 0x40000 4160
              judgeVa (wSave.who 0) 0x30000 16
              let rows ← (List.range 64).mapM (fun r => rdSp (wSave.who 0) 1 (r * 64) 64)
              wrVa (wSave.who 0) 0x40000 (pad64 (leBytes 4 64))
              wrVa (wSave.who 0) 0x40040 rows.flatten) ((wActs [(0, wActPool [] 4 0x10000)] [] [wSave]).begun wRef wSave) = true
    ∧ actOk (wrVa (wSave.who 0) 0x30000 (wordsBytes [at_ 65 8, 0])) ((wActs [(0, wActPool [] 4 0x10000)] [] [wSave]).begun wRef wSave) = true := by
  decide +kernel
theorem witness_ActivationPools_load :
    (match (do judgeDst ((wActLoad 0 false).who 0) 1 4096 [0]
               let dir ← rdVa ((wActLoad 0 false).who 0) 0x40000 64
               let bs ← rdVa ((wActLoad 0 false).who 0) 0x40040 4096
               wrSp ((wActLoad 0 false).who 0) 1 0 bs
               pure dir)
        ((wActs [(0, wActPool [wOneSave] 4 0x10000)] [(0x40000, 64)] [wActLoad 0 false]).begun wRef (wActLoad 0 false)) with
     | .ok dir _ => decide (leNat (dir.take 4) = 64)
     | .error _ _ => false) = true := by decide +kernel

/-- A MEM_ADD of two rows' worth of FP32 elements from VA 64 KiB to VA 128 KiB. -/
def wAdd (d0 sp : Nat) : Desc := wD16 0x504 [if sp = 1 then 0 else 0x10000, 0x20000, at_ sp 0 ||| at_ 0xFFF 14, at_ d0 0 ||| at_ 1 32]
def wAddRun (l : AddLine) : Desc := wExec (wAdd 2 1) (.memAdd 0 0 [l] 1 0 false [(l.pa, 8)])
def wLine (pa : Nat) : AddLine := ⟨0x20000, pa, 0, 0, [0x3F800000, 0x40000000]⟩
theorem witness_MemoryAdds :
    (∀ n ∈ [0, 2], (wState [wAdd n 1]).issues wRef 0x504 (wAdd n 1) ∧ (wAdd n 1).adduse.plan = 0xFFF ∧ (wAdd n 1).adduse.bound = false ∧ (wAdd n 1).prog = .none
      ∧ firstFail (addChecks ((wState [wAdd n 1]).ctx 0) (wAdd n 1) (some (wAdd n 1).adduse.imm)) = none)
    ∧ (∀ sp ∈ [0, 1], (match (do judgeAdd 0 (wAdd 2 sp) [2, 1]
                                 if sp = 0 then let _ ← xlRange ((wAdd 2 sp).who 0) 0x10000 8 false else pure ()
                                 let ps ← xlRange ((wAdd 2 sp).who 0) 0x20000 8 true
                                 let s ← get
                                 let _ ← rdSp ((wAdd 2 sp).who 0) sp (if sp = 1 then 0 else 0x10000) 8
                                 pure (ps, s)) ((wState [wAdd 2 sp]).begun wRef (wAdd 2 sp)) with
       | .ok (ps, s1) _ => decide (ps = [(0x20000, 8)]) && decide (s1.backing 0x20000 = .stack 0) && !s1.guardedRange (s1.home 0x20000) 8
           && !s1.addBusy 0 0 0 (wAdd 2 sp) [(0x20000, 8)]
       | .error _ _ => false) = true)
    ∧ ({ wState [wAdd 2 1] with ctxs := (wState [wAdd 2 1, { wAddRun (wLine 0x20000) with index := 9 }]).ctxs } : State).addBusy 0 0 0 (wAdd 2 1)
        [(0x20000, 8)] = true
    ∧ (wState [wAddRun (wLine 0x20000)]).runs wRef 0x504 (wAddRun (wLine 0x20000)) ∧ ((wState []).ctx 0).sched.placed = true
    ∧ ((wState []).ctx 0).sched.restoring = false
    ∧ actOk (addLine ((wAddRun (wLine 0x20000)).who 0) (wAddRun (wLine 0x20000)).addForm (wLine 0x20000)) (wState [wAddRun (wLine 0x20000)]) = true
    ∧ (let s : State := { wState [wAddRun (wLine 0x20000)] with ueLines := [0x20000 / 64] }
       actOk (addLine ((wAddRun (wLine 0x20000)).who 0) (wAddRun (wLine 0x20000)).addForm (wLine 0x20000)) s = false) := by
  unfold State.issues State.runs; decide +kernel

def wAddTwo : Desc := wExec (wAdd 2 1) (.memAdd 0 0 [wLine 0x20000, wLine 0x20040] 1 0 false [(0x20000, 8)])
theorem witness_MemoryAdds_next :
    (wState [wAddTwo]).runs wRef 0x504 wAddTwo
    ∧ ([wLine 0x20000, wLine 0x20040].filter (fun x => x.row == lowestRow [wLine 0x20000, wLine 0x20040] 1))[1]? = some (wLine 0x20040)
    ∧ [wLine 0x20000, wLine 0x20040].filter (· == wLine 0x20040) = [wLine 0x20040]
    ∧ actOk (addLine (wAddTwo.who 0) wAddTwo.addForm (wLine 0x20040)) (wState [wAddTwo]) = true := by
  unfold State.runs; decide +kernel

/-- Channel 3 in service; core 5 of tile 0 held. -/
def wFit : State :=
  { wState [] with dimms := [(3, { Dimm.reset with state := 1 })], tiles := [(0, { wTile with cores := [(5, { Core.reset with held := true })] })] }
def wTired (n : Half) (b : Bool) : State :=
  { wState [] with tiles := [(0, { wTile with cores := [(5, { Core.reset with held := true, faultCnt := n, faultInTest := b })] })] }
def wUnread (b : BadWord) : State := (wState [wCopy 64 1]).modCtx 0 (fun x => { x with badWords := [b] })
theorem witness_ScrubsAndSelfTests_stores :
    (∀ b ∈ [⟨.fabric, 0, 0, 0, 0x2804⟩, ⟨.saveImage, 0, 15, 0, 5⟩], (wUnread b).desc wRef = some (wCopy 64 1) ∧ (wCopy 64 1).opcode = 0x500
      ∧ (wUnread b).mayIssue 0 (wCopy 64 1) = true ∧ (wUnread b).badFor 0 (wCopy 64 1) = [b] ∧ b.unit < 16
      ∧ (match unitDmaCopy 0 (wCopy 64 1) ((wUnread b).begun wRef (wCopy 64 1)) with
        | .ok (some st) _ => st.status == 0
        | _ => false) = true)
    ∧ ((wState [wCopy 64 1]).ctx 0).st = .run ∧ (wCopy 64 1).st ≠ .done ∧ (wState []).lnk.epid.toNat ≠ 5 ∧ (wState []).blu.halted = false
    ∧ (wState []).pins.inputGood = true := by decide +kernel
theorem witness_ScrubsAndSelfTests :
    0 < wFit.nStacks ∧ (wFit.stack 0).inService = true ∧ (wFit.stack 0).lost = false ∧ wFit.backing 0x40 = .stack 0
    ∧ wFit.seatOn 0 0 = some (0, 0) ∧ (wFit.dimm 3).state = 1 ∧ 0 < wFit.nTiles ∧ (wFit.tile 0).inService = true
    ∧ (∀ n ∈ [0, 2, 3], ((wTired (BitVec.ofNat 16 n) false).tile 0).core 5 = { Core.reset with held := true, faultCnt := BitVec.ofNat 16 n }) := by decide +kernel

/-! ### A state for every hypothesis: the Permafrost tier; the 2 MiB at VA 2 MiB lie on it -/

def wFrost (f : PmtDev → PmtDev) (x : Ctx → Ctx) (ds : List Desc) : State :=
  { wState ds with
    mem := wMem ++ [(0x202008, 0x0F), (0x20200D, 0x10)]
    ctxs := [(0, x { wCtx ds with xl := { (wCtx ds).xl with windows := [(0, ⟨true, true, 0, 0x400000⟩), (1, ⟨true, true, 0x100000000000, 0x200000⟩)] } })]
    pmt := { Pmt.reset with inService := true, nextReq := 9, devs := (List.range 8).map (fun n => (n, f { PmtDev.reset with state := 2 })) } }
def wDev (f : PmtDev → PmtDev) : State := wFrost f id []
def wReq (write : Bool) (tries : Nat) : PmtReq := ⟨4, write, some 7, 100, tries, 0, 0, 0, 0, [], none, none, none, false, false⟩
theorem witness_PermafrostResponses :
    (∀ k ∈ [0, 3, 4], ((wDev (fun d => { d with reqs := [wReq false k] })).pdev 0).reqByTag false 7 = some (wReq false k))
    ∧ (wDev id).frostTalks 0 = true ∧ (wDev (fun d => { d with state := 1 })).frostTalks 0 = false
    ∧ ((wDev (fun d => { d with reqs := [wReq true 0] })).pdev 0).reqByTag true 7 = some (wReq true 0)
    ∧ (∀ e ∈ (wDev id).ctxs, ∀ d ∈ e.2.descs, d.prog = .none) ∧ ((wDev id).pdev 0).spares < 1966 * 262144 := by decide

def wSent (r : Nat) : PmtSent := ⟨5, 1, [7, 100, 0], [], r⟩
theorem witness_PermafrostReplayWearAndDew :
    (∀ p ∈ ((wDev (fun d => { d with sent := [wSent 6] })).pdev 0).sent, p.resends < 7)
    ∧ ((wDev (fun d => { d with reqs := [{ wReq false 0 with reissues := 2 }] })).pdev 0).reqByTag false 7 = some { wReq false 0 with reissues := 2 }
    ∧ ((wDev (fun d => { d with reqs := [{ wReq false 0 with reissues := 3 }] })).pdev 0).reqByTag false 7 = some { wReq false 0 with reissues := 3 }
    ∧ ((wDev id).pdev 0).violTimes.length < 15 ∧ ((wDev id).pdev 0).nakOut = false
    ∧ (wDev (fun d => { d with state := 1 })).variant.full = true ∧ ((wDev (fun d => { d with state := 1 })).pdev 0).state = 1
    ∧ (wDev (fun d => { d with taken := 2 ^ 24 })).frostTalks 0 = true ∧ 2 ^ 24 ≤ ((wDev (fun d => { d with taken := 2 ^ 24 })).pdev 0).taken
    ∧ ((wDev (fun d => { d with taken := 2 ^ 24 })).pdev 0).swap = none
    ∧ ((wDev (fun d => { d with swap := some (3, 5) })).pdev 0).swap = some (3, 5)
    ∧ ((wDev (fun d => { d with swap := some (3, 5) })).pdev 0).wear = [] ∧ (wDev id).pmtMute 0 = false
    ∧ ((wDev id).pdev 0).phys 3 = 3 ∧ ((wDev id).pdev 0).phys 5 = 5 ∧ ((wDev id).pdev 0).dew = false
    ∧ (∀ l ∈ [0, 2 ^ 33 - 1], ((wDev (fun d => { d with dew := true, dewNext := l })).pdev 0).dew = true)
    ∧ ((wDev id).pdev 0).rewriteQ = [] ∧ senseGood ⟨some 5, 23, true⟩ = some 5 ∧ 5 < ((wDev id).pdie 0).dewBits.toNat
    ∧ 23 < ((wDev id).pdie 0).dewMargin.toNat ∧ ((wDev id).pdev 0).bad = [] := by decide

def wCkpt (n k : Nat) : Desc := wD 0x510 [0x200000, at_ n 0, at_ k 0]
def wCommit : Desc := wD 0x512 [0x10000, 0x200100]
theorem witness_PermafrostCheckpoints :
    (∀ n ∈ [0, 0x10000], (wFrost id id [wCkpt n 1]).issues wRef 0x510 (wCkpt n 1))
    ∧ (wFrost id (fun x => { x with frozen := true }) [wCkpt 0 1]).issues wRef 0x510 (wCkpt 0 1)
    ∧ (wFrost id (fun x => { x with ckpts := [(2, (0x20FF00, 0x10000))] }) [wCkpt 0x10000 1]).issues wRef 0x510 (wCkpt 0x10000 1)
    ∧ actOk (frostRange ((wCkpt 0x10000 1).who 0) 0x200000 0x10000 true) ((wFrost id id [wCkpt 0x10000 1]).begun wRef (wCkpt 0x10000 1)) = true
    ∧ (wFrost id id [wD 0x511 []]).issues wRef 0x511 (wD 0x511 [])
    ∧ ((wFrost id id [wD 0x511 []]).begun wRef (wD 0x511 [])).frostPending 0 none = []
    ∧ ((wFrost (fun d => { d with reqs := [{ wReq true 0 with index := 77 }] }) id [wD 0x511 []]).begun wRef (wD 0x511 [])).frostPending 0 none ≠ [] := by
  unfold State.issues; decide +kernel
theorem witness_PermafrostCheckpoints_commit :
    (wFrost id id [wCommit]).issues wRef 0x512 wCommit ∧ ((wFrost id id [wCommit]).ctx 0).ckpts = []
    ∧ (let s := wFrost id (fun x => { x with ckpts := [(2, (0x200000, 0x10000))] }) [wCommit]
       s.issues wRef 0x512 wCommit ∧ (s.ctx 0).ckpts = [(2, (0x200000, 0x10000))]
       ∧ (match (do let bs ← rdVa (wCommit.who 0) 0x10000 256
                    let ps ← frostRange (wCommit.who 0) 0x200000 0x10000 true
                    let u ← get
                    wrVa (wCommit.who 0) 0x200100 bs
                    pure (u.frostPending 0 (some ps))) (s.begun wRef wCommit) with
          | .ok ids _ => decide (ids = [])
          | .error _ _ => false) = true)
    ∧ (let s := wFrost (fun d => { d with reqs := [{ wReq true 0 with index := 77, line := 1 }] })
         (fun x => { x with ckpts := [(2, (0x200000, 0x10000))] }) [wCommit]
       (match (do let _ ← rdVa (wCommit.who 0) 0x10000 256
                  let ps ← frostRange (wCommit.who 0) 0x200000 0x10000 true
                  let u ← get
                  pure (u.frostPending 0 (some ps))) (s.begun wRef wCommit) with
        | .ok ids _ => !ids.isEmpty
        | .error _ _ => false) = true) := by
  unfold State.issues; decide +kernel

/-! ### A state for every hypothesis: HAIL -/

def wHail (m : Memory) (f : Ctx → Ctx) (ds : List Desc) : State := { wState ds with mem := m ++ wMem, ctxs := [(0, f (wCtx ds))] }
def wGrp (st : GroupState) : HailGroup := { HailGroup.reset with valid := true, state := st, expect := 5, prepTag := if st = .idle then 0 else 5 }
def wRange (ptr : Nat) : HailRange := ⟨true, 0, false, 1, 0, 0x50000, 0x60000, 64, 0, ptr⟩
def wPrep (tag : Nat) : Desc := wD 0x600 [at_ tag 32, 0xFFFFFFFF]
/-- ETA 1, LAMBDA 0. -/
def wComm : Desc := wD 0x601 [at_ 5 32, 0x3F800000]
def wCommRun (bad : Option DWord) : Desc := wExec wComm (.hail 64 0 0 bad)
theorem witness_HailTransactions :
    (∀ t ∈ [5, 6], (wHail [] (fun x => { x with groups := [(0, wGrp .idle)] }) [wPrep t]).issues wRef 0x600 (wPrep t)
      ∧ (wPrep t).frontId 2 = 0xFFFFFFFF)
    ∧ (∀ t ∈ [5, 6], (wHail [] (fun x => { x with groups := [(0, wGrp .partial_)] }) [wPrep t]).issues wRef 0x600 (wPrep t))
    ∧ (∀ r ∈ [[], [(3, wRange 0)]],
        (wHail [] (fun x => { x with update := true, groups := [(0, wGrp .prepared)], ranges := r }) [wComm]).issues wRef 0x601 wComm)
    ∧ etaOk (BitVec.ofNat 32 (fld (wComm.word 2) 0 32)) = true ∧ lambdaOk (BitVec.ofNat 32 (fld (wComm.word 2) 32 32)) = true
    ∧ ((wHail [] (fun x => { x with ranges := [(3, wRange 0)] }) []).hailNext 0 0 0).isSome
    ∧ (wHail [] (fun x => { x with update := true, ranges := [(3, wRange 64)] }) [wCommRun none]).runs wRef 0x601 (wCommRun none)
    ∧ (wHail [] (fun x => { x with update := true, ranges := [(3, wRange 64)] }) [wCommRun (some 9)]).runs wRef 0x601 (wCommRun (some 9))
    ∧ ((wState []).ctx 0).waitsHere = true ∧ (∀ n < 12, (wHail [] (fun x => { x with ranges := [(3, wRange 64)] }) []).hailNext 0 0 n = none)
    ∧ (wHail [] (fun x => { x with ranges := [(3, wRange 64)] }) []).groupStacks 0 0 ≠ []
    ∧ (∀ p ∈ [0, 64], (wHail [] (fun x => { x with update := true, groups := [(0, wGrp .prepared)], ranges := [(3, wRange p)] })
        [wD 0x602 []]).issues wRef 0x602 (wD 0x602 [])) := by
  unfold State.issues State.runs; decide +kernel
/-- A weight line of the range at 320 KiB. -/
theorem witness_HailTransactions_line :
    let s := wHail [] (fun x => { x with ranges := [(3, wRange 0)] }) [wCommRun none]
    (List.replicate 64 (0 : Byte)).length = 64
    ∧ (hailParts ((wCommRun none).who 0) 0 ((wCommRun none).hailUse (wGrp .prepared)) (wRange 0) 0 (List.replicate 64 0) ((wRange 0).gBytes / 2) s).2.1.length = 64 := by
  decide +kernel

/-- One line of the range's two has been updated; the lines read as zeros. -/
def wWeights (r : HailRange) (ue : List Nat) : State :=
  { wHail [] (fun x => { x with update := true, groups := [(0, wGrp .committing)], ranges := [(3, r)] }) [wExec wComm (.hail 0 0 0 none)] with ueLines := ue }
theorem witness_HailWeightLines :
    (let d := wExec wComm (.hail 0 0 0 none)
     ∀ ue ∈ [[], [0x50000 / 64]], (wWeights (wRange 0) ue).runs wRef 0x601 d ∧ ((wWeights (wRange 0) ue).ctx 0).waitsHere = true
       ∧ (wWeights (wRange 0) ue).hailNext 0 0 0 = some (3, wRange 0)
       ∧ (wWeights (wRange 0) ue).stackOf 0x50000 128 = some 0 ∧ (wWeights (wRange 0) ue).stackOf 0x60000 256 = some 0 ∧ (wWeights (wRange 0) ue).mem.wf = true
       ∧ (wWeights (wRange 0) ue).lineBad (0x50000 / 64) = !ue.isEmpty
       ∧ (∀ l ∈ linesOf 0x60000 128, (wWeights (wRange 0) ue).lineBad l = false))
    ∧ (let d := { wExec wComm .none with st := .done }
       (wHail [] (fun x => { x with update := true, groups := [(0, wGrp .committing)], ranges := [(3, wRange 64)] }) [d]).desc wRef = some d
       ∧ (wHail [] id [d]).frostWaits 0 0 0 = false)
    ∧ (f32val (elemF32 0 0x7FC00000) == Val.nan) = true ∧ (f32val (elemF32 1 0x3F80)).special = false := by
  unfold State.runs; decide +kernel

def wGs : Desc := wD 0x603 [0x10000, 0]
def wRs : Desc := wD 0x604 [0x10000, 3]
/-- A group record: VALID, EXPECT 5. A range record: VALID, group 0, BF16 and FP32, W at 320 KiB, G at 384 KiB, 64 elements. -/
def wGsRec (v : Byte) : Memory := if v = 0 then [] else [(0x10000, v), (0x10004, 5)]
def wRsRec : Memory := [(0x10000, 1), (0x10001, 1), (0x1000A, 5), (0x10012, 6), (0x10018, 64)]
theorem witness_HailObjects :
    (∀ g ∈ [wGrp .idle, wGrp .partial_], (wHail (wGsRec 1) (fun x => { x with groups := [(0, g)] }) [wGs]).issues wRef 0x603 wGs)
    ∧ actOk (rdVa (wGs.who 0) 0x10000 64) ((wHail (wGsRec 1) id [wGs]).begun wRef wGs) = true
    ∧ recordRsv (bytesWords 8 ([1, 0, 0, 0, 5] ++ List.replicate 59 0))
        [(0, 1, 31), (2, 32, 32), (3, 0, 64), (4, 0, 64), (5, 0, 64), (6, 0, 64), (7, 0, 64)] = none
    ∧ (∀ m ∈ [[], wRsRec], (wHail m (fun x => { x with groups := [(0, wGrp .idle)] }) [wRs]).issues wRef 0x604 wRs)
    ∧ (wState [wD 0x605 [0x20000, 0]]).issues wRef 0x605 (wD 0x605 [0x20000, 0])
    ∧ actOk (wrVa ((wD 0x605 [0x20000, 0]).who 0) 0x20000 (wordsBytes (((wState []).ctx 0).hailStatus 0)))
        ((wState [wD 0x605 [0x20000, 0]]).begun wRef (wD 0x605 [0x20000, 0])) = true := by
  unfold State.issues; decide +kernel
theorem witness_HailObjects_range :
    (match (do let bs ← rdVa (wRs.who 0) 0x10000 64
               modify (fun (s : State) => s.setProg 0 0 0 (.hailSet (bytesWords 8 bs) []))
               let u ← get
               let a ← xlRange (wRs.who 0) 0x50000 128 true
               let b ← xlRange (wRs.who 0) 0x60000 256 false
               let s ← get
               pure (bytesWords 8 bs, u, a, b, s)) ((wHail wRsRec (fun x => { x with groups := [(0, wGrp .idle)] }) [wRs]).begun wRef wRs) with
     | .ok (ws, u, a, b, s3) _ => decide (rangeBad ws = none) && (u.ctx 0).rangeFree { wRs with prog := .hailSet ws [], st := .executing }
         && decide (a = [(0x50000, 128)]) && decide (b = [(0x60000, 256)]) && decide (s3.stackOf 0x50000 128 = some 0)
         && decide (s3.stackOf 0x60000 256 = some 0) && decide ((s3.ctx 0).ranges = [])
     | .error _ _ => false) = true := by decide +kernel
/-- The range's group is being committed by another descriptor. -/
theorem witness_HailObjects_waits :
    let c : Desc := { wCommRun none with index := 4 }
    let ws := bytesWords 8 ([1, 1] ++ List.replicate 62 0)
    let s := wHail [] (fun x => { x with update := true, groups := [(0, wGrp .committing)] }) [c, { wExec wRs (.hailSet ws []) with index := 5 }]
    (s.ctx 0).rangeFree { wExec wRs (.hailSet ws []) with index := 5 } = false := by decide +kernel

/-! ### A state for every hypothesis: Vexja -/

/-- Port 0 of a module with EPID 1, whose route to EPID 2 names port 0. -/
def wLink (f : Port → Port) (ds : List Desc) : State :=
  let s := wState ds
  { s with lnk := { s.lnk with epid := 1, routes := [(2, 0x100)], ports := [(0, f { Port.reset with state := 3, cable := .read 1000 true, ver := 1, lanes := 0xF })] },
           sec := { s.sec with configOk := true }, boot := { s.boot with steps := [10] }, blu := { s.blu with otp := [] } }
/-- The header of a SIGNAL for EPID 1, VC0. -/
def wSigHdr : List DWord := [0x0000000200010011, 0, 0, 0]
def wFrame (hi : DWord) (flip : Word) : Frame :=
  ⟨[⟨0, wSigHdr⟩], 1, hi, frameCrc [⟨0, wSigHdr⟩] 1 hi + flip, true⟩
/-- ACK FFFFFF of a port that has sent nothing. -/
theorem witness_VexjaFramesAndReplay :
    let s := wLink (fun k => { k with credits := [32, 160, 64, 256], rxHeld := [31, 0, 0, 0] }) []
    let k := s.port 0
    let f := wFrame 0xFFFFFF 0
    s.hasPort 0 = true ∧ k.state = 3 ∧ f.good = true ∧ f.type 0 = 1 ∧ (∀ i < 20, 0 < i → f.type i = 0) ∧ f.nak = false
    ∧ (∀ c < 4, f.credit c = 0) ∧ k.ackCount f.ack = some 0 ∧ f.fseq = k.rxLseq ∧ (∀ c < 4, k.credits.getD c 0 ≤ vcFlits.getD c 0)
    ∧ k.rxHeld.length = 4 ∧ (f.slot 0).vc % 4 = 0 ∧ k.rxHeld.getD 0 0 + k.ret.getD 0 0 < vcFlits.getD 0 0 ∧ tget [] k.partial_ 0 = []
    ∧ (⟨(List.range 4).map (wrd (f.slot 0).words), []⟩ : Pkt).malformed { k with badFrames := 0 } 0 = false
    ∧ (⟨(List.range 4).map (wrd (f.slot 0).words), []⟩ : Pkt).ndata = 0
    ∧ (wFrame 0 1).good = false ∧ (wFrame 0 1).fec = true ∧ k.nakOut = false ∧ k.sent = [] ∧ k.egress = [] ∧ k.links = []
    ∧ k.retrains.length < 3 := by
  refine ⟨by decide +kernel, by decide +kernel, by simp [wFrame, Frame.good], ?_, ?_, ?_, ?_, ?_, ?_, ?_, ?_, ?_, ?_, ?_, ?_, ?_, (by simp only [wFrame, Frame.good]; generalize frameCrc _ _ _ = c; simp), rfl, ?_, ?_, ?_, ?_, ?_⟩
  all_goals decide +kernel
/-- HB of EPID 2, and LINK_ERR; a flit on its sixth resend; a NAK outstanding. -/
def wHb : List DWord := [0x0007000000020002, 0]
theorem witness_VexjaFramesAndReplay_links :
    ((wLink (fun k => { k with rxLinks := [[3, 0], wHb] }) []).port 0).linkFlit 2 = some wHb
    ∧ ((wLink (fun k => { k with rxLinks := [[3, 0], wHb] }) []).port 0).linkFlit 3 = some [3, 0]
    ∧ fld (wrd wHb 0) 16 16 ≠ (3 : BitVec 14).toNat
    ∧ ((wLink (fun k => { k with expectEn := true, expectEpid := 3, rxLinks := [wHb] }) []).port 0).expectEn = true
    ∧ (∀ x ∈ ((wLink (fun k => { k with sent := [⟨0, ⟨0, true, wSigHdr, none⟩, 6, false⟩] }) []).port 0).sent, x.resends < 7)
    ∧ ((wLink (fun k => { k with nakOut := true }) []).port 0).nakOut = true := by decide +kernel

/-- A frame of NULL slots: its ACK takes the first of two flits, NAK, and one credit of channel 0. -/
def wNullFrame (hi : DWord) : Frame := ⟨[], 0, hi, frameCrc [] 0 hi, true⟩
theorem witness_VexjaFramesAndReplay_ack :
    let s := wLink (fun k => { k with
      credits := [31, 0, 0, 0], txLseq := 2, sent := [⟨0, ⟨0, true, wSigHdr, none⟩, 6, false⟩, ⟨1, ⟨0, true, wSigHdr, none⟩, 6, false⟩] }) []
    let f := wNullFrame 0x0000000101000000
    (∀ i < 20, f.type i = 0) ∧ f.fseq = (s.port 0).rxLseq ∧ (s.port 0).ackCount f.ack = some 1 ∧ f.nak = true ∧ f.credit 0 = 1
    ∧ (wNullFrame 0).nak = false ∧ (∀ c < 4, (s.port 0).credits.getD c 0 + f.credit c ≤ vcFlits.getD c 0)
    ∧ (∀ x ∈ (s.port 0).sent, x.flit.owner = none ∧ x.resends < 7) ∧ ((wLink (fun k => { k with state := 4 }) []).port 0).state = 4
    ∧ fld (wrd wHb 0) 16 16 = (2 : BitVec 14).toNat := by decide +kernel

theorem witness_VexjaTrainingAndConfiguration :
    (∀ ph ∈ [1, 2, 3, 4], ((wLink (fun k => { k with state := 2, phase := ph, exch := some ⟨[32, 160, 64, 256], true⟩, resume := true }) []).port 0).phase = ph)
    ∧ (∀ n < 5, (wLink id []).laneExcluded 0 n = false) ∧ (wLink id []).hasPort 0 = true ∧ (wLink id []).hasPort 11 = true
    ∧ (wLink id []).hasPort 12 = false ∧ (wLink id []).linksUp = true
    ∧ ((wLink id []).port 0).lanes.getLsbD 3 = true ∧ ((wLink id []).port 0).lanes.getLsbD 4 = false
    ∧ ((wLink (fun k => { k with spareHeld := true }) []).port 0).spareHeld = true
    ∧ (∀ st ∈ [1#3, 4#3, 6#3], ((wLink (fun k => { k with state := st }) []).port 0).state = st)
    ∧ ((wLink (fun k => { k with state := 6, disable := true }) []).port 0).disable = true
    ∧ (∃ q < (wLink id []).variant.ports, ((wLink id []).port q).state = 3)
    ∧ (∀ q < (wState []).variant.ports, ((wState []).port q).state = 0)
    ∧ fld (0x10000040000 : DWord) 14 4 = 0 ∧ fld (0x10000040000 : DWord) 18 8 ≠ 0
    ∧ bit (0x10C : Half) 9 = false ∧ bit (0x10C : Half) 8 = true ∧ (wLink id []).hasPort (fld (0x10C : Half) 0 4) = false
    ∧ bit (0x0C : Half) 8 = false := by decide +kernel
theorem witness_VexjaTrainingAndConfiguration_cable : cableGood ((wLink id []).port 0).cable := ⟨1000, by decide, rfl⟩
theorem witness_VexjaTrainingAndConfiguration_more :
    (∀ l ∈ [[0, 1, 2], [1, 2, 3, 4], [0, 1, 2, 3, 4]],
      ((List.range 5).filter (fun n => l.contains n && !(wLink id []).laneExcluded 0 n)).length = l.length)
    ∧ ((wLink (fun k => { k with state := 2, phase := 4 }) []).port 0).exch = none
    ∧ 2 ≤ ((List.range 5).filter (fun i => [0, 3].contains i && ((wLink id []).port 0).lanes.getLsbD i)).length
    ∧ ((wLink (fun k => { k with state := 6, disable := true, verRefused := true }) []).port 0).verRefused = true
    ∧ ((wLink (fun k => { k with state := 1, verRefused := true }) []).port 0).verRefused = true
    ∧ (∃ q < (wLink id []).variant.ports, ((wLink id []).port q).state ≠ 0 ∧ ((wLink id []).port q).state ≠ 1 ∧ ((wLink id []).port q).state ≠ 6)
    ∧ bit (0x2F0 : Half) 9 = true ∧ (wLink id []).lnk.routeIdx.toNat ≠ (wLink id []).lnk.epid.toNat
    ∧ (wState []).lnk.routeIdx.toNat = (wState []).lnk.epid.toNat
    ∧ (∀ e ∈ [0x1F0, 0x110], bit (BitVec.ofNat 16 e) 9 = false ∧ bit (BitVec.ofNat 16 e) 8 = true
      ∧ (wLink id []).hasPort (fld (BitVec.ofNat 16 e) 0 4) = true
      ∧ (fld (BitVec.ofNat 16 e) 4 4 = 15 ∨ (wLink id []).hasPort (fld (BitVec.ofNat 16 e) 4 4) = true))
    ∧ fld (0x1C0 : Half) 4 4 ≠ 15 ∧ (wLink id []).hasPort (fld (0x1C0 : Half) 4 4) = false := by decide +kernel

/-- Packets received for EPID 1: a PUT of 64 bytes for context 0, window 0, at 64; SIGNAL; the responses; a packet for EPID 2. -/
def wPutPkt (key : DWord) : Pkt := ⟨[0x0001000200010801 ||| at_ 1 8, 0, at_ key.toNat 32, 0x40], [[1, 2, 3, 4, 5, 6, 7, 8]]⟩
def wRspPkt (type dst hops : Nat) (arg : DWord) : Pkt := ⟨[pktWord0 1 type false false hops dst 2 0, at_ 9 24, 0, arg], []⟩
def wRxOf (vc : Nat) (p : Pkt) (f : Ctx → Ctx) (ds : List Desc) : State :=
  let s := wLink (fun k => { k with rxQ := [(vc, [⟨p, false⟩])], rxHeld := [32, 160, 64, 256] }) ds
  { s with ctxs := [(0, f (wCtx ds))] }
def wWin (x : Ctx) : Ctx := { x with exports := [(0, ⟨0x10000, 0x10000, true, 7⟩)] }
def wWinOf (fz : Bool) (st : CtxState) : Ctx := { wWin (wCtx []) with
    frozen := fz, st := st }
def wVxPutRun : Desc := wExec (wD 0x700 [0x10000, 0x40, 2, 64]) (.vxPut 9 0 2 64)
theorem witness_VexjaPacketsArrive :
    tget [] ((wRxOf 1 (wPutPkt 7) wWin []).port 0).rxQ 1 = [⟨wPutPkt 7, false⟩]
    ∧ (wRxOf 1 (wPutPkt 7) wWin []).route (wPutPkt 7).dst = .local_
    ∧ ((wWin (wCtx [])).putRefused (wPutPkt 7)) = none ∧ ((wWin (wCtx [])).putRefused (wPutPkt 8)) = some (0x21, 0)
    ∧ (wCtx []).putRefused (wPutPkt 7) = some (0x21, 0)
    ∧ (wWinOf true .run).putRefused (wPutPkt 7) = some (0x12, 0x0702)
    ∧ (wWinOf false .drain).putRefused (wPutPkt 7) = some (0x12, 0x0701)
    ∧ actOk (putFlits (agentWho 0) 0x10040 (wPutPkt 7).data) ((wRxOf 1 (wPutPkt 7) wWin []).takeRx 0 1) = true := by decide +kernel
theorem witness_VexjaPacketsArrive_more :
    (∀ o ∈ [true, false], ((wLink (fun k => { k with uncommitted := [⟨5, false, none, o⟩] }) []).port 0).uncommitted = [⟨5, false, none, o⟩])
    ∧ ((wLink (fun k => { k with heldSig := [⟨wRspPkt 1 1 3 0, false⟩] }) []).port 0).heldSig = [⟨wRspPkt 1 1 3 0, false⟩]
    ∧ (wRspPkt 1 1 3 0).dseq = 0 ∧ ((wLink id []).port 0).counter = 0xFFFFFF ∧ (0xFFFFFF + 2 ^ 24 - 0) % 2 ^ 24 ≥ 2 ^ 23
    ∧ (0 + 2 ^ 24 - 0) % 2 ^ 24 < 2 ^ 23
    ∧ (∀ t ∈ [2, 3], ((wRxOf 2 (wRspPkt t 1 3 0x60) id [wVxPutRun]).takeRx 0 2).transfer (wRspPkt t 1 3 0x60).txid = some (0, wVxPutRun, 0, 2, 64)
      ∧ (wRspPkt t 1 3 0x60).type = t ∧ fld (wRspPkt t 1 3 0x60).arg 0 8 = 0x60 ∧ fld (wRspPkt t 1 3 0x21).arg 0 8 = 0x21)
    ∧ (wRxOf 2 (wRspPkt 2 2 3 0) id []).route (wRspPkt 2 2 3 0).dst = .port 0 ∧ (wRspPkt 2 2 3 0).hops ≠ 0 ∧ (wRspPkt 2 2 0 0).hops = 0 := by
  decide +kernel
theorem witness_VexjaPacketsArrive_forward :
    ((wLink (fun k => { k with uncommitted := [⟨5, false, some (2, 9), false⟩, ⟨6, false, none, false⟩] }) []).port 0).uncommitted
      = [⟨5, false, some (2, 9), false⟩, ⟨6, false, none, false⟩]
    ∧ (wLink id []).route 3 = .noEntry
    ∧ (wLink (fun k => { k with state := 1 }) []).route 2 = .noPort
    ∧ ((wRxOf 2 (wRspPkt 2 1 3 0) id []).takeRx 0 2).transfer (wRspPkt 2 1 3 0).txid = none
    ∧ (wLink id []).lnk.sigs.contains (wRspPkt 3 1 3 0).txid = false
    ∧ actOk (putFlits (agentWho 0) 0x1000000000 (wPutPkt 7).data) ((wRxOf 1 (wPutPkt 7) wWin []).takeRx 0 1) = false := by decide +kernel

def wVxPut (n dst : Nat) : Desc := wD 0x700 [0x10000, 0x40, at_ dst 0, at_ n 0]
def wVxSig (dst : Nat) : Desc := wD 0x701 [at_ dst 0, 0x200000001]
theorem witness_VexjaTransfersLeave :
    (∀ n ∈ [0, 64], (wLink id [wVxPut n 2]).issues wRef 0x700 (wVxPut n 2)
      ∧ firstFail (putChecks ((wLink id [wVxPut n 2]).ctx 0) (wVxPut n 2)) = none)
    ∧ (wLink id [wVxPut 64 3]).issues wRef 0x700 (wVxPut 64 3)
    ∧ ((wLink id [wVxPut 64 2]).begun wRef (wVxPut 64 2)).egressOf 2 = some 0 ∧ ((wLink id [wVxPut 64 2]).begun wRef (wVxPut 64 2)).egressOf 3 = none
    ∧ actOk (putPackets ((wVxPut 64 2).who 0) (wVxPut 64 2) 0 64 [0])
        ((((wLink id [wVxPut 64 2]).begun wRef (wVxPut 64 2)).takeTx false).setProg 0 0 0 (.vxPut 0 0 2 64)) = true
    ∧ (wLink id [wVxPutRun]).desc wRef = some wVxPutRun
    ∧ (∀ e ∈ [1, 2, 3], (wLink id [wVxSig e]).issues wRef 0x701 (wVxSig e)
      ∧ ((wLink id [wVxSig e]).begun wRef (wVxSig e)).egressOf e = [some 15, some 0, none].getD (e - 1) none
      ∧ (((wLink id [wVxSig e]).begun wRef (wVxSig e)).sendSignal e 1 2 (some (0, 0, 0))).isSome = decide (e ≠ 3))
    ∧ (wLink id [wD 0x702 [0x10000, 0x10000, 0x700000013]]).issues wRef 0x702 (wD 0x702 [0x10000, 0x10000, 0x700000013])
    ∧ (wLink id [wD 0x702 [0, 0, 0]]).issues wRef 0x702 (wD 0x702 [0, 0, 0]) := by
  unfold State.issues; decide +kernel

/-! ### A state for every hypothesis: collectives -/

def wThin (n : Nat) : Desc :=
  wD16 0x710 [0x20000, 0x40000, 0x60000, 0x80000, 0x90000, at_ n 0 ||| at_ 9 24 ||| at_ 1 32, at_ 1 0 ||| at_ 1 12]
def wMerge (n : Nat) : Desc :=
  wD16 0x722 [0x10000, 0x20000, 0x30000, 0x40000, 0x50000, 0x60000, at_ n 0, 128, at_ 1 0 ||| at_ 1 12]
theorem witness_ThinningAndMerging :
    (∀ n ∈ [0, 1], (wState [wThin n]).issues wRef 0x710 (wThin n) ∧ (wThin n).prog = .none
      ∧ firstFail ((wThin n).thin.checks ((wState [wThin n]).ctx 0) (wThin n)) = none
      ∧ (wState [wThin n]).jobBusy 0 (wThin n) = false ∧ (wState [wThin n]).unitsLack 0 (wThin n) n = false ∧ (wState [wThin n]).sliceLack (wThin n) = [])
    ∧ (∀ n ∈ [0, 1], (wState [wMerge n]).issues wRef 0x722 (wMerge n) ∧ (wMerge n).prog = .none
      ∧ firstFail ((wMerge n).merge.checks ((wState [wMerge n]).ctx 0) (wMerge n)) = none
      ∧ (wState [wMerge n]).jobBusy 0 (wMerge n) = false ∧ (wState [wMerge n]).unitsLack 0 (wMerge n) n = false ∧ (wState [wMerge n]).sliceLack (wMerge n) = [])
    ∧ ({ wState [wThin 1] with tiles := [(0, { wTile with bitmap := [(0, 1, 0, 64)] })] } : State).unitsLack 0 (wThin 1) 1 = true
    ∧ (firstFail ((wThin 0x200001).thin.checks ((wState []).ctx 0) (wThin 0x200001))).isSome = true
    ∧ (mergeRow svZero svZero svZero svZero [svZero] [svZero]).2.1.isZero = true
    ∧ (mergeRow svZero svZero svZero svZero [svZero] [svZero]).2.1.isNeg = false := by
  unfold State.issues; decide +kernel

/-- A reduction record: two ranks, rank 0, one segment of 512 blocks, K 1 or as named, EXPECT 5. -/
def wRedRec (k : Byte) : Memory :=
  [(0x10000, 1), (0x10002, 0x40), (0x10004, 0x90), (0x10005, k), (0x10008, 1), (0x1000C, 5), (0x10011, 0x10), (0x10012, 1), (0x1001A, 2)]
def wRedSet : Desc := wD 0x711 [0x10000, 0]
def wRedSlot : RedSlot :=
  { RedSlot.reset with valid := true, ranks := 2, segLog2 := 9, k := 1, nseg := 1, rankVa := 0x11000, gVa := 0x20000, expect := 5 }
def wRedRun (step : Nat) : Desc := wD16 0x712 [at_ step 32, 0x30000, 0x40000]
def wRed (q : RedSlot) (ds : List Desc) : State := wHail [] (fun x => { x with redSlots := [(0, q)] }) ds
def wRedPkt (step : Word) : Pkt := ⟨[pktWord0 1 4 false false 3 1 2 0, redWord1 0 0 true false 1, redWord2 0 0 step, 1], []⟩
theorem witness_Reductions :
    (∀ k ∈ [(0 : Byte), 1], (wHail (wRedRec k) id [wRedSet]).issues wRef 0x711 wRedSet
      ∧ (match rdVa (wRedSet.who 0) 0x10000 64 ((wHail (wRedRec k) id [wRedSet]).begun wRef wRedSet) with
         | .ok bs _ => decide (redBad (bytesWords 8 bs) = if k = 0 then some (0, 40) else none)
         | .error _ _ => false) = true)
    ∧ (∀ t ∈ [5, 6], (wRed wRedSlot [wRedRun t]).issues wRef 0x712 (wRedRun t) ∧ firstFail (redChecks (wRedRun t)) = none)
    ∧ actOk (do
        let _ ← rdVa ((wRedRun 5).who 0) 0x11000 8
        (List.range 1).mapM (redLeaf ((wRedRun 5).who 0) wRedSlot 0x30000 0x40000)) ((wRed wRedSlot [wRedRun 5]).begun wRef (wRedRun 5)) = true
    ∧ (wRxOf 3 (wRedPkt 5) id []).route (wRedPkt 5).dst = .local_ ∧ (wRedPkt 5).type = 4 ∧ (wRedPkt 5).destCtx = 0 ∧ (wRedPkt 5).redSlotNo = 0
    ∧ (((wRxOf 3 (wRedPkt 5) id []).ctx 0).redSlot 0).valid = false
    ∧ (wRedPkt 5).redSeg wRedSlot < wRedSlot.nseg ∧ (wRedPkt 5).redStep = wRedSlot.expect
    ∧ (wRxOf 3 (wRedPkt 5) (fun x => { x with redSlots := [(0, wRedSlot)] }) []).storeUse (dieOf 0) + (wRedPkt 5).flits ≤ 131072 := by
  unfold State.issues; decide +kernel

/-- A step under way: the node over both ranks waits for rank 0, which was slow; or it is done and the root written. -/
def wStep (policy : Nat) (done : Bool) : RedRun :=
  { ring := 0, index := 0, step := 5, policy := policy, slowExt := 1, reportVa := 0,
    parts := if done then [] else [⟨0, 0, 1, [], 1, true, 0⟩], nodes := [⟨0, 1, 0, 0, done, []⟩],
    segs := if done then [⟨0, done, 1, 0, [], [], [], [], false⟩] else [], opened := [(0, 1, 0)], outs := [], dold := false, lost := none, bad := none, blocks := [], flags := 0, foldOver := false }
def wRedGo (policy : Nat) (done : Bool) : RedSlot := { wRedSlot with
    slow := [(0, true)], run := some (wStep policy done) }
def wRedExec (dold : Nat) : Desc := wExec (wD16 0x712 [at_ 5 32, 0x30000, 0x40000, at_ dold 48]) (.red 0)
theorem witness_Reductions_runs (p dold : Nat) (b : Bool) :
    (wRed (wRedGo p b) [wRedExec dold]).runOf wRef = some (wRedExec dold, 0, wRedGo p b, wStep p b) := rfl
theorem witness_Reductions_windows :
    (∀ p ∈ [0, 1, 2], (wStep p false).node 0 1 0 = some ⟨0, 1, 0, 0, false, []⟩ ∧ (wStep p false).windowOpen ⟨0, 1, 0, 0, false, []⟩ = true
      ∧ (wStep p false).child (wRedGo p false) ⟨0, 1, 0, 0, false, []⟩ 0 = none
      ∧ ((wStep p false).child (wRedGo p false) ⟨0, 1, 0, 0, false, []⟩ 1).isSome ∧ (wRedGo p false).spanSlow 0 0 = true)
    ∧ (wStep 1 true).node 0 1 0 = some ⟨0, 1, 0, 0, true, []⟩
    ∧ (wStep 1 true).nodes.all (·.done) = true ∧ (wStep 1 true).segs.all RedSeg.ended = true
    ∧ (wRed (wRedGo 1 true) [wRedExec 0]).ownerBusy (0, 0, 0) = false
    ∧ fld ((wRedExec 7).word 4) 48 16 ≠ 0 ∧ fld ((wRedExec 0).word 4) 48 16 = 0 ∧ (wStep 0 false).oldest = some ⟨0, 1, 0, 0, false, []⟩
    ∧ (wRed (wRedGo 0 false) [wRedExec 7]).ownerBusy (0, 0, 0) = false := by
  decide +kernel
theorem witness_Reductions_closes :
    (wStep 2 false).slowExt ≤ 1 ∧ ({ wStep 2 false with nodes := [⟨0, 1, 0, 1, false, []⟩] } : RedRun).windowOpen ⟨0, 1, 0, 1, false, []⟩ = true
    ∧ (wRed RedSlot.reset [wRedRun 5]).issues wRef 0x712 (wRedRun 5) ∧ (wRedPkt 5).redLate = false
    ∧ actOk (wrVa ((wStep 1 true).who 0) 0x50000 (reportBytes [])) ((wRed (wRedGo 1 true) [wRedExec 0]).tick) = true := by
  unfold State.issues; decide +kernel
def wRedRx : State := wRxOf 3 (wRedPkt 5) (fun x => { x with redSlots := [(0, wRedGo 0 false)] }) [wRedExec 0]
theorem witness_Reductions_consumes :
    wRedRx.redOpen 0 (wStep 0 false) = true ∧ (wRedPkt 5).redStep = (wStep 0 false).step
    ∧ (let s1 := (wRedRx.takeRx 0 3).rankSlow (wRedPkt 5)
       ((s1.redConsume 0 0 0 ((s1.ctx 0).redSlot 0) (wStep 0 false) (wRedPkt 5)).redSettle 0 0).storeUse 0 ≤ 131072) := by decide +kernel

def wRingSet (v : Nat) : Desc := wD 0x720 [at_ 2 0 ||| at_ 3 16 ||| at_ 2 32, at_ v 2 ||| at_ 5 32]
def wJetSlot : JetSlot := { JetSlot.reset with valid := true, nextEpid := 2, prevEpid := 2, expect := 5 }
def wJetGo (r : JetRun) : JetSlot := { wJetSlot with
    run := some r }
/-- A receive of n tokens into sequence 0 of space 0. -/
def wJetD (n round : Nat) : Desc := wD16 0x721 [at_ 1 3 ||| at_ round 32, 0, at_ n 32, 0]
def wJetPkt (src : Nat) : Pkt := ⟨[pktWord0 1 5 false false 3 1 src 16, at_ 0 0, at_ 5 32, 0], List.replicate 16 []⟩
def wJet (q : JetSlot) (m : Memory) (ds : List Desc) : State :=
  let s := wKv (wSeqs ++ m) 1 (wSpace 1) ds
  { s with ctxs := s.ctxs.map (fun e => (e.1, { e.2 with jetSlots := [(0, q)] })) }
theorem witness_JetstreamPasses_set :
    ∀ v ∈ [0, 1], (wState [wRingSet v]).issues wRef 0x720 (wRingSet v) ∧ bit ((wRingSet v).word 2) 2 = decide (v = 1) := by
  unfold State.issues; decide +kernel
theorem witness_JetstreamPasses :
    (∀ r ∈ [5, 6], (wJet wJetSlot [] [wJetD 16 r]).issues wRef 0x721 (wJetD 16 r) ∧ firstFail (jetChecks (wJetD 16 r)) = none)
    ∧ (wJet JetSlot.reset [] [wJetD 16 5]).issues wRef 0x721 (wJetD 16 5) ∧ (wJet wJetSlot [] [wJetD 0 5]).issues wRef 0x721 (wJetD 0 5)
    ∧ bit ((wJetD 16 5).word 1) 2 = false ∧ bit ((wJetD 16 5).word 1) 3 = true := by
  unfold State.issues; decide +kernel
theorem witness_JetstreamPasses_fits :
    ∀ n ∈ [0, 16],
      (match (do let b ← jetFits ((wJetD n 5).who 0) (wJetD n 5).jetDst n true
                 let g ← rdSeq ((wJetD n 5).who 0) 0 0
                 let s ← get
                 pure (b, g, s)) ((wJet wJetSlot [] [wJetD n 5]).begun wRef (wJetD n 5)) with
       | .ok (b, g, s2) _ => b && decide (n ≤ g.maxLen) && (s2.store 0).held.isEmpty && (s2.store 1).held.isEmpty
           && decide (s2.desc wRef = some { wJetD n 5 with st := .executing, issued := true })
       | .error _ _ => false) = true := by
  decide +kernel
/-- A pass that sends 16 tokens of sequence 0, whose pages lie in the stack. -/
def wJetS (space : Nat) : Desc := wD16 0x721 [at_ 1 2 ||| at_ 5 32, at_ space 0, at_ 16 32, 0]
def wJetSend : State := wJet wJetSlot (wEntry 2 1 16 ++ wLen 16 ++ wMap 0x40340) [wJetS 0]
def wJetLnk : State := { wJetSend with lnk := (wLink id []).lnk }
theorem witness_JetstreamPasses_send :
    let run : JetRun := ⟨0, 0, 5, true, false, false, [], []⟩
    wJetLnk.issues wRef 0x721 (wJetS 0) ∧ bit ((wJetS 0).word 1) 2 = true
    ∧ actOk (jetSend ((wJetS 0).who 0) 0 { wJetS 0 with prog := .jet 0 } run)
        ((((wJetLnk.begun wRef (wJetS 0)).modJet 0 0 (fun q => { q with run := some run })).purgeJet 0 0).setProg 0 0 0 (.jet 0)) = true := by
  unfold State.issues; decide +kernel
theorem witness_JetstreamPasses_misfit :
    (match jetFits ((wJetS 1).who 0) (wJetS 1).jetSrc 16 false ((wJet wJetSlot [] [wJetS 1]).begun wRef (wJetS 1)) with
     | .ok b _ => !b
     | .error _ _ => false) = true := by decide +kernel
theorem witness_JetstreamPasses_packets :
    (∀ src ∈ [2, 3], (wJetPkt src).type = 5 ∧ (wJetPkt src).src = src ∧ (wJetPkt src).destCtx = 0 ∧ (wJetPkt src).jetSlotNo = 0
      ∧ (wJetPkt src).jetRound = wJetSlot.expect ∧ (wRxOf 3 (wJetPkt src) id []).route (wJetPkt src).dst = .local_) := by decide +kernel
theorem witness_JetstreamPasses_room :
    (wRxOf 3 (wJetPkt 2) (fun x => { x with jetSlots := [(0, wJetSlot)] }) []).storeUse (dieOf 0) + (wJetPkt 2).flits ≤ 131072 := by decide +kernel
def wJetRx : State := wRxOf 3 (wJetPkt 2) (fun x => { x with jetSlots := [(0, wJetGo ⟨0, 0, 5, false, true, true, [], []⟩)] }) [wExec (wJetD 16 5) (.jet 0)]
theorem witness_JetstreamPasses_takes :
    wJetRx.jetOpen 0 0 = some (wExec (wJetD 16 5) (.jet 0), ⟨0, 0, 5, false, true, true, [], []⟩)
    ∧ actOk (jetTake ((wExec (wJetD 16 5) (.jet 0)).who 0) 0 (wExec (wJetD 16 5) (.jet 0)) ⟨0, 0, 5, false, true, true, [], []⟩ (wJetPkt 2))
        (wJetRx.takeRx 0 3) = true := by decide +kernel
theorem witness_JetstreamPasses_doldrums (dold : Nat) (d : Desc) (r : JetRun) (hd : d = wExec (wD16 0x721 [0, 0, 0, 0, at_ dold 0]) (.jet 0))
    (hr : r = ⟨0, 0, 5, false, true, false, [], []⟩) :
    (wJet (wJetGo r) [] [d]).desc wRef = some d ∧ (wJet (wJetGo r) [] [d]).jetOpen 0 0 = some (d, r) := by
  subst hd hr; exact ⟨rfl, rfl⟩

/-! ### A state for every hypothesis: fronts and tallies -/

/-- Entry 0 of tile 0, KEY 1, with n local participants. -/
def wEnt (n : Nat) : FrontEntry := { FrontEntry.reset with valid := true, key := 1, parts := (List.range n).map (fun i => ⟨false, i, 0, 0⟩) }
def wTally (t : Word) : FrontEntry := { FrontEntry.reset with valid := true, mode := true, key := 1, tally := t }
/-- Entry 0 and entry 1. -/
def wFronts (m : Memory) (e0 e1 : FrontEntry) (ds : List Desc) : State :=
  { wState ds with mem := m ++ wMem, tiles := [(0, { wTile with fronts := [(0, e0), (1, e1)] })] }
def wF (i : Nat) : Nat := 2 ^ 20 + i
def wFset : Desc := wD 0x800 [0x10000, 0]
def wFrec (v : Bool) : Memory := if v then [(0x10000, 1), (0x10001, 4)] else []
def wArr (v : Nat) : Desc := wD 0x801 [at_ (wF 0) 0 ||| at_ v 32]
def wFw : Desc := wD 0x802 [at_ (wF 0) 0]
def wFst : Desc := wD 0x803 [0x20000, at_ (wF 0) 0]
def wAddT (n : Nat) : Desc := wD 0x804 [at_ (wF 0) 0, at_ n 0]
def wWaitT (n : Nat) : Desc := wD 0x805 [at_ (wF 0) 0, at_ n 0]
def wAlign : Desc := wD 0x806 [at_ (wF 1) 0, at_ (wF 0) 0]
/-- FRONT_ARRIVE that waits; and an entry whose participant 0 is pending twice on a tile whose hold queue is full. -/
def wArrW (v : Nat) : Desc := wD 0x801 [at_ (wF 0) 0 ||| at_ v 32, 1]
def wHoldFull (ds : List Desc) : State :=
  { wState ds with tiles := [(0, { wTile with fronts := [(0, { wEnt 2 with arrOldest := [0], arrNext := [0] })], holdQ := List.replicate 64 ⟨0, 1, 0, 0, 0, 0⟩ })] }
theorem witness_FrontsAndTallies_pending :
    (∀ d ∈ [wArr 7, wArrW 7], firstFail (frontIdBad d 1 :: waitChecks d 2 true false ++ rsvWords d [3, 4, 5, 6, 7]) = none
      ∧ (wFronts [] { wEnt 2 with arrOldest := [0] } FrontEntry.reset [d]).issues wRef 0x801 d
      ∧ (wHoldFull [d]).issues wRef 0x801 d ∧ firstFail (((wHoldFull [d]).begun wRef d).frontChecks 0 0 (d.frontId 1)) = none)
    ∧ ({ wEnt 2 with arrOldest := [0] } : FrontEntry).pendingOf 0 < 2 ∧ 2 ≤ ((wHoldFull []).front 0 0).pendingOf 0
    ∧ (({ wEnt 2 with arrOldest := [0] } : FrontEntry).count 0 7 7).complete = false
    ∧ 64 ≤ ((wHoldFull []).tile 0).holdQ.length
    ∧ (firstFail (((wFronts [] (wTally 2) FrontEntry.reset [wArr 7]).begun wRef (wArr 7)).frontChecks 0 0 ((wArr 7).frontId 1))).isSome = true
    ∧ frontBad [3, 0, 0, 0, 0, 0, 0, 0, 0x80] ≠ none
    ∧ (wFronts [] (wEnt 1) FrontEntry.reset [wFst]).frontUnset 0 (BitVec.ofNat 32 (wF 1)) = true
    ∧ (wEnt 1).lastGen.find? (fun g => g.1 == 0) = none
    ∧ firstFail (frontIdBad wFw 1 :: rsv wFw 1 32 32 :: waitChecks wFw 2 false false ++ rsvWords wFw [3, 4, 5, 6, 7]) = none := by
  unfold State.issues; decide +kernel

theorem witness_FrontsAndTallies :
    (∀ e ∈ [FrontEntry.reset, { wEnt 2 with arrOldest := [1] }], ∀ v ∈ [true, false],
      (wFronts (wFrec v) e FrontEntry.reset [wFset]).issues wRef 0x800 wFset
      ∧ ((wFronts (wFrec v) e FrontEntry.reset [wFset]).ctx 0).sched.tileMask.getLsbD 0 = true
      ∧ 0 < 0 + 8 * ((wFronts (wFrec v) e FrontEntry.reset [wFset]).ctx 0).sched.fronts.toNat
      ∧ (match (do let hd ← rdVa (wFset.who 0) 0x10000 64
                   let tl ← rdVa (wFset.who 0) 0x10040 (8 * if v then 1 else 0)
                   let s ← get
                   pure (bytesWords 8 hd ++ bytesWords (if v then 1 else 0) tl, s)) ((wFronts (wFrec v) e FrontEntry.reset [wFset]).begun wRef wFset) with
         | .ok (ws, s2) _ => decide (frontBad ws = none) && decide (bit (wrd ws 0) 0 = v) && decide (s2.frontBusy 0 0 = e.valid)
         | .error _ _ => false) = true) := by
  unfold State.issues; decide +kernel
theorem witness_FrontsAndTallies_arrive :
    (∀ n ∈ [1, 2], (wFronts [] (wEnt n) FrontEntry.reset [wArr 7]).issues wRef 0x801 (wArr 7) ∧ (wArr 7).frontId 1 = BitVec.ofNat 32 (wF 0)
      ∧ firstFail (((wFronts [] (wEnt n) FrontEntry.reset [wArr 7]).begun wRef (wArr 7)).frontChecks 0 0 (BitVec.ofNat 32 (wF 0))) = none
      ∧ (wEnt n).local 0 = some 0 ∧ (wEnt n).parts.length = n ∧ ((wFronts [] (wEnt n) FrontEntry.reset []).tile 0).holdQ = []
      ∧ (((wFronts [] (wEnt n) FrontEntry.reset [wArr 7]).begun wRef (wArr 7)).waitsOn 0).length = 0)
    ∧ (∀ o ∈ [0, 3], ({ wEnt 1 with oldest := o, lastGen := [(0, 3)] } : FrontEntry).released 3 = decide (o = 0))
    ∧ (wFronts [] { wEnt 1 with lastGen := [(0, 3)] } FrontEntry.reset [wFw]).issues wRef 0x802 wFw
    ∧ (wFronts [] { wEnt 1 with oldest := 3, lastGen := [(0, 3)] } FrontEntry.reset [wFw]).issues wRef 0x802 wFw
    ∧ firstFail (((wFronts [] { wEnt 1 with lastGen := [(0, 3)] } FrontEntry.reset [wFw]).begun wRef wFw).frontChecks 0 0 (BitVec.ofNat 32 (wF 0))) = none
    ∧ (wFronts [] (wEnt 1) FrontEntry.reset [wFst]).issues wRef 0x803 wFst
    ∧ (wFronts [] (wEnt 1) FrontEntry.reset [wFst]).frontUnset 0 (BitVec.ofNat 32 (wF 0)) = false
    ∧ actOk (wrVa (wFst.who 0) 0x20000 (wordsBytes (((wFronts [] (wEnt 1) FrontEntry.reset [wFst]).begun wRef wFst).frontStatus 0 0)))
        ((wFronts [] (wEnt 1) FrontEntry.reset [wFst]).begun wRef wFst) = true := by
  unfold State.issues; decide +kernel
theorem witness_FrontsAndTallies_tallies :
    (wFronts [] (wTally 5) FrontEntry.reset [wAddT 0xFFFFFFFF]).issues wRef 0x804 (wAddT 0xFFFFFFFF)
    ∧ (∀ n ∈ [5, 6], (wFronts [] (wTally 5) FrontEntry.reset [wWaitT n]).issues wRef 0x805 (wWaitT n)
      ∧ decide (((5 : Word) - (wWaitT n).frontId 2).toNat < 2 ^ 31) = decide (n = 5))
    ∧ firstFail (((wFronts [] (wTally 5) FrontEntry.reset [wAddT 1]).begun wRef (wAddT 1)).tallyChecks 0 (BitVec.ofNat 32 (wF 0))) = none
    ∧ ((wFronts [] (wTally 5) FrontEntry.reset [wWaitT 6]).begun wRef (wWaitT 6)).slotsUsed 0 < 1024
    ∧ (wFronts [] (wEnt 2) (wTally 5) [wAlign]).issues wRef 0x806 wAlign
    ∧ firstFail (((wFronts [] (wEnt 2) (wTally 5) [wAlign]).begun wRef wAlign).frontChecks 0 0 (wAlign.frontId 2)
        ++ ((wFronts [] (wEnt 2) (wTally 5) [wAlign]).begun wRef wAlign).tallyChecks 0 (wAlign.frontId 1)) = none := by
  unfold State.issues; decide +kernel
/-- A wait at entry 0. -/
def wFwait (slot held : Bool) (policy dold : Nat) : FrontWait :=
  ⟨0, 0, BitVec.ofNat 32 (wF 0), 0, .release, held, held, slot, policy, 0, dold⟩
theorem witness_FrontsAndTallies_waits (slot held : Bool) (policy dold : Nat) (d : Desc)
    (hd : d = wExec wFw (.front (wFwait slot held policy dold))) :
    (wFronts [] (wEnt 1) FrontEntry.reset [d]).waitOf wRef = some (d, wFwait slot held policy dold) := by subst hd; rfl
theorem witness_FrontsAndTallies_slots :
    (wFronts [] (wEnt 1) FrontEntry.reset [wExec wFw (.front (wFwait false true 2 9))]).slotsUsed 0 < 1024 := by decide +kernel

/-! ### A state for every hypothesis: power and temperature -/

/-- The cells of bytes that are not 0. -/
def wCells (a : Nat) (bs : List Byte) : Memory := ((List.range bs.length).map (fun i => (a + i, bs.getD i 0))).filter (fun c => c.2 ≠ 0)
/-- The OTP array of an owned module: owner generation 0 of zeros, and power generation 0 of 4,000, 3,650, 2,000 W and 80 A. -/
def wPowerBlock : List Byte := leBytes 8 (4000 + 3650 * 2 ^ 13 + 2000 * 2 ^ 26 + 80 * 2 ^ 39)
def wOtp : Memory :=
  wCells 0x200 ([0xFF, 0, 0, 0] ++ leBytes 4 (crc32 (List.replicate 32 0)).toNat)
  ++ wCells 0x300 ([0xFF, 0, 0, 0] ++ leBytes 4 (crc32 wPowerBlock).toNat ++ wPowerBlock)
def wOwned (f : State → State) : State :=
  let s := wState []
  f { s with blu := { s.blu with otp := wOtp, stage := 2, nonce := some [7] } }
def wProof : OwnerProof := { pk := [1], nonce := [7], sig := [2], mated := true }
theorem witness_InputBudgetAndClamp :
    (wState []).pins.switch = true ∧ (wState []).pins.pwrFail = false ∧ (wState []).pins.trip = false
    ∧ (wOwned id).iClamp = 80 ∧ (wOwned id).capMinW = 2000 ∧ (wOwned id).designW = 3650 ∧ (wOwned id).ceilW = 4000
    ∧ (wOwned (fun s => { s with pwr := { s.pwr with clampLevel := 24, samples := 3 } })).pwr.clampLevel = 24
    ∧ (wOwned (fun s => { s with pwr := { s.pwr with clampLevel := 24, samples := 3 } })).pwr.samples ≠ 0
    ∧ 0 < (wOwned id).nTiles ∧ (wOwned id).ownerHears wProof := by
  unfold State.ownerHears; decide +kernel

def wForecast (kind level dur : Nat) : Desc := wD 0x900 [at_ 1 0 ||| at_ kind 12 ||| at_ level 16 ||| at_ 4 32, at_ dur 0]
/-- A wait on tile 0 with its filler. -/
def wFills : State := wFronts [] (wEnt 2) FrontEntry.reset [wExec wFw (.front (wFwait true false 0 0))]
def wCast (kind : Nat) : Forecast := ⟨5, 1, kind, 50, 4, 100, true, false⟩
def wCasts (kind power : Nat) : State :=
  { wFills with pwr := { wFills.pwr with forecasts := [wCast kind], tiles := [(0, { PwrTile.reset with power := power })] } }
theorem witness_TilesForecastsAndTemperature :
    0 < (wState []).nTiles ∧ (0, 0, 0) ∈ wFills.tileWaits 0
    ∧ (∀ k ∈ [(0, 100, 1), (3, 0, 9), (4, 0, 1), (0, 101, 1), (0, 100, 0)],
        (wState [wForecast k.1 k.2.1 k.2.2]).issues wRef 0x900 (wForecast k.1 k.2.1 k.2.2))
    ∧ (∀ k ∈ [0, 3], ∀ p ∈ [0, 47499, 47500], (wCasts k p).pwr.forecasts.find? (fun g => g.id == 5) = some (wCast k))
    ∧ (wCasts 0 47499).ptile 0 = { PwrTile.reset with power := 47499 }
    ∧ ((List.range (wState []).nTiles).filter (wCast 0).mask.testBit) = [0] ∧ 47499 * 200 < 1 * 190000 * 50 ∧ 1 * 190000 * 50 ≤ 47500 * 200
    ∧ (wState []).pwr.gustMax.toNat ≤ 4 ∧ ((wState []).ptile 0).tj.toNat + 5 ≤ (wState []).pwr.tThrottle.toNat := by
  unfold State.issues; decide +kernel

/-- R398: the voltages that the table gives for levels 0, 4, 12 and 24, in mV. -/
theorem test_stretchVoltages : [0, 4, 12, 24].map (fun l => (clockVolt 0 l + 500) / 1000) = [750, 712, 635, 520] := by decide +kernel
/-- R4, R395: ceiling, design power, lowest cap and clamp of the three variants. -/
theorem test_factoryLimits : [Variant.mf12, .ms12, .ms08].map (fun v =>
      let w : DWord := BitVec.ofNat 64 (leNat (otpPower.inForce (factoryOtp v)))
      [fld w 0 13, fld w 13 13, fld w 26 13, fld w 39 8])
    = [[4000, 3650, 2000, 80], [4000, 3550, 2000, 80], [2800, 2560, 1400, 56]] := by decide +kernel
/-- A Gust tile that the thermal loop stretches: it is not at T_THROTTLE, so its choice releases the stretch (R405). -/
def wGust : State := { wState [] with pwr := { (wState []).pwr with
    mode := true, tiles := [(0, { PwrTile.reset with therm := 2, gust := 3, grant := 100 })] } }
theorem witness_GustReleases :
    0 < wGust.nTiles ∧ wGust.pwr.mode = true ∧ (wGust.ptile 0).therm ≠ 0 ∧ (wGust.ptile 0).tj.toNat < wGust.pwr.tThrottle.toNat
    ∧ wGust.pwr.clampLevel < 24 ∧ wGust.pwr.gustMax.toNat ≤ 4 := by decide +kernel
theorem witness_InputBudgetAndClamp_off :
    (wOwned (fun s => { s with pins := { s.pins with switch := false } })).pins.switch = false
    ∧ (wOwned id).pwr.samples = 0 ∧ (wState []).tileWaits 0 = [] ∧ (∀ t < (wState []).nTiles, (0, 0, 0) ∉ (wState []).tileWaits t) := by decide +kernel

/-! ### A state for every hypothesis: hosts -/

/-- Domain 0 at attachment i, which runs. -/
def wHost (i : Nat) (d : Dom → Dom) (a : Attach → Attach) (ds : List Desc) : State :=
  { wState ds with
    doms := [(0, d { wDom with
      attach := BitVec.ofNat 3 (i + 1) })]
    attaches := [(i, a { Attach.reset with state := 3, width := 4, perst := false })] }
def wSec (done : Bool) (phase : BitVec 4) : State :=
  let s := wHost 2 id id []
  { s with sec := { s.sec with done := done }, boot := { s.boot with phase := phase } }
theorem witness_RegistersAndHostAccesses :
    ((wState []).ctx 0).live = true ∧ ((wState []).ctx 0).hasRing 0 = true ∧ (wSec true 4).sec.done = true ∧ (wSec false 3).sec.done = false
    ∧ 3 % 8 ≠ 0 ∧ bit (1 : DWord) 0 = true ∧ bit (2 : DWord) 0 = false
    ∧ (∀ p ∈ [3#4, 4#4], ((wSec true p).att 2).active = true ∧ (wSec true p).domAt 2 0 = some 0 ∧ ((wSec true p).dom 0).en = true ∧ ((wSec true p).att 2).d3.contains 0 = false
      ∧ (wSec true p).owns 0 0 = true ∧ (wSec true p).owns 0 1 = false ∧ (wSec true p).owns 0 1023 = false ∧ (wSec true p).boot.phase = p) := by
  decide +kernel

/-- Domain 0 is a partition of 1 GiB on attach 0, its window at the bottom of DIMM channel 0. -/
def wPart (ds : List Desc) : State :=
  { wHost 0 (fun d => { d with external := false, pwinGib := 1 }) id ds with dimms := [(0, { Dimm.reset with state := 1, cap := 16 })] }
theorem witness_HostMemoryStreamAndLinks :
    ((wPart []).att 0).active = true ∧ ((wPart []).dom 0).external = false ∧ ((wPart []).dom 0).noWindow = false ∧ ((wPart []).dom 0).attach ≠ 0 ∧ b2n ((wPart []).dom 0).homeIo = 0
    ∧ (∀ line ∈ [0, 0xFFFFFF], line * 64 + 64 ≤ ((wPart []).dom 0).pwinBytes
      ∧ (wPart []).lineBad ((0x020000000000 + ((wPart []).dom 0).pwinBase.toNat * 0x40000000 + line * 64) / 64) = false
      ∧ (∀ k < 64, ∀ j < 64, j ≠ k → (wPart []).home (0x020000000000 + line * 64 + j) ≠ (wPart []).home (0x020000000000 + line * 64 + k)))
    ∧ (wPart []).mem.wf = true ∧ ((wPart []).dom 0).pwinBytes < 0x1000000 * 64 + 64
    ∧ ((wPart []).domAt 0 0).isSome = true ∧ (wPart []).domAt 0 1 = none
    ∧ ((wPart []).dom 0).en = true ∧ ((wPart []).dom 0).hostOffset 0x3FFFFFC0 = some 0x3FFFFFC0
    ∧ ((wPart []).dom 0).hostOffset (0x3FFFFFC0 + (List.replicate 64 (0 : Byte)).length - 1) ≠ none := by
  decide +kernel
/-- Its context is gone; or it is context 0 alone. -/
def wAlone (i : Nat) (ctx : Bool) (steps : List Nat) : State :=
  let s := wHost i id id []
  { s with ctxs := if ctx then s.ctxs else [], boot := { s.boot with steps := steps } }
theorem witness_HostMemoryStreamAndLinks_errors :
    (((wState []).ctx 0).ring 0).fetched ≠ 0 ∧ (((wState []).ctx 0).ring 0).pendingRecord 0 = false
    ∧ (((wRings wRing2 .run).ctx 0).ring 0).pendingRecord 0 = true
    ∧ (wState [wExec (wD 0x500 []) .none]).desc wRef = some (wExec (wD 0x500 []) .none)
    ∧ (wState []).respDom (.dataErr wRef 0 true) = some 0 ∧ ((wState []).dom 0).attach = 3 ∧ ((wPart []).dom 0).attach = 1
    ∧ (wAlone 2 false []).domAt 2 0 = some 0 ∧ ((wAlone 2 false []).att 2).active = true ∧ (wAlone 2 false []).ctxs = []
    ∧ ((wAlone 2 true []).ctx 0).st ≠ .empty ∧ (wAlone 2 true []).ctxDom 0 = 0 ∧ (wAlone 2 true []).ctxs.map (·.1) = [0]
    ∧ (wAlone 2 true []).ctxDom 0 ∉ (wAlone 2 true []).domsOf 3 ∧ (wAlone 2 false []).domsOf 2 = [0] := by decide +kernel
def wOwnerCfg (seq : DWord) : OwnerCfg :=
  { seq := seq, domains := [(0, (0, 1, 0))], locks := [], lnkCfg := 0, peerExpect := [], routes := [], pwrCfg := none, schedCfg := none,
    stkGib := 0, spillGib := 0, cycOwner := 0, preferB := false, pk := [], sig := [] }
/-- The port trains, bring-up having enabled domain 0 or not. -/
def wTrains (steps : List Nat) : State :=
  let s := wHost 2 (fun d => { d with en := false }) (fun a => { a with state := 2 }) []
  { s with boot := { s.boot with steps := steps }, blu := { s.blu with cfg := some (wOwnerCfg 1) } }
theorem witness_HostMemoryStreamAndLinks_links :
    ((wAlone 0 false []).att 0).active = true ∧ ((wAlone 0 false []).att 0).width = 4 ∧ (wAlone 0 false []).boot.steps.contains 13 = false
    ∧ (wState []).variant.full = true ∧ ((wState []).att 2).perst = true
    ∧ (∀ st ∈ [[], [13]], ((wTrains st).att 2).state = 2 ∧ ((wTrains st).att 2).perst = false
      ∧ (wTrains st).boot.steps.contains 13 = decide (st = [13]) ∧ ((wTrains st).dom 0).attach.toNat = 3 ∧ (wTrains st).blu.cfg = some (wOwnerCfg 1)
      ∧ bit (tget (0, 0, 0) (wOwnerCfg 1).domains 0).2.1 0 = true ∧ ((wTrains st).dom 0).noWindow = false) := by decide +kernel
theorem witness_HostMemoryStreamAndLinks_retrains :
    (wState []).respDom (.data 0 0 []) = none ∧ ((wHost 0 id (fun a => { a with state := 2 }) []).att 0).active = false
    ∧ ((wHost 0 id (fun a => { a with state := 2 }) []).att 0).state ≠ 0 ∧ ((wHost 2 id id []).att 2).active = true := by decide +kernel

/-! ### A state for every hypothesis: boot and owner -/

/-- The OTP array with a redundancy generation of zeros too. -/
def wOtpFull (crc : Nat) : Memory := wOtp ++ (0x1000, 0xFF) :: (List.range 4).map (fun i => (0x1004 + i, (leBytes 4 crc).getD i 0))
theorem mget_append (a : Nat) (r : Memory) : ∀ l : Memory, (∀ c ∈ l, c.1 ≠ a) → mget (l ++ r) a = mget r a
  | [], _ => rfl
  | (j, b) :: l, h => by
    have h1 := h (j, b) (by simp)
    simp only [List.cons_append, mget]
    rw [if_neg h1]
    exact mget_append a r l (fun c hc => h c (by simp [hc]))
theorem wOtpFull_low : ∀ c ∈ wOtp, c.1 < 0x1000 := by decide +kernel
theorem wOtpFull_get (crc a : Nat) (h : 0x1000 ≤ a) :
    mget (wOtpFull crc) a = mget ((0x1000, 0xFF) :: (List.range 4).map (fun i => (0x1004 + i, (leBytes 4 crc).getD i 0))) a :=
  mget_append a _ wOtp (fun c hc => by have := wOtpFull_low c hc; omega)
theorem wOtpFull_content (crc : Nat) : otpRedundancy.content (wOtpFull crc) 0 = List.replicate 8184 0 := by
  rw [List.eq_replicate_iff]
  constructor
  · simp [OtpBlock.content, mread, otpRedundancy]
  · intro b hb
    simp only [OtpBlock.content, mread, List.mem_map, List.mem_range] at hb
    obtain ⟨i, hi, rfl⟩ := hb
    have hg : otpRedundancy.gen 0 = 0x1000 := rfl
    rw [hg, wOtpFull_get _ _ (by omega)]
    have hr : List.range 4 = [0, 1, 2, 3] := rfl
    simp only [hr, List.map_cons, List.map_nil, mget]
    rw [if_neg (by omega), if_neg (by omega), if_neg (by omega), if_neg (by omega), if_neg (by omega)]
    rfl
theorem wOtpFull_active (x : Nat) (pay : List Byte) (hx : (crc32 pay).toNat = x) (hc : otpRedundancy.content (wOtpFull x) 0 = pay) :
    otpRedundancy.active (wOtpFull x) = some 0 := by
  have hb : x < 2 ^ 32 := hx ▸ (crc32 pay).isLt
  have hr : List.range 4 = [0, 1, 2, 3] := rfl
  have hg : otpRedundancy.gen 0 = 0x1000 := rfl
  have hg1 : otpRedundancy.gen 1 = 0x3000 := rfl
  have f0 : fuseFlag 0#8 = false := by decide
  have f1 : fuseFlag 255#8 = true := by decide
  have h1 : otpRedundancy.valid (wOtpFull x) 1 = false := by
    unfold OtpBlock.valid
    rw [hg1, wOtpFull_get _ _ (by omega)]
    simp [mget, hr, Memory.blank, f0]
  have h0 : otpRedundancy.valid (wOtpFull x) 0 = true := by
    unfold OtpBlock.valid
    rw [hg, wOtpFull_get _ _ (by omega)]
    simp [mget, f1]
  have hi : otpRedundancy.invalid (wOtpFull x) 0 = false := by
    unfold OtpBlock.invalid
    rw [hg, wOtpFull_get _ _ (by omega)]
    simp [mget, hr, Memory.blank, f0]
  have hk : otpRedundancy.crcOk (wOtpFull x) 0 = true := by
    unfold OtpBlock.crcOk
    rw [hc, hx, hg]
    simp only [mread, hr, List.map_cons, List.map_nil]
    rw [wOtpFull_get _ _ (by omega), wOtpFull_get _ _ (by omega), wOtpFull_get _ _ (by omega), wOtpFull_get _ _ (by omega)]
    simp [mget, hr, leNat, leBytes]
    omega
  have hq : (List.range otpRedundancy.gens).reverse = [1, 0] := rfl
  simp [OtpBlock.active, hq, h1, h0, hi, hk]
theorem witness_BootBringUpAndResets_redundancy :
    otpRedundancy.active (wOtpFull (crc32 (List.replicate 8184 0)).toNat) = some 0 :=
  wOtpFull_active _ _ rfl (wOtpFull_content _)
def wPins (f : Pins → Pins) : State := { wState [] with pins := f (wState []).pins }
/-- Bluone alone was reset, or a TOKEN_STAGE waits. -/
def wWarm (warm : Bool) (waiting : List Instr) : State :=
  let s := wState []
  { s with blu := { s.blu with warm := warm, waiting := waiting, tokens := [[1]], stage := if waiting.isEmpty then 0 else 1 } }
def wRom (ok : Bool) (otp : Memory) (tokens : List (List Byte)) : State :=
  let s := wState []
  { s with blu := { s.blu with factoryOk := ok, otp := otp, tokens := tokens } }
def wUp (stage : Nat) (steps : List Nat) (configOk : Bool) : State :=
  let s := wState []
  { s with blu := { s.blu with stage := stage }, boot := { s.boot with steps := steps }, sec := { s.sec with configOk := configOk } }
theorem witness_BootBringUpAndResets :
    (wPins (fun p => { p with inputGood := false })).pins.inPrsnt = true ∧ (wPins (fun p => { p with inputGood := false })).pins.inputGood = false
    ∧ (wPins id).pins.trip = false ∧ (wPins id).pins.switch = true ∧ (wPins id).pins.inputGood = true
    ∧ (∀ ok ∈ [true, false], (wRom ok [] []).blu.stage = 0 ∧ (wRom ok [] []).blu.halted = false ∧ (wRom ok [] []).boot.phase = 0
      ∧ (wRom ok [] []).pins.inputGood = true ∧ (wRom ok [] []).boot.steps = [] ∧ (wRom ok [] []).blu.factoryOk = ok)
    ∧ (wRom true [] []).blu.waiting = [] ∧ (wWarm true []).blu.warm = true ∧ (wWarm true []).blu.stage = 0 ∧ (wWarm false []).blu.warm = false
    ∧ (wWarm false [.tokenStage [2]]).blu.stage = 1 ∧ (wWarm false [.tokenStage [2]]).blu.tokens.length < 8
    ∧ (wRom true [] []).blu.tokens = [] ∧ (wRom true [] [[1]]).blu.tokens ≠ [] ∧ otpPower.active (wRom true [] []).blu.otp = none
    ∧ otpPower.active (wRom true wOtp []).blu.otp ≠ none ∧ otpRedundancy.active (wRom true wOtp []).blu.otp = none
    ∧ (wUp 1 [1] false).blu.stage = 1 ∧ (wUp 2 [1, 2] false).blu.stage = 2 := by decide +kernel
theorem witness_BootBringUpAndResets_power : ∀ x : Nat, otpPower.active (wOtpFull x) ≠ none := by
  intro x
  have h (m : Memory) (hm : ∀ a < 0x1000, mget m a = mget wOtp a) : otpPower.active m = otpPower.active wOtp := by
    have hv (g : Nat) (hg : g < 3) : otpPower.valid m g = otpPower.valid wOtp g ∧ otpPower.invalid m g = otpPower.invalid wOtp g
        ∧ otpPower.crcOk m g = otpPower.crcOk wOtp g := by
      have hc : otpPower.content m g = otpPower.content wOtp g := by
        simp only [OtpBlock.content, mread, OtpBlock.gen, otpPower]
        exact List.map_congr_left (fun i hi => hm _ (by simp at hi; omega))
      refine ⟨?_, ?_, ?_⟩
      · simp only [OtpBlock.valid, OtpBlock.gen, otpPower]; rw [hm _ (by omega)]
      · simp only [OtpBlock.invalid, OtpBlock.gen, otpPower]; rw [hm _ (by omega)]
      · simp only [OtpBlock.crcOk, hc]
        congr 3
        simp only [mread, OtpBlock.gen, otpPower]
        exact List.map_congr_left (fun i hi => hm _ (by simp at hi; omega))
    have hr : (List.range otpPower.gens).reverse = [2, 1, 0] := rfl
    simp only [OtpBlock.active, hr, List.find?_cons, List.find?_nil, (hv 0 (by omega)).1, (hv 1 (by omega)).1, (hv 2 (by omega)).1, (hv 0 (by omega)).2.1,
      (hv 1 (by omega)).2.1, (hv 2 (by omega)).2.1, (hv 0 (by omega)).2.2, (hv 1 (by omega)).2.2, (hv 2 (by omega)).2.2]
  rw [h (wOtpFull x) (fun a ha => ?_)]
  · decide +kernel
  · have hz : ∀ (l : Memory) (r : Memory), (∀ c ∈ r, c.1 ≠ a) → mget (l ++ r) a = mget l a := by
      intro l
      induction l with
      | nil =>
        intro r hr
        have := mget_append a [] r hr
        simpa using this
      | cons c l ih => intro r hr; obtain ⟨j, b⟩ := c; simp only [List.cons_append, mget]; rw [ih r hr]
    exact hz wOtp _ (fun c hc => by
      simp only [List.mem_cons, List.mem_map, List.mem_range] at hc
      rcases hc with rfl | ⟨i, hi, rfl⟩ <;> simp <;> omega)
theorem witness_BootBringUpAndResets_steps :
    2 ≤ (wUp 2 [1, 2] false).blu.stage ∧ (wUp 2 [1, 2] false).inRecovery = false ∧ (wUp 2 [1, 2] false).boot.steps = [1, 2]
    ∧ (wUp 3 [1, 2, 3, 5] true).boot.steps.contains 3 = true ∧ (wUp 2 [1, 2] false).boot.steps.contains 3 = false
    ∧ (wUp 3 [1, 2, 3, 5] true).boot.steps.contains 5 = true ∧ (wUp 3 [1, 2, 3, 5] true).boot.steps.contains 6 = false
    ∧ (wUp 3 [1, 2, 3, 5, 4, 6, 7, 8, 9] true).blu.cfgA = none ∧ (wUp 3 [1, 2, 3, 5, 4, 6, 7, 8, 9] true).blu.cfgB = none
    ∧ (wUp 3 [1, 2, 3, 5, 4, 6, 7, 8, 9] true).boot.phase.toNat ≤ 3
    ∧ (wUp 3 [1, 2, 3, 5, 4, 6, 7, 8, 9, 10] true).sec.configOk = true ∧ (wUp 3 [1, 2, 3, 5] false).sec.configOk = false
    ∧ (wUp 3 [1, 2, 3, 5, 4, 6, 7, 8, 9, 10] true).boot.steps.contains 10 = true
    ∧ (wUp 3 [1, 2, 3, 5, 4, 6, 7, 8, 9, 10] true).boot.steps.contains 12 = false
    ∧ (wUp 3 [1, 2, 3, 5] false).boot.steps.contains 4 = false ∧ (wUp 3 [1, 2, 3, 5, 4] false).boot.steps.contains 4 = true
    ∧ (∀ n ∈ [7, 8, 9], (wUp 3 [1, 2, 3, 5, 4] false).boot.steps.contains n = false)
    ∧ (wUp 3 [1, 2, 3, 5, 4, 6, 7, 8, 9, 10] true).boot.steps.contains 11 = false
    ∧ (wUp 3 [1, 2, 3, 5, 4, 6, 7, 8, 9, 10, 12] true).boot.steps.contains 12 = true
    ∧ (wUp 3 [1, 2, 3, 5, 4, 6, 7, 8, 9, 10, 12] true).boot.steps.contains 13 = false
    ∧ (wPins (fun p => { p with trip := true })).pins.trip = true ∧ (wPins (fun p => { p with switch := false })).pins.switch = false
    ∧ (wPins (fun p => { p with inPrsnt := false })).pins.inPrsnt = false
    ∧ ({ wUp 3 [] true with blu := { (wUp 3 [] true).blu with halted := true } } : State).blu.halted = true
    ∧ (wUp 3 [] true).blu.halted = false ∧ (wOwned id).ownerHears wProof := by
  unfold State.ownerHears; decide +kernel

def wSpdm (n : Nat) : State := let s := wUp 2 [] false; { s with formatting := true, blu := { s.blu with spdm := n } }
def wRecovery (f : State → State) : State := let s := wState []; f { s with boot := { s.boot with phase := 7 } }
theorem witness_OwnerCommandsAndAttestation :
    (wRecovery id).inRecovery = true ∧ (wRecovery id).hears = true ∧ (wUp 1 [1] false).hears = false ∧ (wUp 1 [1] false).pins.inputGood = true
    ∧ (wUp 1 [1] false).blu.halted = false ∧ wProof.mated = true ∧ { wProof with mated := false }.mated = false
    ∧ ({ wOwned id with boot := { (wOwned id).boot with phase := 7 } } : State).unowned = false ∧ (wSpdm 3).formatting = true
    ∧ (wUp 2 [] false).inRecovery = false ∧ 2 ≤ (wUp 2 [] false).blu.stage
    ∧ ({ wUp 2 [] false with blu := { (wUp 2 [] false).blu with otp := [] } } : State).unowned = true ∧ (wOwned id).unowned = false
    ∧ (wOwned id).blu.nonce ≠ some [8] ∧ (wUp 2 [] false).blu.tokens.length < 8
    ∧ ({ wUp 2 [] false with blu := { (wUp 2 [] false).blu with tokens := List.replicate 8 [] } } : State).blu.tokens.length = 8
    ∧ 0xFFFFFFF8 % 8 = 0 ∧ 0xFFFFFFF8 < 2 ^ 32 ∧ (wOwned id).ownerHears wProof
    ∧ (cfgBody (wOwnerCfg 1)).length + (wOwnerCfg 1).sig.length ≤ 1048576 ∧ (wOwned id).hasPort 11 = true ∧ (wOwned id).hasPort 12 = false
    ∧ (wOwned id).variant.full = true ∧ (wOwned id).formatting = false ∧ (wOwned (fun s => { s with ctxs := [] })).ctxs = []
    ∧ ∃ e ∈ (wOwned id).ctxs, e.2.st ≠ .empty := by
  unfold State.ownerHears; decide +kernel
/-- Bundles of 24 MiB, and of one byte more. -/
theorem witness_OwnerCommandsAndAttestation_bundles (n : Nat) : (List.replicate n (0 : Byte)).length = n := List.length_replicate
theorem witness_OwnerCommandsAndAttestation_spdm :
    (∀ n ∈ [0, 1, 2, 3], (wSpdm n).blu.spdm = n ∧ 2 ≤ (wSpdm n).blu.stage) ∧ (wSpdm 3).formatting = true ∧ 0 ≤ (wSpdm 3).blu.chain.length := by
  decide +kernel

/-! ### Ill-formed commands are refused -/

theorem test_wellformed_units :
    (Instr.ptRootWrite 1024 0).wellFormed = false ∧ (Instr.ptRootWrite 1023 0).wellFormed = true
    ∧ (Instr.irqArm 0 64).wellFormed = false ∧ (Instr.irqArm 1023 63).wellFormed = true
    ∧ (Instr.nop ⟨0, 64, 0⟩).wellFormed = false ∧ (Instr.nop ⟨1024, 0, 0⟩).wellFormed = false ∧ (Instr.nop ⟨1023, 63, 0⟩).wellFormed = true
    ∧ (Instr.pageMoveComplete 0 8 0).wellFormed = false ∧ (Instr.pageMoveComplete 0 7 0).wellFormed = true
    ∧ (Instr.stackLost 12).wellFormed = false ∧ (Instr.stackLost 11).wellFormed = true
    ∧ (Instr.nodeMark wRef 11 16).wellFormed = false ∧ (Instr.nodeMark wRef 11 15).wellFormed = true
    ∧ (Instr.sramPatrolScrub 0 (some 18) [.uncorrectable 0]).wellFormed = false ∧ (Instr.sramPatrolScrub 0 (some 17) [.uncorrectable 0]).wellFormed = true
    ∧ (Instr.hbaseWrite 16 0).wellFormed = false ∧ (Instr.hbaseWrite 15 0).wellFormed = true
    ∧ (Instr.dimmChannelFail 16).wellFormed = false ∧ (Instr.dimmChannelFail 15).wellFormed = true
    ∧ (Instr.cyclicSlotEnd 64).wellFormed = false ∧ (Instr.cyclicSlotEnd 63).wellFormed = true := by decide
theorem test_wellformed_links :
    (Instr.flr 4 0).wellFormed = false ∧ (Instr.flr 3 16).wellFormed = false ∧ (Instr.flr 3 15).wellFormed = true
    ∧ (Instr.ucieRetrain 2 4).wellFormed = false ∧ (Instr.ucieRetrain 1 4).wellFormed = true
    ∧ (Instr.hb 12).wellFormed = false ∧ (Instr.hb 11).wellFormed = true
    ∧ (Instr.put 12).wellFormed = false ∧ (Instr.put 15).wellFormed = true
    ∧ (Instr.laneLockLoss 0 5 0).wellFormed = false ∧ (Instr.laneLockLoss 0 4 0).wellFormed = true
    ∧ (Instr.cablePresenceChange 12 .none).wellFormed = false ∧ (Instr.cablePresenceChange 11 .unreadable).wellFormed = true
    ∧ (Instr.urgentDewEnd 8).wellFormed = false ∧ (Instr.urgentDewEnd 7).wellFormed = true
    ∧ (Instr.evt 0 4096 0).wellFormed = false ∧ (Instr.evt 0 4095 0).wellFormed = true := by decide
theorem test_wellformed_values :
    (Instr.doorbellStrayWrite 0 4096).wellFormed = false ∧ (Instr.doorbellStrayWrite 0 4095).wellFormed = true
    ∧ (Instr.fetchRequest 0 0 0).wellFormed = false ∧ (Instr.fetchRequest 0 0 33).wellFormed = false ∧ (Instr.fetchRequest 0 0 32).wellFormed = true
    ∧ (Instr.arrayFault wRef 0 0 0 0 0).wellFormed = false ∧ (Instr.arrayFault wRef 0 0 6 0 0).wellFormed = false
    ∧ (Instr.arrayFault wRef 0 0 5 0 0).wellFormed = true
    ∧ (Instr.stageLoaded 1 0).wellFormed = false ∧ (Instr.stageLoaded 3 0).wellFormed = true
    ∧ (Instr.registerWrite (.space (2 ^ 32)) 0).wellFormed = false ∧ (Instr.registerWrite (.window 0 0x2000) 0).wellFormed = false
    ∧ (Instr.registerWrite (.window 0 0x1FF8) 0).wellFormed = true
    ∧ (Instr.hostReadResponse (.unknown 4)).wellFormed = false ∧ (Instr.hostReadResponse (.data 16 0 [])).wellFormed = false
    ∧ (Instr.hostReadResponse (.unknown 3)).wellFormed = true
    ∧ (Instr.hmsWr 0 0 0 0 (List.replicate 63 0)).wellFormed = false ∧ (Instr.hmsWr 0 0 0 0 (List.replicate 64 0)).wellFormed = true
    ∧ (Instr.challenge 0 (List.replicate 31 0)).wellFormed = false ∧ (Instr.challenge 0 (List.replicate 32 0)).wellFormed = true := by decide

end Sys2Proof.Tests
end

section
/-! PROOFS. What the proofs about the matrix array (04_matrix_array.md) share: tables, fields, checks, actions, and a seat's reads and writes. -/
namespace Sys2Proof.MatrixArray
open Sys2Proof.Machine

/-! ### Tables, bit fields, checks -/

/-- Of two puts at one number the second stands. -/
@[simp] theorem tput_tput_same {α : Type} (t : Tbl α) (k : Nat) (v w : α) : tput (tput t k v) k w = tput t k w := by
  induction t with
  | nil => simp [tput]
  | cons e r ih =>
    obtain ⟨j, u⟩ := e
    by_cases hlt : k < j
    · simp [tput, hlt]
    · by_cases heq : k = j
      · simp [tput, heq]
      · simp [tput, hlt, heq, ih]

/-- A field placed above the bits in use adds its value at its place. -/
theorem ofNat_or_at (x v lo : Nat) (h : x < 2 ^ lo) : BitVec.ofNat 64 x ||| at_ v lo = BitVec.ofNat 64 (x + v * 2 ^ lo) := by
  rw [at_, ← BitVec.ofNat_or, Nat.or_comm, ← Nat.shiftLeft_add_eq_or_of_lt h, Nat.shiftLeft_eq, Nat.add_comm]

theorem at_zero (v : Nat) : at_ v 0 = BitVec.ofNat 64 v := rfl

theorem checks_of_none {l : List (Bool × Stop)} (h : firstFail l = none) (s : State) : checks l s = .ok () s := by
  simp [checks, h]; rfl

theorem checks_of_some {l : List (Bool × Stop)} {st : Stop} (h : firstFail l = some st) (s : State) : checks l s = .error st s := by
  simp [checks, h]; rfl

theorem firstFail_append (l r : List (Bool × Stop)) (h : firstFail l = none) : firstFail (l ++ r) = firstFail r := by
  induction l with
  | nil => rfl
  | cons e l ih =>
    obtain ⟨bad, st⟩ := e
    cases bad with
    | true => simp [firstFail] at h
    | false => exact ih (by simpa [firstFail] using h)

/-- Reserved words that are 0 refuse nothing (R11). -/
theorem firstFail_rsvWords (d : Desc) (ws : List Nat) (h : ∀ j ∈ ws, d.word j = 0) : firstFail (rsvWords d ws) = none := by
  induction ws with
  | nil => rfl
  | cons j r ih =>
    have hj : fld (d.word j) 0 64 = 0 := by rw [h j (by simp)]; rfl
    simpa [rsvWords, rsv, firstFail, hj] using ih (fun i hi => h i (by simp [hi]))

/-! ### Actions, one step at a time -/

theorem bind_of_ok {α β : Type} {a : Act α} {f : α → Act β} {s t : State} {x : α} (h : a s = .ok x t) : (a >>= f) s = f x t := by
  show EStateM.bind a f s = f x t
  simp [EStateM.bind, h]

theorem bind_of_error {α β : Type} {a : Act α} {f : α → Act β} {s t : State} {st : Stop} (h : a s = .error st t) :
    (a >>= f) s = .error st t := by
  show EStateM.bind a f s = .error st t
  simp [EStateM.bind, h]

/-- An action that answers had a first part that answered. -/
theorem ok_of_bind {α β : Type} {a : Act α} {f : α → Act β} {s u : State} {y : β} (h : (a >>= f) s = .ok y u) :
    ∃ x t, a s = .ok x t ∧ f x t = .ok y u := by
  cases ha : a s with
  | ok x t => exact ⟨x, t, rfl, by rw [← h, bind_of_ok ha]⟩
  | error st t => rw [bind_of_error ha] at h; cases h

/-- The action only reads: from s it answers, the state as it is, and what it answers has the property. -/
def readsTo {α : Type} (a : Act α) (s : State) (P : α → Prop) : Prop := ∃ x, a s = .ok x s ∧ P x

/-- The action only reads. -/
def reads {α : Type} (a : Act α) (s : State) : Prop := readsTo a s (fun _ => True)

theorem readsTo_pure {α : Type} {P : α → Prop} {x : α} (s : State) (h : P x) : readsTo (pure x : Act α) s P := ⟨x, rfl, h⟩
theorem reads_pure {α : Type} (x : α) (s : State) : reads (pure x : Act α) s := readsTo_pure s trivial

theorem readsTo_bind {α β : Type} {a : Act α} {f : α → Act β} {s : State} {P : β → Prop} (ha : reads a s)
    (hf : ∀ x, readsTo (f x) s P) : readsTo (a >>= f) s P := by
  obtain ⟨x, hx, -⟩ := ha
  obtain ⟨y, hy, hP⟩ := hf x
  exact ⟨y, by rw [bind_of_ok hx, hy], hP⟩

theorem reads_bind {α β : Type} {a : Act α} {f : α → Act β} {s : State} (ha : reads a s) (hf : ∀ x, reads (f x) s) : reads (a >>= f) s :=
  readsTo_bind ha hf

theorem reads_mapM {α β : Type} {f : α → Act β} {s : State} (l : List α) (h : ∀ x, reads (f x) s) : reads (l.mapM f) s := by
  induction l with
  | nil => rw [List.mapM_nil]; exact reads_pure _ s
  | cons x r ih =>
    rw [List.mapM_cons]
    exact reads_bind (h x) (fun _ => reads_bind ih (fun _ => reads_pure _ s))

/-! ### A seat's reads and writes -/

theorem seat_modSeat_same (s : State) (c t q : Nat) (f : Seat → Seat) :
    ((s.modSeat c t q f).ctx c).seat t q = f ((s.ctx c).seat t q) := by
  simp [State.modSeat, Ctx.seat]

theorem seat_modSeat_other (s : State) (c t q a b : Nat) (f : Seat → Seat) (h : 16 * a + b ≠ 16 * t + q) :
    ((s.modSeat c t q f).ctx c).seat a b = (s.ctx c).seat a b := by
  simp only [State.modSeat, State.ctx_modCtx_same, Ctx.seat]
  exact tget_tput_other _ _ _ _ _ (by omega)

theorem ctx_modSeat (s : State) (c t q : Nat) (f : Seat → Seat) :
    (s.modSeat c t q f).ctx c = { s.ctx c with seats := tput (s.ctx c).seats (t * 16 + q) (f ((s.ctx c).seat t q)) } := by
  simp [State.modSeat]

/-- Of two changes of one seat the second acts on what the first made. -/
theorem modSeat_modSeat (s : State) (c t q : Nat) (f g : Seat → Seat) :
    (s.modSeat c t q f).modSeat c t q g = s.modSeat c t q (fun k => g (f k)) := by
  have hg := seat_modSeat_same s c t q f
  simp only [State.modSeat, State.modCtx] at hg ⊢
  simp only [hg]
  simp [State.ctx]

@[simp] theorem desc_modSeat (s : State) (c t q : Nat) (f : Seat → Seat) (ref : DescRef) : (s.modSeat c t q f).desc ref = s.desc ref := by
  by_cases h : ref.ctx = c
  · simp [State.desc, Ctx.findDesc, h, ctx_modSeat]
  · simp [State.desc, State.modSeat, State.ctx_modCtx_other _ _ _ _ h]

/-- From s to v nothing changes but seat q of tile t in context c. -/
def onlySeat (s v : State) (c t q : Nat) : Prop :=
  s.onlyCtx v c ∧ v.ctx c = { s.ctx c with seats := (v.ctx c).seats } ∧
    ∀ a b, 16 * a + b ≠ 16 * t + q → (v.ctx c).seat a b = (s.ctx c).seat a b

theorem onlyCtx_trans {s u v : State} {c : Nat} (h1 : s.onlyCtx u c) (h2 : u.onlyCtx v c) : s.onlyCtx v c := by
  obtain ⟨e1, o1⟩ := h1
  obtain ⟨e2, o2⟩ := h2
  exact ⟨by rw [e2, e1], fun j h => (o2 j h).trans (o1 j h)⟩

theorem onlySeat_refl (s : State) (c t q : Nat) : onlySeat s s c t q := ⟨⟨rfl, fun _ _ => rfl⟩, rfl, fun _ _ _ => rfl⟩

theorem onlySeat_trans {s u v : State} {c t q : Nat} (h1 : onlySeat s u c t q) (h2 : onlySeat u v c t q) : onlySeat s v c t q := by
  obtain ⟨c1, x1, o1⟩ := h1
  obtain ⟨c2, x2, o2⟩ := h2
  exact ⟨onlyCtx_trans c1 c2, by rw [x2, x1], fun a b h => (o2 a b h).trans (o1 a b h)⟩

theorem modSeat_onlySeat (s : State) (c t q : Nat) (f : Seat → Seat) : onlySeat s (s.modSeat c t q f) c t q :=
  ⟨⟨rfl, fun j h => State.ctx_modCtx_other s c j _ h⟩, by rw [ctx_modSeat], fun a b h => seat_modSeat_other s c t q a b f h⟩

theorem onlySeat_desc {s v : State} {t q : Nat} {ref : DescRef} (h : onlySeat s v ref.ctx t q) : v.desc ref = s.desc ref := by
  obtain ⟨-, hx, -⟩ := h
  rw [State.desc, hx]
  rfl

/-- The seat after a write: the bytes are stored, and the words written whole are good again (R451). -/
def written (a : Nat) (bs : List Byte) (k : Seat) : Seat :=
  { k.store a bs with bad := k.bad.filter (fun x => !(wordsOf a bs.length).contains x) }

/-- A write that leaves no uncorrectable word half old takes place. -/
theorem wrSeat_of_whole {w : Who} {t q a : Nat} {bs : List Byte} {s : State}
    (h : (partWords a bs.length).find? ((s.ctx w.ctx).seat t q).bad.contains = none) :
    wrSeat w t q a bs s = .ok () (s.modSeat w.ctx t q (written a bs)) := by
  have hget : (get : Act State) s = .ok s s := rfl
  rw [wrSeat, bind_of_ok hget, h]
  rfl

/-- A write of part of an uncorrectable word stops (R451). -/
theorem wrSeat_of_part {w : Who} {t q a i : Nat} {bs : List Byte} {s : State}
    (h : (partWords a bs.length).find? ((s.ctx w.ctx).seat t q).bad.contains = some i) :
    wrSeat w t q a bs s = failSram w 1 t q (i / 8) s := by
  have hget : (get : Act State) s = .ok s s := rfl
  rw [wrSeat, bind_of_ok hget, h]

/-- A write that answers has changed its seat alone (R201). -/
theorem wrSeat_onlySeat {w : Who} {t q a : Nat} {bs : List Byte} {s s1 : State} (h : wrSeat w t q a bs s = .ok () s1) :
    onlySeat s s1 w.ctx t q := by
  cases hbad : (partWords a bs.length).find? ((s.ctx w.ctx).seat t q).bad.contains with
  | none =>
    rw [wrSeat_of_whole hbad] at h
    cases h
    exact modSeat_onlySeat _ _ _ _ _
  | some i =>
    rw [wrSeat_of_part hbad] at h
    cases h

theorem forM_wrSeat_onlySeat {w : Who} {t q : Nat} (ws : List (Nat × List Byte)) {s s1 : State}
    (h : ws.forM (fun e => wrSeat w t q e.1 e.2) s = .ok () s1) : onlySeat s s1 w.ctx t q := by
  induction ws generalizing s with
  | nil => cases h; exact onlySeat_refl _ _ _ _
  | cons e r ih =>
    obtain ⟨_, u, hu, hr⟩ := ok_of_bind (a := wrSeat w t q e.1 e.2) (f := fun _ => r.forM (fun e => wrSeat w t q e.1 e.2)) h
    exact onlySeat_trans (wrSeat_onlySeat hu) (ih hr)

@[simp] theorem store_bad (k : Seat) (a : Nat) (bs : List Byte) : (k.store a bs).bad = k.bad := by
  induction bs generalizing k a with
  | nil => rfl
  | cons b r ih => rw [Seat.store, ih]

/-- In a seat without uncorrectable words a write only stores its bytes. -/
theorem written_of_clean (a : Nat) (bs : List Byte) (k : Seat) (h : k.bad = []) : written a bs k = k.store a bs := by
  calc written a bs k = { k.store a bs with bad := (k.store a bs).bad } := by rw [written, h, store_bad, h]; rfl
    _ = k.store a bs := rfl

/-- The rows of a pass are stored in order, in a scratchpad without uncorrectable words (R108). -/
theorem forM_wrSeat_of_clean (w : Who) (t q : Nat) (ws : List (Nat × List Byte)) (s : State) (h : ((s.ctx w.ctx).seat t q).bad = []) :
    ∃ s1, ws.forM (fun e => wrSeat w t q e.1 e.2) s = .ok () s1 ∧
      (s1.ctx w.ctx).seat t q = ws.foldl (fun k e => k.store e.1 e.2) ((s.ctx w.ctx).seat t q) := by
  induction ws generalizing s with
  | nil => exact ⟨s, rfl, rfl⟩
  | cons e r ih =>
    have hw : wrSeat w t q e.1 e.2 s = .ok () (s.modSeat w.ctx t q (written e.1 e.2)) := wrSeat_of_whole (by simp [h])
    have hk : ((s.modSeat w.ctx t q (written e.1 e.2)).ctx w.ctx).seat t q = ((s.ctx w.ctx).seat t q).store e.1 e.2 := by
      rw [seat_modSeat_same, written_of_clean _ _ _ h]
    obtain ⟨s1, hs1, hseat⟩ := ih _ (by rw [hk, store_bad, h])
    exact ⟨s1, (bind_of_ok hw).trans hs1, by rw [hseat, hk]; rfl⟩

/-- In a scratchpad without uncorrectable words every read answers. -/
theorem reads_rdSeat (w : Who) (t q a n : Nat) (s : State) (h : ((s.ctx w.ctx).seat t q).bad = []) : reads (rdSeat w t q a n) s := by
  have hnone : (wordsOf a n).find? ((s.ctx w.ctx).seat t q).bad.contains = none := by simp [h]
  refine ⟨(List.range n).map (fun i => ((s.ctx w.ctx).seat t q).byteAt (a + i)), ?_, trivial⟩
  have hget : (get : Act State) s = .ok s s := rfl
  rw [rdSeat, bind_of_ok hget, hnone]
  rfl

end Sys2Proof.MatrixArray
end

section
/-! PROOFS. A descriptor's progress and end, the state in which a unit begins, and the reads of a MATMUL. -/
namespace Sys2Proof.MatrixArray
open Sys2Proof.Machine

/-! ### A descriptor's progress and its end -/

theorem findDesc_is {x : Ctx} {r : Nat} {i : Word} {d : Desc} (h : x.findDesc r i = some d) : d.ring = r ∧ d.index = i := by
  have := List.find?_some h
  simpa [Desc.is] using this

theorem desc_is {s : State} {ref : DescRef} {d : Desc} (h : s.desc ref = some d) : d.ring = ref.ring ∧ d.index = ref.index := findDesc_is h

/-- The descriptor that a list holds first under a name is the changed one, when all of that name are changed. -/
theorem find_map_is (l : List Desc) (r : Nat) (i : Word) (f : Desc → Desc) (hf : ∀ d, (f d).is r i = d.is r i) :
    (l.map (fun d => if d.is r i then f d else d)).find? (fun d => d.is r i) = (l.find? (fun d => d.is r i)).map f := by
  induction l with
  | nil => rfl
  | cons d l ih => by_cases h : d.is r i = true <;> simp [h, hf, ih]

theorem filter_map_is (l : List Desc) (r : Nat) (i : Word) (f : Desc → Desc) (hf : ∀ d, (f d).is r i = d.is r i) :
    (l.map (fun d => if d.is r i then f d else d)).filter (fun d => !d.is r i) = l.filter (fun d => !d.is r i) := by
  induction l with
  | nil => rfl
  | cons d l ih => by_cases h : d.is r i = true <;> simp [h, hf, ih]

theorem latchFreeze_eq (x : Ctx) : x.latchFreeze = { x with freezing := x.latchFreeze.freezing } := by
  unfold Ctx.latchFreeze
  dsimp only
  split
  · split <;> rfl
  · rfl

/-- A descriptor as its unit's status ends it (R57, R58, R60). -/
def endedDesc (st : Stop) (d : Desc) : Desc :=
  { d with st := .done, status := st.status, result := st.result, prog := d.prog.kept, issued := d.issued && !st.refuses d.opcode }

/-- An ended descriptor, where the status is not a refusal and the progress is not kept. -/
theorem endedDesc_eq (st : Stop) (d : Desc) (hk : d.prog.kept = .none) (hr : st.refuses d.opcode = false) :
    endedDesc st d = { d with st := .done, status := st.status, result := st.result, prog := .none } := by
  simp [endedDesc, hk, hr]

theorem ctx_setProg (s : State) (c r : Nat) (i : Word) (p : Prog) :
    (s.setProg c r i p).ctx c = { s.ctx c with descs := (s.ctx c).descs.map (fun d => if d.is r i then { d with prog := p } else d) } := by
  simp [State.setProg, State.modDesc]

theorem ctx_finish (s : State) (c r : Nat) (i : Word) (st : Stop) : ∃ fz, (s.finish c r i st).ctx c =
    { s.ctx c with descs := (s.ctx c).descs.map (fun d => if d.is r i then endedDesc st d else d), freezing := fz } := by
  refine ⟨((s.finish c r i st).ctx c).freezing, ?_⟩
  simp only [State.finish, State.modDesc, State.ctx_modCtx_same]
  exact latchFreeze_eq _

/-- Where the descriptors of one name are changed, the reference names the changed one. -/
theorem desc_of_map {s v : State} {ref : DescRef} {d : Desc} {f : Desc → Desc} (h : s.desc ref = some d)
    (hf : ∀ d, (f d).is ref.ring ref.index = d.is ref.ring ref.index)
    (hv : (v.ctx ref.ctx).descs = (s.ctx ref.ctx).descs.map (fun d => if d.is ref.ring ref.index then f d else d)) :
    v.desc ref = some (f d) := by
  rw [State.desc, Ctx.findDesc] at h ⊢
  rw [hv, find_map_is _ _ _ _ hf, h]
  rfl

theorem desc_setProg {s : State} {ref : DescRef} {d : Desc} (h : s.desc ref = some d) (p : Prog) :
    (s.setProg ref.ctx ref.ring ref.index p).desc ref = some { d with prog := p } :=
  desc_of_map (f := fun d => { d with prog := p }) h (fun _ => rfl) (by rw [ctx_setProg])

theorem desc_finish {s : State} {ref : DescRef} {d : Desc} (h : s.desc ref = some d) (st : Stop) :
    (s.finish ref.ctx ref.ring ref.index st).desc ref = some (endedDesc st d) := by
  obtain ⟨fz, hx⟩ := ctx_finish s ref.ctx ref.ring ref.index st
  exact desc_of_map (f := endedDesc st) h (fun _ => rfl) (by rw [hx])

theorem seat_setProg (s : State) (c r : Nat) (i : Word) (p : Prog) (t q : Nat) :
    ((s.setProg c r i p).ctx c).seat t q = (s.ctx c).seat t q := by
  rw [ctx_setProg]; rfl

theorem seat_finish (s : State) (c r : Nat) (i : Word) (st : Stop) (t q : Nat) :
    ((s.finish c r i st).ctx c).seat t q = (s.ctx c).seat t q := by
  obtain ⟨fz, hx⟩ := ctx_finish s c r i st
  rw [hx]; rfl

/-! #### Within a context: one seat, one descriptor, and the FREEZE that waits -/

theorem onlySeatDesc_trans {x y z : Ctx} {t q r : Nat} {i : Word} (h1 : x.onlySeatDesc y t q r i) (h2 : y.onlySeatDesc z t q r i) :
    x.onlySeatDesc z t q r i := by
  obtain ⟨e1, o1, f1⟩ := h1
  obtain ⟨e2, o2, f2⟩ := h2
  exact ⟨by rw [e2, e1], fun a b h => (o2 a b h).trans (o1 a b h), f2.trans f1⟩

theorem onlySeat_onlySeatDesc {s v : State} {c t q : Nat} (h : onlySeat s v c t q) (r : Nat) (i : Word) :
    (s.ctx c).onlySeatDesc (v.ctx c) t q r i := by
  obtain ⟨-, hx, ho⟩ := h
  exact ⟨by rw [hx], ho, by rw [hx]⟩

theorem setProg_onlySeatDesc (s : State) (c r : Nat) (i : Word) (p : Prog) (t q : Nat) :
    (s.ctx c).onlySeatDesc ((s.setProg c r i p).ctx c) t q r i :=
  ⟨by rw [ctx_setProg], fun a b _ => seat_setProg s c r i p a b, by rw [ctx_setProg]; exact filter_map_is _ _ _ _ (fun _ => rfl)⟩

theorem finish_onlySeatDesc (s : State) (c r : Nat) (i : Word) (st : Stop) (t q : Nat) :
    (s.ctx c).onlySeatDesc ((s.finish c r i st).ctx c) t q r i := by
  refine ⟨?_, fun a b _ => seat_finish s c r i st a b, ?_⟩ <;> obtain ⟨fz, hx⟩ := ctx_finish s c r i st <;> rw [hx]
  exact filter_map_is _ _ _ _ (fun _ => rfl)

/-! ### The state in which a unit begins -/

theorem ctx_begun (s : State) (ref : DescRef) (d : Desc) : ∃ ds ls fz,
    (s.begun ref d).ctx ref.ctx = { s.ctx ref.ctx with descs := ds, lastServed := ls, freezing := fz } := by
  refine ⟨((s.begun ref d).ctx ref.ctx).descs, ((s.begun ref d).ctx ref.ctx).lastServed, ((s.begun ref d).ctx ref.ctx).freezing, ?_⟩
  simp only [State.begun, State.startIssue, State.modDesc, State.ctx_tick, State.ctx_modCtx_same]
  rw [latchFreeze_eq]

@[simp] theorem judged_begun (s : State) (ref : DescRef) (d : Desc) (u : PlanUse) :
    ((s.begun ref d).ctx ref.ctx).judged u = (s.ctx ref.ctx).judged u := by
  obtain ⟨_, _, _, h⟩ := ctx_begun s ref d
  rw [h]; rfl

@[simp] theorem planCheck_begun (s : State) (ref : DescRef) (d : Desc) (u : PlanUse) :
    ((s.begun ref d).ctx ref.ctx).planCheck u = (s.ctx ref.ctx).planCheck u := by
  obtain ⟨_, _, _, h⟩ := ctx_begun s ref d
  rw [h]; rfl

@[simp] theorem frozen_begun (s : State) (ref : DescRef) (d : Desc) : ((s.begun ref d).ctx ref.ctx).frozen = (s.ctx ref.ctx).frozen := by
  obtain ⟨_, _, _, h⟩ := ctx_begun s ref d
  rw [h]

@[simp] theorem cfg_begun (s : State) (ref : DescRef) (d : Desc) : ((s.begun ref d).ctx ref.ctx).cfg = (s.ctx ref.ctx).cfg := by
  obtain ⟨_, _, _, h⟩ := ctx_begun s ref d
  rw [h]

@[simp] theorem ring_begun (s : State) (ref : DescRef) (d : Desc) (k : Nat) :
    ((s.begun ref d).ctx ref.ctx).ring k = (s.ctx ref.ctx).ring k := by
  obtain ⟨_, _, _, h⟩ := ctx_begun s ref d
  rw [h]; rfl

@[simp] theorem chain_begun (s : State) (ref : DescRef) (d : Desc) (k : Nat) :
    ((s.begun ref d).ctx ref.ctx).chain k = (s.ctx ref.ctx).chain k := by
  obtain ⟨_, _, _, h⟩ := ctx_begun s ref d
  rw [h]; rfl

@[simp] theorem seat_begun (s : State) (ref : DescRef) (d : Desc) (t q : Nat) :
    ((s.begun ref d).ctx ref.ctx).seat t q = (s.ctx ref.ctx).seat t q := by
  obtain ⟨_, _, _, h⟩ := ctx_begun s ref d
  rw [h]; rfl

@[simp] theorem ringSeat_begun (s : State) (ref : DescRef) (d : Desc) (k : Nat) :
    (s.begun ref d).ringSeat ref.ctx k = s.ringSeat ref.ctx k := by
  simp [State.ringSeat]

@[simp] theorem narrowedSeat_begun (s : State) (ref : DescRef) (d : Desc) (t q : Nat) :
    (s.begun ref d).narrowedSeat ref.ctx t q = s.narrowedSeat ref.ctx t q := by
  obtain ⟨_, _, _, h⟩ := ctx_begun s ref d
  rw [State.narrowedSeat, h]; rfl

/-! ### MATMUL reads its operands -/

section
variable {w : Who} {t q : Nat} {s : State} (h : ((s.ctx w.ctx).seat t q).bad = [])
include h

theorem reads_rdEng (a n : Nat) : reads (rdEng w t q a n) s := by
  refine reads_bind ⟨s, rfl, trivial⟩ (fun u => reads_bind (reads_rdSeat w t q a n s h) (fun bs => ?_))
  cases u.staged w.ctx t q <;> exact reads_pure _ s

theorem reads_elemAt (a code : Nat) : reads (elemAt w t q a code) s := reads_bind (reads_rdEng h a _) (fun _ => reads_pure _ s)

theorem reads_feedVals (code lane g kk : Nat) (addr scale : Nat → Nat) : reads (feedVals w t q code lane g kk addr scale) s := by
  refine reads_bind (reads_mapM _ (fun k => reads_bind (reads_rdSeat w t q _ _ s h) (fun _ => reads_pure _ s))) (fun groups => ?_)
  dsimp only
  split
  · exact reads_bind (reads_mapM _ (fun b => reads_bind (reads_rdSeat w t q _ _ s h) (fun _ => reads_pure _ s))) (fun _ => reads_pure _ s)
  · exact reads_pure _ s

/-- Without a chain a row drains from reads alone (R100). -/
theorem reads_drainRow (m : Matmul) (nn : Nat) (ps : List (Nat × Nat)) (r : Nat) (roots : List SV) :
    reads (m.drainRow w t q none nn ps r roots) s := by
  unfold Matmul.drainRow
  dsimp only
  split
  · exact reads_bind (reads_mapM _ (fun c => reads_bind (reads_elemAt h _ _) (fun _ => reads_pure _ s))) (fun _ => reads_pure _ s)
  · exact reads_pure _ s

omit h in
theorem reads_operandFault {α : Type} {a : Act α} (c : Nat) (ha : reads a s) : reads (operandFault c t q a) s := by
  obtain ⟨x, hx, -⟩ := ha
  exact ⟨x, by simp [operandFault, hx], trivial⟩

/-- Without a chain, in a scratchpad without uncorrectable words, the passes are computed from reads alone, one for each range of
columns (R100 to R102). -/
theorem readsTo_compute (m : Matmul) (narrowed : Bool) (mm nn kk : Nat) (csky : Option (DWord × Nat × Nat × Nat)) :
    readsTo (m.compute w t q none narrowed mm nn kk csky) s (fun r => r.1.length = (passRanges m.shape nn narrowed).length) := by
  unfold Matmul.compute
  dsimp only
  refine readsTo_bind (reads_operandFault _ (reads_mapM _ (fun r => reads_bind (reads_feedVals h _ _ _ _ _ _) (fun _ => reads_pure _ s))))
    (fun avs => ?_)
  refine readsTo_bind (reads_operandFault _ (reads_mapM _ (fun r => reads_bind (reads_feedVals h _ _ _ _ _ _) (fun _ => reads_pure _ s))))
    (fun bvs => ?_)
  refine readsTo_bind (reads_mapM _ (fun p => reads_drainRow h m _ _ _ _)) (fun outs => ?_)
  exact readsTo_pure s (by simp)

end

/-- With its dimensions in the descriptor a MATMUL takes them as they are (R146, R147). -/
theorem runDims_of_immediate (w : Who) (u : PlanUse) (s : State) (h : u.plan = 0xFFF) :
    runDims w u s = .ok (if u.imm.any (· == 0) then none else some u.imm) s := by
  have hplan : (s.ctx w.ctx).planOf u = none := by simp [Ctx.planOf, h]
  have hget : (get : Act State) s = .ok s s := rfl
  have htake : takeDims some w u s = .ok (u.imm.map (fun v => (v, 0))) s := by
    rw [takeDims, bind_of_ok hget, hplan]
    rfl
  rw [runDims, bind_of_ok htake, judgeDims, bind_of_ok hget, hplan]
  cases hz : u.imm.any (· == 0) <;> simp [Function.comp_def, hz] <;> rfl

end Sys2Proof.MatrixArray
end

section
/-! PROOFS. MATMUL issues, and the commit queue releases its passes (R96 to R108). -/
namespace Sys2Proof.MatrixArray
open Sys2Proof.Machine

theorem require_of_true {ok : Bool} {st : Stop} (h : ok = true) (s : State) : require ok st s = .ok () s := by
  rw [require, h]; rfl

/-! ### MATMUL issues (R96, R97, R100, R101, R105) -/

/-- A MATMUL whose phase check, plan check and chain pass meets no refusal of check 11. -/
theorem firstFail_phase_plan_chain {x : Ctx} {d : Desc} {bad : Bool} {st : Stop} (hop : d.opcode = 0x100) (hf : x.frozen = false)
    (hp : firstFail (x.planCheck d.muse) = none) (hb : bad = false) :
    firstFail (phaseCheck x d.opcode :: x.planCheck d.muse ++ [(bad, st)]) = none := by
  have hphase : x.phaseBad d.opcode = false := by rw [hop]; simp [Ctx.phaseBad, hf]
  rw [List.cons_append, firstFail, phaseCheck, hphase]
  simp [firstFail_append _ _ hp, firstFail, hb]

/-- A MATMUL that passes its checks takes its run-time dimensions with the ring's armed snapshot taken: one that is 0 ends it with 0x01;
else it goes on with its passes and its RESULT, unless a row to be held whole does not fit the chain buffer (R109). -/
theorem unitMatmul_of_checks {b : State} {c : Nat} {d : Desc} (hop : d.opcode = 0x100) (hf : (b.ctx c).frozen = false)
    (hc : firstFail (d.matmul.checks d ((b.ctx c).judged d.muse)) = none) (hp : firstFail ((b.ctx c).planCheck d.muse) = none)
    (hch : d.matmul.chainEn = true → ((b.ctx c).chain d.matmul.slot).isSome) :
    let m := d.matmul
    let tq := b.ringSeat c d.ring
    let narrowed := b.narrowedSeat c tq.1 tq.2
    let csky := ((b.ctx c).ring d.ring).csky
    let ch := if m.chainEn then (b.ctx c).chain m.slot else none
    let u := b.modRing c d.ring (fun r => { r with csky := none })
    (∀ v, runDims (d.who c) d.muse u = .ok none v → unitMatmul c d b = .ok (some ⟨1, 0⟩) v) ∧
    (∀ mm nn kk v w passes fl, runDims (d.who c) d.muse u = .ok (some [mm, nn, kk]) v →
      (rowHeld ((ch.map (·.stages)).getD []) = false ∨ (passRanges m.shape nn narrowed).length ≤ 1 ∨
        (shapeOf m.shape).maxM * ((passRanges m.shape nn narrowed).getLastD (0, 0)).1 * 4 ≤ 65536) →
      m.compute (d.who c) tq.1 tq.2 ch narrowed mm nn kk csky v = .ok (passes, fl) w →
      unitMatmul c d b = .ok none (w.setProg c d.ring d.index
        (.matmul tq.1 tq.2 w.free passes (csky.map (fun k => (k.1.toNat, k.2.1)))
          (m.result mm (passRanges m.shape nn narrowed).length fl) none))) := by
  intro m tq narrowed csky ch u
  have hget : (get : Act State) b = .ok b b := rfl
  have hset : (set u : Act Unit) b = .ok () u := rfl
  have hno : (m.chainEn && ch.isNone) = false := by
    cases he : m.chainEn with
    | false => rfl
    | true => simpa [ch, he] using hch he
  have h11 := firstFail_phase_plan_chain (st := badState (b.ctx c) 0x0101) hop hf hp hno
  rw [unitMatmul, bind_of_ok hget]
  dsimp only
  rw [bind_of_ok hset, bind_of_ok (checks_of_none hc u), bind_of_ok (checks_of_none h11 u)]
  constructor
  · intro v hv
    rw [bind_of_ok hv]
    rfl
  · intro mm nn kk v w passes fl hv hroom hcomp
    have hok : (!(rowHeld ((ch.map (·.stages)).getD []) && decide (1 < (passRanges m.shape nn narrowed).length)
        && decide (65536 < (shapeOf m.shape).maxM * ((passRanges m.shape nn narrowed).getLastD (0, 0)).1 * 4))) = true := by
      rcases hroom with h | h | h
      · simp [h]
      · rw [decide_eq_false (Nat.not_lt.mpr h), Bool.and_false, Bool.false_and, Bool.not_false]
      · rw [decide_eq_false (Nat.not_lt.mpr h), Bool.and_false, Bool.not_false]
    rw [bind_of_ok hv]
    refine (bind_of_ok (require_of_true hok v)).trans ?_
    exact (bind_of_ok hcomp).trans rfl

/-- The same as the command: what a MATMUL that issues outside FROZEN and passes its checks does (R97, R101, R108). -/
theorem exec_matmul_of_checks {s : State} {ref : DescRef} {d : Desc} (hi : s.issues ref 0x100 d) (hf : (s.ctx ref.ctx).frozen = false)
    (hc : firstFail (d.matmul.checks d ((s.ctx ref.ctx).judged d.muse)) = none) (hp : firstFail ((s.ctx ref.ctx).planCheck d.muse) = none)
    (hch : d.matmul.chainEn = true → ((s.ctx ref.ctx).chain d.matmul.slot).isSome) :
    let m := d.matmul
    let tq := s.ringSeat ref.ctx d.ring
    let narrowed := s.narrowedSeat ref.ctx tq.1 tq.2
    let csky := ((s.ctx ref.ctx).ring d.ring).csky
    let ch := if m.chainEn then (s.ctx ref.ctx).chain m.slot else none
    let u := (s.begun ref d).modRing ref.ctx d.ring (fun r => { r with csky := none })
    (∀ v, runDims (d.who ref.ctx) d.muse u = .ok none v → exec (.matmul ref) s = .next (v.ended ref 0x01 0)) ∧
    (∀ mm nn kk v w passes fl, runDims (d.who ref.ctx) d.muse u = .ok (some [mm, nn, kk]) v →
      (rowHeld ((ch.map (·.stages)).getD []) = false ∨ (passRanges m.shape nn narrowed).length ≤ 1 ∨
        (shapeOf m.shape).maxM * ((passRanges m.shape nn narrowed).getLastD (0, 0)).1 * 4 ≤ 65536) →
      m.compute (d.who ref.ctx) tq.1 tq.2 ch narrowed mm nn kk csky v = .ok (passes, fl) w →
      exec (.matmul ref) s = .next (w.setProg ref.ctx ref.ring ref.index
        (.matmul tq.1 tq.2 w.free passes (csky.map (fun k => (k.1.toNat, k.2.1)))
          (m.result mm (passRanges m.shape nn narrowed).length fl) none))) := by
  have hexec : exec (.matmul ref) s =
      .next (State.settle ref.ctx ref.ring ref.index (unitMatmul ref.ctx d (s.begun ref d))) :=
    congrArg _ (issue_of_issues 0x100 ref d (unitMatmul ref.ctx) s hi)
  obtain ⟨hd, hop, -, -⟩ := hi
  obtain ⟨hr, hx⟩ := desc_is hd
  have hu := unitMatmul_of_checks (b := s.begun ref d) (c := ref.ctx) hop (by simpa using hf) (by simpa using hc) (by simpa using hp)
    (by simpa using hch)
  simp only [ringSeat_begun, narrowedSeat_begun, ring_begun, chain_begun] at hu
  obtain ⟨hnone, hsome⟩ := hu
  refine ⟨fun v hv => ?_, fun mm nn kk v w passes fl hv hroom hcomp => ?_⟩
  · rw [hexec, hnone v hv]
    rfl
  · rw [hexec, hsome mm nn kk v w passes fl hv hroom hcomp, hr, hx]
    rfl

/-! ### The commit queue releases a pass (R108) -/

theorem continueArray_of_works {s : State} {ref : DescRef} {d : Desc} (unit : Desc → Act (Option Stop)) (h : s.arrayWorks ref d) :
    continueArray ref unit s = State.settle ref.ctx ref.ring ref.index (unit d s.tick) := by
  obtain ⟨hd, hop, hst, hrun, hpl, hre⟩ := h
  simp [continueArray, hd, hop, hst, hrun, hpl, hre]

/-- The seat once a pass has been released: the roots have gone through the shadow registers (R90), and one pass fewer is to come before the
standing one (R114). -/
def releasedSeat (d : Desc) (p : Pass) (k : Seat) : Seat :=
  (k.finalise p (if d.matmul.seg = 0 then none else some d.matmul.seg)).oneReleased

/-- The oldest pass is clean: once its rows are stored the roots go through the shadow registers; after the last pass the descriptor
ends, with the fault of a later pass where there was one, and before it the others stay queued (R90, R108, R117). -/
theorem settle_unitPassClean_of_oldest {s s1 : State} {c t q st : Nat} (r : Nat) (i : Word) {d : Desc} {p : Pass}
    {rest : List Pass} {cs : Option (Nat × Nat)} {res : DWord} {f : Option DWord}
    (hprog : d.prog = .matmul t q st (p :: rest) cs res f) (hold : (s.ctx c).oldestPass t q st = true)
    (hsnap : p.snaps = []) (hstand : ((s.ctx c).seat t q).stands = false)
    (hw : p.writes.forM (fun e => wrSeat (d.who c) t q e.1 e.2) s = .ok () s1) :
    let u := s1.modSeat c t q (releasedSeat d p)
    State.settle c r i (unitPassClean c d s) =
      if rest = [] then u.finish c r i ⟨if f = none then 0x00 else 0x30, f.getD res⟩
      else u.setProg c d.ring d.index (.matmul t q st rest cs res f) := by
  intro u
  have hget : getCtx c s = .ok (s.ctx c) s := rfl
  rw [unitPassClean, bind_of_ok hget, hprog]
  simp only [hold, hsnap, hstand, List.isEmpty_nil, Bool.not_false, Bool.and_self, if_true]
  rw [bind_of_ok hw]
  cases rest with
  | nil => cases f <;> rfl
  | cons r rs => rfl

theorem exec_passClean (s : State) (ref : DescRef) : exec (.passClean ref) s = .next (continueArray ref (unitPassClean ref.ctx) s) := rfl

/-- PASS_CLEAN on the oldest pass of its core, in a scratchpad without uncorrectable words. -/
theorem exec_passClean_of_oldest {s : State} {ref : DescRef} {d : Desc} {t q st : Nat} {p : Pass} {rest : List Pass}
    {cs : Option (Nat × Nat)} {res : DWord} {f : Option DWord} (hw : s.arrayWorks ref d)
    (hprog : d.prog = .matmul t q st (p :: rest) cs res f) (hold : (s.ctx ref.ctx).oldestPass t q st = true) (hsnap : p.snaps = [])
    (hstand : ((s.ctx ref.ctx).seat t q).stands = false) (hbad : ((s.ctx ref.ctx).seat t q).bad = []) :
    ∃ v : State, exec (.passClean ref) s = .next v ∧
      (v.ctx ref.ctx).seat t q = ((p.writes.foldl (fun k e => k.store e.1 e.2) ((s.ctx ref.ctx).seat t q)).finalise p
        (if d.matmul.seg = 0 then none else some d.matmul.seg)).oneReleased ∧
      v = { s with free := s.free + 1, ctxs := v.ctxs } ∧ (∀ j, j ≠ ref.ctx → v.ctx j = s.ctx j) ∧
      (s.ctx ref.ctx).onlySeatDesc (v.ctx ref.ctx) t q ref.ring ref.index ∧
      v.desc ref = some (if rest = [] then { d with st := .done, status := if f = none then 0x00 else 0x30, result := f.getD res, prog := .none }
        else { d with prog := .matmul t q st rest cs res f }) := by
  obtain ⟨hd, -⟩ := id hw
  obtain ⟨hr, hx⟩ := desc_is hd
  obtain ⟨s1, hs1, hseat⟩ := forM_wrSeat_of_clean (d.who ref.ctx) t q p.writes s.tick hbad
  have hu : onlySeat s.tick (s1.modSeat ref.ctx t q (releasedSeat d p)) ref.ctx t q :=
    onlySeat_trans (forM_wrSeat_onlySeat p.writes hs1) (modSeat_onlySeat _ _ _ _ _)
  have hud : (s1.modSeat ref.ctx t q (releasedSeat d p)).desc ref = some d := (onlySeat_desc hu).trans hd
  have huseat : ((s1.modSeat ref.ctx t q (releasedSeat d p)).ctx ref.ctx).seat t q =
      releasedSeat d p (p.writes.foldl (fun k e => k.store e.1 e.2) ((s.ctx ref.ctx).seat t q)) := by
    rw [seat_modSeat_same]; exact congrArg (releasedSeat d p) hseat
  have hexec := settle_unitPassClean_of_oldest (s := s.tick) ref.ring ref.index hprog hold hsnap hstand hs1
  rw [← continueArray_of_works _ hw, hr, hx] at hexec
  have hctx : (s.ctx ref.ctx).onlySeatDesc ((s1.modSeat ref.ctx t q (releasedSeat d p)).ctx ref.ctx) t q ref.ring ref.index :=
    onlySeat_onlySeatDesc hu _ _
  refine ⟨_, (exec_passClean s ref).trans (congrArg _ hexec), ?_⟩
  by_cases hlast : rest = []
  · have hfin : s.tick.onlyCtx _ ref.ctx := onlyCtx_trans hu.1
      (State.finish_onlyCtx (s1.modSeat ref.ctx t q (releasedSeat d p)) ref.ctx ref.ring ref.index ⟨if f = none then 0x00 else 0x30, f.getD res⟩)
    simp only [hlast, if_true]
    refine ⟨(seat_finish _ _ _ _ _ _ _).trans huseat, hfin.1, hfin.2, onlySeatDesc_trans hctx (finish_onlySeatDesc _ _ _ _ _ _ _), ?_⟩
    rw [desc_finish hud, endedDesc_eq _ _ (by rw [hprog]; rfl) (by cases f <;> rfl)]
  · have hset : s.tick.onlyCtx _ ref.ctx := onlyCtx_trans hu.1
      (State.setProg_onlyCtx (s1.modSeat ref.ctx t q (releasedSeat d p)) ref.ctx ref.ring ref.index (.matmul t q st rest cs res f))
    simp only [hlast, if_false]
    exact ⟨(seat_setProg _ _ _ _ _ _ _).trans huseat, hset.1, hset.2, onlySeatDesc_trans hctx (setProg_onlySeatDesc _ _ _ _ _ _ _),
      desc_setProg hud _⟩

/-- Settles O24: the issue from what a MATMUL that passes its checks does, immediate dimensions from reads that cannot fail, and the
release of a clean pass. -/
theorem matmulPassesAndCommit : Obligations.MatmulPassesAndCommit := by
  refine ⟨fun s ref d hi hf hc hp hch => exec_matmul_of_checks hi hf hc hp (fun he => by simpa [he] using hch he),
    fun s ref d hi hf hno hplan _ hc => ?_,
    fun s ref d t q st p rest cs res f hw hprog hold hsnap hstand hbad => exec_passClean_of_oldest hw hprog hold hsnap hstand hbad⟩
  have hp : firstFail ((s.ctx ref.ctx).planCheck d.muse) = none := by simp [Ctx.planCheck, Desc.muse, hplan, firstFail]
  obtain ⟨hnone, hsome⟩ := exec_matmul_of_checks hi hf hc hp (by simp [hno])
  intro m mm nn kk tq narrowed csky u
  have hdims := runDims_of_immediate (d.who ref.ctx) d.muse u hplan
  refine ⟨fun hzero => hnone u ?_, fun hmm hnn hkk hbad => ?_⟩
  · have hany : d.muse.imm.any (· == 0) = true := by simpa [Desc.muse, or_assoc] using hzero
    rw [hdims, hany]
    rfl
  · have hany : d.muse.imm.any (· == 0) = false := by simpa [Desc.muse] using ⟨hmm, hnn, hkk⟩
    have hubad : ((u.ctx ref.ctx).seat tq.1 tq.2).bad = [] := by
      have : (u.ctx ref.ctx).seat tq.1 tq.2 = (s.ctx ref.ctx).seat tq.1 tq.2 := by
        rw [← seat_begun s ref d]
        simp [u, State.modRing, Ctx.modRing, Ctx.seat]
      rw [this, hbad]
    obtain ⟨⟨passes, fl⟩, hcomp, hlen⟩ := readsTo_compute (w := d.who ref.ctx) hubad m narrowed mm nn kk csky
    refine ⟨passes, fl, hcomp, hlen, ?_⟩
    have hch : (if m.chainEn = true then (s.ctx ref.ctx).chain m.slot else none) = none := by simp [m, hno]
    refine hsome mm nn kk u u passes fl (by rw [hdims, hany]; rfl) (.inl ?_) ?_
    · rw [hch]; rfl
    · rw [hch]; exact hcomp

end Sys2Proof.MatrixArray
end

section
/-! PROOFS. Array faults, the array at a checkpoint, and Clear-sky (R114 to R120, R453). -/
namespace Sys2Proof.MatrixArray
open Sys2Proof.Machine

/-! ### What an array fault leaves (R115, R453, R454) -/

/-- The held core and its count, of a fault on a core that is not held already (R454). -/
theorem core_countFault {s : State} {c t q n : Nat} (hcore : (s.ctx c).coreOf t q = some n) (hheld : ((s.tile t).core n).held = false) :
    (((s.countFault c t q).tile t).core n).held = true ∧
      (((s.countFault c t q).tile t).core n).faultCnt = satInc ((s.tile t).core n).faultCnt := by
  simp [State.countFault, hcore, State.holdCore, Tile.core, Tile.modCore] at hheld ⊢
  simp [hheld]

/-- A counted fault changes cores of its tile and the error log, and nothing else of the memories and the contexts. -/
theorem countFault_frame (s : State) (c t q : Nat) :
    (s.countFault c t q).ctxs = s.ctxs ∧ (s.countFault c t q).mem = s.mem ∧ (s.countFault c t q).outs = s.outs ∧
      (∀ j, j ≠ t → (s.countFault c t q).tile j = s.tile j) ∧ ((s.countFault c t q).tile t).array = (s.tile t).array ∧
      ((s.countFault c t q).tile t).arrayCnt = (s.tile t).arrayCnt ∧ ((s.countFault c t q).tile t).pool = (s.tile t).pool := by
  unfold State.countFault
  split
  · unfold State.holdCore
    split <;> simp +contextual [State.tile_modTile_other, Tile.modCore]
  · simp

/-- Pass, row and column of a fault as RESULT names them (R453); which of the outstanding passes it is is a free value (log entry 71). -/
def faultLoc (s : State) (c : Nat) (d : Desc) (t q row col : Nat) : DWord :=
  let ps := s.arrayPasses c d t q
  at_ (ps.getD (Config.faultyPass s.free % ps.length) 0 % 256) 12 ||| at_ (row % 256) 20 ||| at_ (col % 128) 28

/-- RESULT of an array fault (R453). -/
def faultResult (s : State) (c : Nat) (d : Desc) (t q kind row col : Nat) : DWord :=
  at_ (kind % 16) 0 ||| at_ t 4 ||| at_ q 8 ||| faultLoc s c d t q row col ||| at_ s.logIndex 54

/-- The tile's flag and count, the log and the array's PEs after an array fault, its core and its descriptor still to be dealt with. -/
def loggedFault (s : State) (c : Nat) (d : Desc) (t q row col : Nat) : State :=
  let s1 := s.tick.modTile t (fun k => { k with array := true, arrayCnt := satInc k.arrayCnt })
  (s1.errLog 4 7 t (((s.ctx c).coreOf t q).getD 0x1F) (faultLoc s c d t q row col) (s1.logWho (d.who c) 0x30)).modSeat c t q
    (fun x => { x with pes := [], held := none })

/-- The same with the fault counted at its core. -/
def afterFault (s : State) (c : Nat) (d : Desc) (t q row col : Nat) : State := (loggedFault s c d t q row col).countFault c t q

/-- What the fault makes of its descriptor: it is abandoned, or goes on with the passes before (R115, R117). -/
theorem exec_arrayFault {s : State} {ref : DescRef} {d : Desc} {t q kind : Nat} (row col : Nat) (hd : s.desc ref = some d) (hst : d.st = .executing)
    (hps : s.arrayPasses ref.ctx d t q ≠ []) (hkind : kind ≠ 5) :
    let k := Config.faultyPass s.free % (s.arrayPasses ref.ctx d t q).length
    let res := faultResult s ref.ctx d t q kind row col
    (d.prog.faulted k res = none →
      exec (.arrayFault ref t q kind row col) s =
        .next ((afterFault s ref.ctx d t q row col).finish ref.ctx ref.ring ref.index ⟨0x30, res⟩)) ∧
    (∀ p, d.prog.faulted k res = some p →
      exec (.arrayFault ref t q kind row col) s = .next ((afterFault s ref.ctx d t q row col).setProg ref.ctx ref.ring ref.index p)) := by
  intro k res
  have hgo : ¬ ((s.arrayPasses ref.ctx d t q).isEmpty = true ∨ d.st ≠ .executing) := by simp [hst, hps]
  have hexec : exec (.arrayFault ref t q kind row col) s = execArrayFault ref t q kind row col s := rfl
  rw [hexec, execArrayFault, if_neg hkind, hd]
  dsimp only
  rw [if_neg hgo]
  constructor
  · intro h
    simp only [k, res, faultResult, faultLoc] at h
    rw [h]
    rfl
  · intro p h
    simp only [k, res, faultResult, faultLoc] at h
    rw [h]
    rfl

section
variable (s : State) (c : Nat) (d : Desc) (t q row col : Nat)

theorem ctxs_loggedFault : (loggedFault s c d t q row col).ctxs = (s.modSeat c t q (fun x => { x with pes := [], held := none })).ctxs := rfl

theorem tile_loggedFault : (loggedFault s c d t q row col).tile t = { s.tile t with array := true, arrayCnt := satInc (s.tile t).arrayCnt } := by
  simp [loggedFault]

theorem tile_loggedFault_other {j : Nat} (h : j ≠ t) : (loggedFault s c d t q row col).tile j = s.tile j := by
  simp [loggedFault, State.tile_modTile_other _ _ _ _ h]

theorem ctx_afterFault (j : Nat) :
    (afterFault s c d t q row col).ctx j = (s.modSeat c t q (fun x => { x with pes := [], held := none })).ctx j := by
  rw [State.ctx, afterFault, (countFault_frame _ c t q).1]; rfl

theorem seat_afterFault : ((afterFault s c d t q row col).ctx c).seat t q = { (s.ctx c).seat t q with pes := [], held := none } := by
  rw [ctx_afterFault, seat_modSeat_same]

theorem ctx_afterFault_other {j : Nat} (h : j ≠ c) : (afterFault s c d t q row col).ctx j = s.ctx j := by
  rw [ctx_afterFault]; exact State.ctx_modCtx_other _ _ _ _ h

theorem afterFault_onlySeatDesc (r : Nat) (i : Word) : (s.ctx c).onlySeatDesc ((afterFault s c d t q row col).ctx c) t q r i := by
  rw [ctx_afterFault]
  exact onlySeat_onlySeatDesc (modSeat_onlySeat _ _ _ _ _) r i

theorem desc_afterFault (ref : DescRef) : (afterFault s c d t q row col).desc ref = s.desc ref := by
  rw [State.desc, ctx_afterFault]
  exact desc_modSeat s c t q _ ref

/-- The tile's ARRAY flag is set and counted; no byte of memory or of a pool, no other tile, and nothing that left changes (R453). -/
theorem tile_afterFault : ((afterFault s c d t q row col).tile t).array = true ∧
    ((afterFault s c d t q row col).tile t).arrayCnt = satInc (s.tile t).arrayCnt ∧
    ((afterFault s c d t q row col).tile t).pool = (s.tile t).pool ∧ (∀ j, j ≠ t → (afterFault s c d t q row col).tile j = s.tile j) ∧
    (afterFault s c d t q row col).mem = s.mem ∧ (afterFault s c d t q row col).outs = s.outs := by
  obtain ⟨-, hmem, houts, hother, harray, hcnt, hpool⟩ := countFault_frame (loggedFault s c d t q row col) c t q
  rw [afterFault, hmem, houts, harray, hcnt, hpool, tile_loggedFault]
  exact ⟨rfl, rfl, rfl, fun j h => (hother j h).trans (tile_loggedFault_other s c d t q row col h), rfl, rfl⟩

/-- A core that was in service is held, and its FAULT_CNT counts (R115, R454). -/
theorem core_afterFault {n : Nat} (hcore : (s.ctx c).coreOf t q = some n) (hheld : ((s.tile t).core n).held = false) :
    (((afterFault s c d t q row col).tile t).core n).held = true ∧
      (((afterFault s c d t q row col).tile t).core n).faultCnt = satInc ((s.tile t).core n).faultCnt := by
  have hplace : ((loggedFault s c d t q row col).ctx c).coreOf t q = some n := by
    rw [State.ctx, ctxs_loggedFault]
    exact (congrArg (·.coreOf t q) (ctx_modSeat s c t q _)).trans hcore
  have htile : ((loggedFault s c d t q row col).tile t).core n = (s.tile t).core n := by rw [tile_loggedFault]; rfl
  have h := core_countFault hplace (by rw [htile]; exact hheld)
  rwa [htile] at h

end

/-- RESULT as a number, where one pass is outstanding (R453). -/
theorem faultResult_of_single {s : State} {c : Nat} {d : Desc} {t q kind row col pass : Nat} (hps : s.arrayPasses c d t q = [pass])
    (hkind : kind < 16) (ht : t < 16) (hq : q < 16) (hpass : pass < 256) (hrow : row < 256) (hcol : col < 128) :
    faultResult s c d t q kind row col = BitVec.ofNat 64
      (kind + t * 2 ^ 4 + q * 2 ^ 8 + pass * 2 ^ 12 + row * 2 ^ 20 + col * 2 ^ 28 + s.logIndex * 2 ^ 54) := by
  have hloc : faultLoc s c d t q row col = at_ pass 12 ||| at_ row 20 ||| at_ col 28 := by
    simp [faultLoc, hps, Nat.mod_one, Nat.mod_eq_of_lt hpass, Nat.mod_eq_of_lt hrow, Nat.mod_eq_of_lt hcol]
  rw [faultResult, hloc, Nat.mod_eq_of_lt hkind, at_zero, ← BitVec.or_assoc, ← BitVec.or_assoc, ofNat_or_at _ _ _ (by omega),
    ofNat_or_at _ _ _ (by omega), ofNat_or_at _ _ _ (by omega), ofNat_or_at _ _ _ (by omega), ofNat_or_at _ _ _ (by omega),
    ofNat_or_at _ _ _ (by omega)]

/-- A descriptor with an outstanding pass keeps nothing of its progress when it ends. -/
theorem kept_of_arrayPasses {x : Ctx} {d : Desc} {t q : Nat} (h : x.arrayPasses d t q ≠ []) : d.prog.kept = .none := by
  unfold Ctx.arrayPasses at h
  cases hp : d.prog <;> simp_all [Prog.kept]

/-- Where a fault meets the first outstanding pass nothing of the descriptor goes on (R115). -/
theorem faulted_zero (p : Prog) (res : DWord) : p.faulted 0 res = none := by cases p <;> rfl

/-- An array fault of the one outstanding pass, or of a work tile. -/
theorem exec_arrayFault_of_single {s : State} {ref : DescRef} {d : Desc} {t q kind row col pass n : Nat} (hd : s.desc ref = some d)
    (hst : d.st = .executing) (hps : s.arrayPasses ref.ctx d t q = [pass]) (hcore : (s.ctx ref.ctx).coreOf t q = some n)
    (hheld : ((s.tile t).core n).held = false) (hkind : kind < 16) (hne : kind ≠ 5) (ht : t < 16) (hq : q < 16) (hpass : pass < 256)
    (hrow : row < 256) (hcol : col < 128) :
    ∃ v : State, exec (.arrayFault ref t q kind row col) s = .next v ∧
      v.desc ref = some { d with
        st := .done, status := 0x30, prog := .none,
        result := BitVec.ofNat 64 (kind + t * 2 ^ 4 + q * 2 ^ 8 + pass * 2 ^ 12 + row * 2 ^ 20 + col * 2 ^ 28 + s.logIndex * 2 ^ 54) } ∧
      (v.tile t).array = true ∧ (v.tile t).arrayCnt = satInc (s.tile t).arrayCnt ∧ ((v.tile t).core n).held = true ∧
      ((v.tile t).core n).faultCnt = satInc ((s.tile t).core n).faultCnt ∧ (v.tile t).pool = (s.tile t).pool ∧
      (∀ j, j ≠ t → v.tile j = s.tile j) ∧ (∀ j, j ≠ ref.ctx → v.ctx j = s.ctx j) ∧
      (v.ctx ref.ctx).seat t q = { (s.ctx ref.ctx).seat t q with pes := [], held := none } ∧ v.mem = s.mem ∧ v.outs = s.outs ∧
      (s.ctx ref.ctx).onlySeatDesc (v.ctx ref.ctx) t q ref.ring ref.index := by
  have hne' : s.arrayPasses ref.ctx d t q ≠ [] := by simp [hps]
  have hzero : Config.faultyPass s.free % (s.arrayPasses ref.ctx d t q).length = 0 := by rw [hps]; exact Nat.mod_one _
  have hexec := (exec_arrayFault (kind := kind) row col hd hst hne' hne).1 (by rw [hzero]; exact faulted_zero _ _)
  obtain ⟨harray, hcnt, hpool, hother, hmem, houts⟩ := tile_afterFault s ref.ctx d t q row col
  obtain ⟨hhold, hfault⟩ := core_afterFault s ref.ctx d t q row col hcore hheld
  refine ⟨_, hexec, ?_⟩
  simp only [State.tile_finish, State.finish_mem, State.finish_outs]
  refine ⟨?_, harray, hcnt, hhold, hfault, hpool, hother, fun j h => ?_, ?_, hmem, houts, ?_⟩
  · rw [desc_finish ((desc_afterFault s ref.ctx d t q row col ref).trans hd), endedDesc_eq _ _ (kept_of_arrayPasses hne') rfl,
      faultResult_of_single hps hkind ht hq hpass hrow hcol]
  · exact ((State.finish_onlyCtx _ _ _ _ _).2 j h).trans (ctx_afterFault_other s ref.ctx d t q row col h)
  · rw [seat_finish, seat_afterFault]
  · exact onlySeatDesc_trans (afterFault_onlySeatDesc s ref.ctx d t q row col _ _) (finish_onlySeatDesc _ _ _ _ _ _ _)

/-- An array fault among the outstanding passes of a MATMUL (R115, R117; log entry 71). -/
theorem exec_arrayFault_of_matmul {s : State} {ref : DescRef} {d : Desc} {t q kind row col st : Nat} {ps : List Pass}
    {cs : Option (Nat × Nat)} {res : DWord} {f : Option DWord} (hd : s.desc ref = some d) (hst : d.st = .executing)
    (hprog : d.prog = .matmul t q st ps cs res f) (hps : ps ≠ []) (hne : kind ≠ 5) :
    ∃ v k e, exec (.arrayFault ref t q kind row col) s = .next v ∧ k < ps.length ∧ v.desc ref = some e ∧ v.mem = s.mem ∧
      (v.tile t).arrayCnt = satInc (s.tile t).arrayCnt ∧ ((v.ctx ref.ctx).seat t q).sp = ((s.ctx ref.ctx).seat t q).sp ∧
      (s.ctx ref.ctx).onlySeatDesc (v.ctx ref.ctx) t q ref.ring ref.index ∧
      (if k = 0 then e.st = .done ∧ e.status = 0x30
       else ∃ r, e = { d with prog := .matmul t q st (ps.take k) cs res (some r) }) := by
  have hpasses : s.arrayPasses ref.ctx d t q = ps.map (·.num) := by simp [State.arrayPasses, Ctx.arrayPasses, hprog]
  have hne' : s.arrayPasses ref.ctx d t q ≠ [] := by simp [hpasses, hps]
  have hlt : Config.faultyPass s.free % (s.arrayPasses ref.ctx d t q).length < ps.length := by
    rw [hpasses, List.length_map]; exact Nat.mod_lt _ (List.length_pos_iff.mpr hps)
  obtain ⟨hends, hgoes⟩ := exec_arrayFault (kind := kind) row col hd hst hne' hne
  obtain ⟨-, hcnt, -, -, hmem, -⟩ := tile_afterFault s ref.ctx d t q row col
  have hdesc := (desc_afterFault s ref.ctx d t q row col ref).trans hd
  have hseat := seat_afterFault s ref.ctx d t q row col
  have honly := afterFault_onlySeatDesc s ref.ctx d t q row col ref.ring ref.index
  cases hk : Config.faultyPass s.free % (s.arrayPasses ref.ctx d t q).length with
  | zero =>
    rw [hk] at hends hlt
    refine ⟨_, 0, _, hends (faulted_zero _ _), hlt, desc_finish hdesc _, ?_⟩
    simp only [State.tile_finish, State.finish_mem]
    exact ⟨hmem, hcnt, by rw [seat_finish, hseat],
      onlySeatDesc_trans honly (finish_onlySeatDesc _ _ _ _ _ _ _), rfl, rfl⟩
  | succ k =>
    rw [hk] at hgoes hlt
    refine ⟨_, k + 1, _, hgoes _ (by rw [hprog]; rfl), hlt, desc_setProg hdesc _, ?_⟩
    simp only [State.tile_setProg, State.setProg_mem]
    exact ⟨hmem, hcnt, by rw [seat_setProg, hseat],
      onlySeatDesc_trans honly (setProg_onlySeatDesc _ _ _ _ _ _ _), _, rfl⟩

/-! ### A check that fails in the commit queue (R453) -/

/-- RESULT of 0x31 as a number (R452). -/
theorem memUncorr_result (source unit seat line i : Nat) (hs : source < 16) (hu : unit < 16) (hq : seat < 16) :
    (memUncorr source unit seat line i).result =
      BitVec.ofNat 64 (source + unit * 2 ^ 4 + seat * 2 ^ 8 + line % 2 ^ 42 * 2 ^ 12 + i * 2 ^ 54) := by
  rw [memUncorr, at_zero, ofNat_or_at _ _ _ (by omega), ofNat_or_at _ _ _ (by omega), ofNat_or_at _ _ _ (by omega),
    ofNat_or_at _ _ _ (by omega)]

/-- The fields of that RESULT (R452). -/
theorem fld_memUncorr (source unit seat line i : Nat) (hs : source < 16) (hu : unit < 16) (hq : seat < 16) :
    fld (memUncorr source unit seat line i).result 0 4 = source ∧ fld (memUncorr source unit seat line i).result 4 4 = unit ∧
      fld (memUncorr source unit seat line i).result 8 4 = seat ∧ fld (memUncorr source unit seat line i).result 12 42 = line % 2 ^ 42 := by
  rw [memUncorr_result _ _ _ _ _ hs hu hq]
  simp only [fld, BitVec.toNat_ofNat, Nat.shiftRight_eq_div_pow]
  have := Nat.mod_lt line (show 0 < 2 ^ 42 by decide)
  generalize line % 2 ^ 42 = l at this ⊢
  refine ⟨?_, ?_, ?_, ?_⟩ <;> omega

/-- Uncorrectable SRAM stops the action; the tile counts, and no context and no byte of memory changes (R451, R452). -/
theorem failSram_eq (w : Who) (source tile seat line : Nat) (s : State) :
    ∃ v i, failSram w source tile seat line s = .error (memUncorr source tile seat line i) v ∧ v.ctxs = s.ctxs ∧ v.mem = s.mem ∧
      (v.tile tile).ueCnt = satInc (s.tile tile).ueCnt :=
  ⟨_, _, rfl, rfl, rfl, by simp⟩

theorem queueFault_of_works {s : State} {ref : DescRef} {d : Desc} (t q rows : Nat) (h : s.arrayWorks ref d) :
    queueFault ref t q rows s = State.settle ref.ctx ref.ring ref.index (unitQueueFault ref.ctx d t q rows s.tick) := by
  obtain ⟨hd, -, hst, hrun, hpl, hre⟩ := h
  simp [queueFault, hd, hst, hrun, hpl, hre]

/-- With some rows of the oldest pass released the next row's check fails. -/
theorem unitQueueFault_of_oldest {s s1 : State} {c t q st row : Nat} {d : Desc} {p : Pass} {rest : List Pass} {cs : Option (Nat × Nat)}
    {res : DWord} {f : Option DWord} (hprog : d.prog = .matmul t q st (p :: rest) cs res f) (hold : (s.ctx c).oldestPass t q st = true)
    (hsnap : p.snaps = []) (hstand : ((s.ctx c).seat t q).stands = false) (hrow : row < p.writes.length)
    (hw : (p.writes.take row).forM (fun e => wrSeat (d.who c) t q e.1 e.2) s = .ok () s1) {stop : Stop} {v : State}
    (hfail : failSram (d.who c) 6 t q ((p.writes.getD row (0, [])).1 / 64) s1 = .error stop v) :
    unitQueueFault c d t q row s = .error stop v := by
  have hget : getCtx c s = .ok (s.ctx c) s := rfl
  rw [unitQueueFault, bind_of_ok hget, hprog]
  simp only [hold, hsnap, hstand, hrow, List.isEmpty_nil, and_self, if_true]
  rw [bind_of_ok hw, bind_of_error hfail]

/-- The rows released stay, and the descriptor ends with 0x31, SOURCE 6 and the next row's line (log entry 92). -/
theorem exec_arrayFault_of_queue {s s1 : State} {ref : DescRef} {d : Desc} {t q st row : Nat} (col : Nat) {p : Pass} {rest : List Pass}
    {cs : Option (Nat × Nat)} {res : DWord} {f : Option DWord} (hworks : s.arrayWorks ref d)
    (hprog : d.prog = .matmul t q st (p :: rest) cs res f) (hold : (s.ctx ref.ctx).oldestPass t q st = true) (hsnap : p.snaps = [])
    (hstand : ((s.ctx ref.ctx).seat t q).stands = false) (hrow : row < p.writes.length) (ht : t < 16) (hq : q < 16)
    (hw : (p.writes.take row).forM (fun e => wrSeat (d.who ref.ctx) t q e.1 e.2) s.tick = .ok () s1) :
    ∃ v e, exec (.arrayFault ref t q 5 row col) s = .next v ∧ v.desc ref = some e ∧ e.st = .done ∧ e.status = 0x31 ∧
      fld e.result 0 4 = 6 ∧ fld e.result 4 4 = t ∧ fld e.result 8 4 = q ∧ fld e.result 12 42 = (p.writes.getD row (0, [])).1 / 64 % 2 ^ 42 ∧
      (v.ctx ref.ctx).seat t q = (s1.ctx ref.ctx).seat t q ∧ (v.tile t).ueCnt = satInc (s.tile t).ueCnt ∧ v.mem = s.mem ∧
      (s.ctx ref.ctx).onlySeatDesc (v.ctx ref.ctx) t q ref.ring ref.index := by
  obtain ⟨hd, -⟩ := id hworks
  have hs1 : onlySeat s.tick s1 ref.ctx t q := forM_wrSeat_onlySeat _ hw
  obtain ⟨u, i, hfail, hctxs, hmem, hue⟩ := failSram_eq (d.who ref.ctx) 6 t q ((p.writes.getD row (0, [])).1 / 64) s1
  have hexec : exec (.arrayFault ref t q 5 row col) s = .next (u.finish ref.ctx ref.ring ref.index _) :=
    congrArg Host.Outcome.next ((queueFault_of_works t q row hworks).trans
      (congrArg (State.settle ref.ctx ref.ring ref.index) (unitQueueFault_of_oldest (s := s.tick) hprog hold hsnap hstand hrow hw hfail)))
  have hctx : u.ctx ref.ctx = s1.ctx ref.ctx := by rw [State.ctx, hctxs]; rfl
  have hud : u.desc ref = some d := by rw [State.desc, hctx]; exact (onlySeat_desc hs1).trans hd
  obtain ⟨h0, h4, h8, h12⟩ := fld_memUncorr 6 t q ((p.writes.getD row (0, [])).1 / 64) i (by decide) ht hq
  refine ⟨_, _, hexec, desc_finish hud _, rfl, rfl, h0, h4, h8, h12, by rw [seat_finish, hctx], ?_, ?_, ?_⟩
  · have htile : s1.tile t = s.tile t := by rw [hs1.1.1]; rfl
    exact hue.trans (by rw [htile])
  · exact hmem.trans (by rw [hs1.1.1]; rfl)
  · refine onlySeatDesc_trans ?_ (finish_onlySeatDesc u _ _ _ _ t q)
    rw [hctx]
    exact onlySeat_onlySeatDesc hs1 _ _

/-! ### The array at a checkpoint (R114) -/

/-- The seat stands at a feed line, with other accumulator sets and nothing else changed. -/
def standsAt (line before : Nat) (f : Seat → Seat) : Prop := ∀ k : Seat, f k = { k with held := some (line, before), pes := (f k).pes }

theorem standIn_standsAt (shape aFmt bFmt cp before : Nat) (p : Pass) :
    standsAt (min (128 * cp) (feedLines shape p.steps)) before (fun e => e.standIn shape aFmt bFmt cp before p) := fun _ => rfl

theorem exec_checkpoint (c t q cp : Nat) (s : State) :
    exec (.arrayCheckpointReached c t q cp) s = execArrayCheckpointReached c t q cp s := rfl

/-- A seat without a queued pass, under a work tile, stands at the checkpoint or before it. -/
theorem exec_checkpoint_of_noPass {s : State} {c t q : Nat} (cp : Nat) (hsave : (s.ctx c).sched.saving = true) (hruns : s.arrayRuns c t q = true)
    (hheld : ((s.ctx c).seat t q).held = none) (hq : (s.ctx c).arrayQueue t q = []) :
    ∃ f line, exec (.arrayCheckpointReached c t q cp) s = .next (s.tick.modSeat c t q f) ∧ line ≤ 128 * cp ∧ standsAt line 0 f := by
  have hplain : standsAt (128 * cp) 0 (fun k => { k with held := some (128 * cp, 0) }) := fun _ => rfl
  rw [exec_checkpoint, execArrayCheckpointReached]
  simp only [hsave, hruns, hheld, Option.isNone_none, hq, and_self, if_true, List.getElem?_nil]
  split
  · split
    · rw [modSeat_modSeat]
      exact ⟨_, 128 * cp, rfl, Nat.le_refl _, fun _ => by simp only [Seat.standFree]⟩
    · split
      · split
        · exact ⟨_, _, rfl, Nat.min_le_left _ _, standIn_standsAt _ _ _ _ _ _⟩
        · exact ⟨_, _, rfl, Nat.le_refl _, hplain⟩
      · exact ⟨_, _, rfl, Nat.le_refl _, hplain⟩
  · exact ⟨_, _, rfl, Nat.le_refl _, hplain⟩

/-- A seat with queued passes stands in some one of them (a free value, log entry 71). -/
theorem exec_checkpoint_of_pass {s : State} {c t q : Nat} (cp : Nat) (hsave : (s.ctx c).sched.saving = true) (hruns : s.arrayRuns c t q = true)
    (hheld : ((s.ctx c).seat t q).held = none) (hq : (s.ctx c).arrayQueue t q ≠ []) :
    ∃ f k d p, exec (.arrayCheckpointReached c t q cp) s = .next (s.tick.modSeat c t q f) ∧ ((s.ctx c).arrayQueue t q)[k]? = some (d, p) ∧
      standsAt (min (128 * cp) (d.matmul.aLines p.steps)) k f := by
  have hlt : Config.standingPass s.free % ((s.ctx c).arrayQueue t q).length < ((s.ctx c).arrayQueue t q).length :=
    Nat.mod_lt _ (List.length_pos_iff.mpr hq)
  obtain ⟨⟨d, p⟩, hdp⟩ : ∃ e, ((s.ctx c).arrayQueue t q)[Config.standingPass s.free % ((s.ctx c).arrayQueue t q).length]? = some e :=
    ⟨_, List.getElem?_eq_getElem hlt⟩
  refine ⟨_, _, d, p, ?_, hdp, standIn_standsAt d.matmul.shape d.matmul.aFmt d.matmul.bFmt cp _ p⟩
  rw [exec_checkpoint, execArrayCheckpointReached]
  simp only [hsave, hruns, hheld, Option.isNone_none, hdp, and_self, if_true]

theorem held_of_standsAt {s : State} {c t q line before : Nat} {f : Seat → Seat} (hf : standsAt line before f) :
    (((s.tick.modSeat c t q f).ctx c).seat t q).held = some (line, before) := by
  rw [seat_modSeat_same, hf]

/-- The standing seat, written as a change of HELD and of the PEs alone. -/
theorem modSeat_of_standsAt {s : State} {c t q line before : Nat} {f : Seat → Seat} (hf : standsAt line before f) :
    s.tick.modSeat c t q f = { (s.modSeat c t q (fun k => { k with
      held := some (line, before), pes := (((s.tick.modSeat c t q f).ctx c).seat t q).pes })) with free := (s.tick.modSeat c t q f).free } := by
  rw [seat_modSeat_same]
  simp only [State.modSeat, State.modCtx, State.ctx_tick]
  rw [← hf]
  rfl

/-! ### Clear-sky (R118 to R120) -/

theorem exec_cskyArm {s : State} {ref : DescRef} {d : Desc} (h : s.issues ref 0xF00 d) :
    exec (.cskyArm ref) s = .next (State.settle ref.ctx ref.ring ref.index (unitCskyArm ref.ctx d (s.begun ref d))) :=
  congrArg _ (issue_of_issues 0xF00 ref d (unitCskyArm ref.ctx) s h)

/-- CSKY_ARM with an aligned buffer, a count and its reserved fields 0 is judged by DEBUG alone (R118). -/
theorem firstFail_cskyArm {x : Ctx} {d : Desc} (hop : d.opcode = 0xF00) (h1 : (d.word 1).toNat % 64 = 0) (h2 : fld (d.word 2) 8 8 ≠ 0)
    (h3 : fld (d.word 2) 16 48 = 0) (hw : ∀ j ∈ [3, 4, 5, 6, 7], d.word j = 0) :
    firstFail ([ (decide ((d.word 1).toNat % 64 ≠ 0), badDesc 1 0 9), (decide (fld (d.word 2) 8 8 = 0), badDesc 2 8 9),
      rsv d 2 16 48 ] ++ rsvWords d [3, 4, 5, 6, 7] ++ [(!x.cfg.debug, permCheck), phaseCheck x d.opcode]) =
      if x.cfg.debug then none else some permCheck := by
  have hfields : firstFail [ (decide ((d.word 1).toNat % 64 ≠ 0), badDesc 1 0 9), (decide (fld (d.word 2) 8 8 = 0), badDesc 2 8 9),
      rsv d 2 16 48 ] = none := by simp [firstFail, rsv, h1, h2, h3]
  have hphase : x.phaseBad d.opcode = false := by simp [hop, Ctx.phaseBad]
  rw [List.append_assoc, firstFail_append _ _ hfields, firstFail_append _ _ (firstFail_rsvWords d _ hw)]
  cases hdbg : x.cfg.debug <;> simp [firstFail, phaseCheck, hphase]

theorem exec_cskyArm_of_legal {s : State} {ref : DescRef} {d : Desc} (hi : s.issues ref 0xF00 d) (h1 : (d.word 1).toNat % 64 = 0)
    (h2 : fld (d.word 2) 8 8 ≠ 0) (h3 : fld (d.word 2) 16 48 = 0) (hw : ∀ j ∈ [3, 4, 5, 6, 7], d.word j = 0) :
    ((s.ctx ref.ctx).cfg.debug = true → exec (.cskyArm ref) s = .next (((s.begun ref d).modRing ref.ctx d.ring (fun r =>
      { r with csky := some (d.word 1, fld (d.word 2) 0 5, fld (d.word 2) 5 3, fld (d.word 2) 8 8) })).ended ref 0x00 0)) ∧
    ((s.ctx ref.ctx).cfg.debug = false → exec (.cskyArm ref) s = .next ((s.begun ref d).ended ref 0x21 0)) := by
  have hget : getCtx ref.ctx (s.begun ref d) = .ok ((s.begun ref d).ctx ref.ctx) (s.begun ref d) := rfl
  have hcheck := firstFail_cskyArm (x := (s.begun ref d).ctx ref.ctx) hi.2.1 h1 h2 h3 hw
  refine ⟨fun hdbg => ?_, fun hdbg => ?_⟩ <;> rw [← cfg_begun s ref d] at hdbg <;> rw [exec_cskyArm hi, unitCskyArm, bind_of_ok hget]
  · rw [bind_of_ok (checks_of_none (hcheck.trans (by rw [hdbg]; rfl)) _)]
    rfl
  · rw [bind_of_error (checks_of_some (hcheck.trans (by rw [hdbg]; rfl)) _)]
    rfl

/-- A snapshot whose write passes is taken off its pass, and the buffer goes on behind it (R119, R120). -/
theorem exec_cskySnapshot_of_write {s s1 : State} {ref : DescRef} {d : Desc} {t q st va group : Nat} {p : Pass} {rest : List Pass} {res : DWord}
    {sn : Nat × Bool × Nat} {more : List (Nat × Bool × Nat)} {f : Option DWord} (hworks : s.arrayWorks ref d)
    (hprog : d.prog = .matmul t q st (p :: rest) (some (va, group)) res f) (hsnap : p.snaps = sn :: more) :
    let r := (passRanges d.matmul.shape 256 (s.narrowedSeat ref.ctx t q)).getD p.num (0, 128)
    let bs := snapBytes d.seq d.ring t group (r.2 - r.1) p sn
    wrVa (d.who ref.ctx) va bs s.tick = .ok () s1 → exec (.cskySnapshot ref) s = .next (s1.setProg ref.ctx ref.ring ref.index
      (.matmul t q st ({ p with snaps := more } :: rest) (some (va + bs.length, group)) res f)) := by
  intro r bs hw
  have hget : (get : Act State) s.tick = .ok s.tick s.tick := rfl
  obtain ⟨hr, hx⟩ := desc_is hworks.1
  have hunit : unitCskySnapshot ref.ctx d s.tick = .ok none (s1.setProg ref.ctx d.ring d.index
      (.matmul t q st ({ p with snaps := more } :: rest) (some (va + bs.length, group)) res f)) := by
    rw [unitCskySnapshot, hprog]
    dsimp only
    rw [hsnap]
    dsimp only
    rw [bind_of_ok hget]
    exact (bind_of_ok hw).trans rfl
  have hexec : exec (.cskySnapshot ref) s = .next (continueArray ref (unitCskySnapshot ref.ctx) s) := rfl
  rw [hexec, continueArray_of_works _ hworks, hunit, hr, hx]
  rfl

/-- Settles O25: an array fault of the one pass or of several, a fault in the commit queue (the model's choice, log entry 92), a checkpoint under
a work tile or a queued pass, CSKY_ARM, and a snapshot. -/
theorem arrayFaultsAndClearSky : Obligations.ArrayFaultsAndClearSky := by
  refine ⟨fun s ref d t q kind row col pass n hd hst hps hcore hheld hkind hne ht hq hpass hrow hcol =>
      exec_arrayFault_of_single hd hst hps hcore hheld hkind hne ht hq hpass hrow hcol,
    fun s ref d t q kind row col st ps cs res f hd hst hprog hps hne => exec_arrayFault_of_matmul hd hst hprog hps hne,
    fun s s1 ref d t q st row col p rest cs res f hworks hprog hold hsnap hstand hrow ht hq hw =>
      exec_arrayFault_of_queue col hworks hprog hold hsnap hstand hrow ht hq hw,
    fun s c t q cp hsave hruns hheld => ⟨fun hq => ?_, fun hq => ?_⟩,
    fun s ref d hi h1 h2 h3 hw => exec_cskyArm_of_legal hi h1 h2 h3 hw,
    fun s s1 ref d t q st va group p rest res sn more f hworks hprog hsnap => exec_cskySnapshot_of_write hworks hprog hsnap⟩
  · obtain ⟨f, line, hexec, hline, hf⟩ := exec_checkpoint_of_noPass cp hsave hruns hheld hq
    exact ⟨_, line, hexec, held_of_standsAt hf, hline, modSeat_of_standsAt hf⟩
  · obtain ⟨f, k, d, p, hexec, hk, hf⟩ := exec_checkpoint_of_pass cp hsave hruns hheld hq
    obtain ⟨-, hx, hother⟩ := modSeat_onlySeat s.tick c t q f
    exact ⟨_, k, d, p, hexec, hk, held_of_standsAt hf, by rw [seat_modSeat_same, hf]; rfl, rfl, hx, hother⟩

end Sys2Proof.MatrixArray
end

section
/-! PROOFS. A read of memory that answers (R208 to R214): it leaves all but translation caches, the Permafrost interface and what left the
module. -/
namespace Sys2Proof.VectorStreams
open Sys2Proof.Machine Sys2Proof.MatrixArray

/-- From s to t nothing changes but what translations are cached, the Permafrost interface, and the record of what left the module. -/
def readOnly (s t : State) : Prop :=
  t = { s with ctxs := t.ctxs, pmt := t.pmt, outs := t.outs } ∧ ∀ c, t.ctx c = { s.ctx c with xl := (t.ctx c).xl }

theorem readOnly_refl (s : State) : readOnly s s := ⟨rfl, fun _ => rfl⟩

theorem readOnly_trans {s t u : State} (h1 : readOnly s t) (h2 : readOnly t u) : readOnly s u := by
  obtain ⟨e1, c1⟩ := h1
  obtain ⟨e2, c2⟩ := h2
  exact ⟨by rw [e2, e1], fun c => by rw [c2, c1]⟩

/-- The Permafrost interface and what leaves the module are no part of a context. -/
theorem readOnly_of_frost (s : State) (p : Pmt) (o : List Out) : readOnly s { s with pmt := p, outs := o } := ⟨rfl, fun _ => rfl⟩

theorem desc_of_readOnly {s t : State} (h : readOnly s t) (ref : DescRef) : t.desc ref = s.desc ref := by
  obtain ⟨-, hc⟩ := h
  rw [State.desc, hc]
  rfl

/-! ### Actions that only read, where they answer -/

/-- Where the action, begun in s, answers, it has only read. -/
def onlyReads {α : Type} (a : Act α) (s : State) : Prop := ∀ x t, a s = .ok x t → readOnly s t

theorem onlyReads_pure {α : Type} (x : α) (s : State) : onlyReads (pure x : Act α) s := by
  intro y t h
  cases h
  exact readOnly_refl s

theorem onlyReads_set {s t : State} (h : readOnly s t) : onlyReads (set t : Act Unit) s := by
  intro y u hu
  cases hu
  exact h

theorem onlyReads_bind {α β : Type} {a : Act α} {f : α → Act β} {s : State} (ha : onlyReads a s) (hf : ∀ x t, onlyReads (f x) t) :
    onlyReads (a >>= f) s := by
  intro y u h
  obtain ⟨x, t, hx, hy⟩ := ok_of_bind h
  exact readOnly_trans (ha x t hx) (hf x t y u hy)

theorem onlyReads_get {β : Type} {f : State → Act β} {s : State} (h : onlyReads (f s) s) : onlyReads ((get : Act State) >>= f) s := h

theorem onlyReads_forM {α : Type} {f : α → Act Unit} (l : List α) (h : ∀ x s, onlyReads (f x) s) (s : State) : onlyReads (l.forM f) s := by
  induction l generalizing s with
  | nil => exact onlyReads_pure () s
  | cons x r ih => exact onlyReads_bind (h x s) (fun _ t => ih t)

theorem onlyReads_mapM {α β : Type} {f : α → Act β} (l : List α) (h : ∀ x s, onlyReads (f x) s) (s : State) : onlyReads (l.mapM f) s := by
  induction l generalizing s with
  | nil => rw [List.mapM_nil]; exact onlyReads_pure _ s
  | cons x r ih =>
    rw [List.mapM_cons]
    exact onlyReads_bind (h x s) (fun _ t => onlyReads_bind (ih t) (fun _ u => onlyReads_pure _ u))

/-! ### Accesses that fail never answer -/

theorem onlyReads_failLine (w : Who) (line : Nat) (s : State) : onlyReads (failLine w line) s := by
  intro x t h
  cases h

theorem onlyReads_failFrost (w : Who) (n line ul tries cause : Nat) (s : State) : onlyReads (failFrost w n line ul tries cause) s := by
  intro x t h
  cases h

theorem onlyReads_faultAt (w : Who) (va : Nat) (write : Bool) (f : XFail) (s : State) : onlyReads (faultAt w va write f) s := by
  cases f with
  | fault perm level cause => intro x t h; cases h
  | uncorr line => exact onlyReads_failLine w line s

/-! ### Permafrost -/

theorem readOnly_pmtSend (s : State) (n code : Nat) (args : List Nat) (payload : List Byte) : readOnly s (s.pmtSend n code args payload) :=
  readOnly_of_frost s _ _

theorem readOnly_modPdev (s : State) (n : Nat) (f : PmtDev → PmtDev) : readOnly s (s.modPdev n f) := readOnly_of_frost s _ _

theorem readOnly_addReq (s : State) (n : Nat) (mk : Nat → PmtReq) : readOnly s (s.addReq n mk) := readOnly_of_frost s _ _

theorem readOnly_frostUncorr (s : State) (n line cause : Nat) : readOnly s (s.frostUncorr n line cause) := readOnly_of_frost s _ _

theorem readOnly_pmtIssue (s : State) (n : Nat) (r : PmtReq) : readOnly s (s.pmtIssue n r) := by
  unfold State.pmtIssue
  dsimp only
  split
  · exact readOnly_refl s
  · split <;> exact readOnly_trans (readOnly_modPdev s n _) (readOnly_pmtSend _ n _ _ _)

theorem readOnly_frostPump (fuel : Nat) (s : State) (n : Nat) : readOnly s (State.frostPump fuel s n) := by
  induction fuel generalizing s with
  | zero => exact readOnly_refl s
  | succ fuel ih =>
    unfold State.frostPump
    dsimp only
    split
    · exact readOnly_refl s
    · split
      · exact readOnly_refl s
      · exact readOnly_trans (readOnly_trans (readOnly_modPdev s n _) (readOnly_pmtIssue _ n _)) (ih _)

theorem readOnly_pump (s : State) (n : Nat) : readOnly s (s.pump n) := readOnly_frostPump _ s n

theorem onlyReads_frostCheck (w : Who) (l : Nat) (s : State) : onlyReads (frostCheck w l) s := by
  refine onlyReads_get ?_
  dsimp only
  split
  · split
    · exact onlyReads_bind (onlyReads_set (readOnly_frostUncorr s _ _ _)) (fun _ => onlyReads_failFrost _ _ _ _ _ _)
    · exact onlyReads_pure _ s
  · exact onlyReads_failFrost _ _ _ _ _ _ s

theorem onlyReads_frostRd (w : Who) (l : Nat) (s : State) : onlyReads (frostRd w l) s :=
  onlyReads_get (onlyReads_bind (onlyReads_set (readOnly_trans (readOnly_addReq s _ _) (readOnly_pump _ _))) (fun _ => onlyReads_pure _))

theorem onlyReads_frostRead (w : Who) (pa n : Nat) (s : State) : onlyReads (frostRead w pa n) s :=
  onlyReads_bind (onlyReads_forM _ (fun l => onlyReads_frostCheck w l) s)
    (fun _ => onlyReads_forM _ (fun l t => onlyReads_bind (onlyReads_frostRd w l t) (fun _ => onlyReads_pure _)))

/-! ### Physical and virtual addresses -/

theorem readOnly_hostAccess (s : State) (pa : Nat) (reqs : Nat → Nat → List Out) : readOnly s (s.hostAccess pa reqs) := by
  unfold State.hostAccess
  split
  · exact readOnly_of_frost s _ _
  · exact readOnly_refl s

theorem onlyReads_rdPa (w : Who) (pa n : Nat) (s : State) : onlyReads (rdPa w pa n) s := by
  refine onlyReads_get ?_
  split
  · exact onlyReads_bind (onlyReads_frostRead w pa n s) (fun _ => onlyReads_pure _)
  · split
    · exact onlyReads_bind (onlyReads_failLine w _ s) (fun _ => onlyReads_pure _)
    · exact onlyReads_bind (onlyReads_set (readOnly_hostAccess s pa _)) (fun _ => onlyReads_pure _)

/-- A translation that is cached changes the translation caches of its context alone. -/
theorem readOnly_modXl (s : State) (c : Nat) (f : CtxXlate → CtxXlate) : readOnly s (s.modCtx c (fun x => { x with xl := f x.xl })) := by
  refine ⟨rfl, fun j => ?_⟩
  by_cases h : j = c
  · subst h; simp
  · rw [State.ctx_modCtx_other _ _ _ _ h]

theorem onlyReads_xlPiece (w : Who) (write : Bool) (p : Nat × Nat) (s : State) : onlyReads (xlPiece w write p) s := by
  refine onlyReads_get ?_
  dsimp only
  split
  · exact onlyReads_bind (onlyReads_faultAt w _ _ _ s) (fun _ => onlyReads_pure _)
  · have hlearn : ∀ e ps pa, onlyReads (do set (s.modCtx w.ctx (fun x => { x with xl := x.xl.learn e ps })); pure pa : Act Nat) s :=
      fun e ps pa => onlyReads_bind (onlyReads_set (readOnly_modXl s w.ctx (fun x => x.learn e ps))) (fun _ => onlyReads_pure _)
    split
    · intro x t h
      obtain ⟨_, _, hf, -⟩ := ok_of_bind h
      cases hf
    · exact hlearn _ _ _

theorem onlyReads_rdVa (w : Who) (va n : Nat) (s : State) : onlyReads (rdVa w va n) s := by
  refine onlyReads_bind (onlyReads_mapM _ (fun p t => onlyReads_bind (onlyReads_xlPiece w false p t) (fun _ => onlyReads_pure _)) s)
    (fun ps t => ?_)
  exact onlyReads_bind (onlyReads_mapM _ (fun (p : Nat × Nat) => onlyReads_rdPa w p.1 p.2) t) (fun _ => onlyReads_pure _)

end Sys2Proof.VectorStreams
end

section
/-! PROOFS. Run-time dimensions (R146, R147). -/
namespace Sys2Proof.VectorStreams
open Sys2Proof.Machine Sys2Proof.MatrixArray

/-- The dimensions in a plan's bound slot (R144). -/
def slotDims (x : Ctx) (p : Plan) : List Nat :=
  let b := tget (0, 0, 0) x.bounds p.bslot
  [b.1.toNat, b.2.1.toNat, b.2.2.toNat]

/-- Run-time dimension i under a plan whose bound word, where it is read, is a slot's: BSEL takes it from there (R146). -/
def runDim (x : Ctx) (u : PlanUse) (p : Plan) (i : Nat) : Nat :=
  if u.bound && p.bsel i then (slotDims x p).getD i 0 else u.imm.getD i 0

/-- SRC of dimension i in the RESULT of 0x13: 1 for a bound slot, 0 for an immediate (R147). -/
def slotSrc (u : PlanUse) (p : Plan) (i : Nat) : Nat := if u.bound && p.bsel i then 1 else 0

theorem boundRead_of_slot {w : Who} {p : Plan} {s : State} (h : p.bsrc = 0) : boundRead w p s = .ok (slotDims (s.ctx w.ctx) p) s := by
  have hget : (get : Act State) s = .ok s s := rfl
  rw [boundRead, bind_of_ok hget, h]
  rfl

section
variable {w : Who} {u : PlanUse} {p : Plan} {s : State}

theorem takeDims_of_plan (hp : (s.ctx w.ctx).planOf u = some p) (hsrc : u.bound = false ∨ p.bsrc = 0) :
    takeDims some w u s =
      .ok ((List.range u.imm.length).map (fun i => (runDim (s.ctx w.ctx) u p i, slotSrc u p i))) s := by
  have hget : (get : Act State) s = .ok s s := rfl
  rw [takeDims, bind_of_ok hget, hp]
  cases hb : u.bound with
  | false =>
    simp only [Bool.false_eq_true, if_false, runDim, slotSrc, hb, Bool.false_and]
    rfl
  | true =>
    have h0 : p.bsrc = 0 := by simpa [hb] using hsrc
    simp only [if_true]
    rw [bind_of_ok (boundRead_of_slot h0)]
    have hpair : ∀ i, (if (true && p.bsel i) = true then ((slotDims (s.ctx w.ctx) p).getD i 0, p.bsrc + 1) else (u.imm.getD i 0, 0)) =
        (runDim (s.ctx w.ctx) u p i, slotSrc u p i) := by
      intro i
      cases hs : p.bsel i <;> simp [runDim, slotSrc, hb, hs, h0]
    simp only [hpair]
    rfl

/-- With a dimension that is 0 nothing is judged against the plan (R147). -/
theorem judgeDims_of_zero {f : Nat → Nat × Nat} {n i : Nat} (hi : i < n) (h : (f i).1 = 0) :
    judgeDims some w u ((List.range n).map f) s = .ok none s := by
  have hget : (get : Act State) s = .ok s s := rfl
  have hany : ((List.range n).map f).any (·.1 == 0) = true := by simpa using ⟨i, hi, h⟩
  rw [judgeDims, bind_of_ok hget, hany]
  rfl

/-- Of three dimensions judged in the plan's order the first above its maximum is found. -/
theorem find_over (p : Plan) (f : Nat → Nat × Nat) :
    ((List.range 3).filterMap (fun m => ((List.range 3).find? (fun i => some i == some m)).map (fun i => (i, m)))).find?
        (fun e => decide (p.max e.2 < (((List.range 3).map f).getD e.1 (0, 0)).1)) =
      ((List.range 3).find? (fun i => decide (p.max i < (f i).1))).map (fun i => (i, i)) := by
  have hnamed : (List.range 3).filterMap (fun m => ((List.range 3).find? (fun i => some i == some m)).map (fun i => (i, m))) =
      (List.range 3).map (fun i => (i, i)) := by decide
  rw [hnamed, List.find?_map]
  rfl

/-- Without a 0 the first of three dimensions above its plan's maximum gives 0x13 (R147). -/
theorem judgeDims_of_over (hp : (s.ctx w.ctx).planOf u = some p) {f : Nat → Nat × Nat} (hne : ∀ j < 3, (f j).1 ≠ 0) {i : Nat} (hi : i < 3)
    (hle : ∀ j < i, (f j).1 ≤ p.max j) (hover : p.max i < (f i).1) :
    judgeDims some w u ((List.range 3).map f) s = .error (shapeOver i (f i).2 u.plan (f i).1) s := by
  have hget : (get : Act State) s = .ok s s := rfl
  have hany : ((List.range 3).map f).any (·.1 == 0) = false := by simpa using hne
  have hfind : (List.range 3).find? (fun i => decide (p.max i < (f i).1)) = some i := by
    simpa [List.find?_range_eq_some] using ⟨hover, hi, hle⟩
  have hi' : ((List.range 3).map f).getD i (0, 0) = f i := by simp [List.getD, hi]
  rw [judgeDims, bind_of_ok hget, hany, hp]
  simp only [List.length_map, List.length_range, find_over, hfind, Option.map_some, hi', Bool.false_eq_true, if_false]
  rfl

/-- Three dimensions, none 0 and none above its plan's maximum, are the descriptor's (R147). -/
theorem judgeDims_of_fits (hp : (s.ctx w.ctx).planOf u = some p) {f : Nat → Nat × Nat} (hne : ∀ j < 3, (f j).1 ≠ 0)
    (hle : ∀ j < 3, (f j).1 ≤ p.max j) :
    judgeDims some w u ((List.range 3).map f) s = .ok (some [(f 0).1, (f 1).1, (f 2).1]) s := by
  have hget : (get : Act State) s = .ok s s := rfl
  have hany : ((List.range 3).map f).any (·.1 == 0) = false := by simpa using hne
  have hfind : (List.range 3).find? (fun i => decide (p.max i < (f i).1)) = none := by
    simpa [List.find?_range_eq_none] using hle
  rw [judgeDims, bind_of_ok hget, hany, hp]
  simp only [List.length_map, List.length_range, find_over, hfind, Option.map_none, Bool.false_eq_true, if_false]
  rfl

/-- With a plan whose bound word, where it is read, is a slot's: the run-time dimensions, and check 12 on them (R144, R146, R147). -/
theorem runDims_of_plan (himm : u.imm.length = 3) (hu : u.plan ≠ 0xFFF) (hp : (s.ctx w.ctx).plan u.plan = some p)
    (hsrc : u.bound = false ∨ p.bsrc = 0) :
    let dim := runDim (s.ctx w.ctx) u p
    ((∃ i < 3, dim i = 0) → runDims w u s = .ok none s) ∧
    ((∀ i < 3, dim i ≠ 0 ∧ dim i ≤ p.max i) → runDims w u s = .ok (some [dim 0, dim 1, dim 2]) s) ∧
    (∀ i < 3, (∀ j < 3, dim j ≠ 0) → (∀ j < i, dim j ≤ p.max j) → p.max i < dim i →
      runDims w u s = .error (shapeOver i (slotSrc u p i) u.plan (dim i)) s) := by
  intro dim
  have hof : (s.ctx w.ctx).planOf u = some p := by rw [Ctx.planOf, if_neg hu, hp]
  have hrun : runDims w u s = judgeDims some w u ((List.range 3).map (fun i => (dim i, slotSrc u p i))) s := by
    rw [runDims, bind_of_ok (takeDims_of_plan hof hsrc), himm]
  rw [hrun]
  refine ⟨fun ⟨i, hi, h0⟩ => judgeDims_of_zero hi h0, fun h => ?_, fun i hi hne hle hover => judgeDims_of_over hof hne hi hle hover⟩
  exact judgeDims_of_fits hof (fun j hj => (h j hj).1) (fun j hj => (h j hj).2)

end

end Sys2Proof.VectorStreams
end

section
/-! PROOFS. The chain table and the cores' chain caches (R127, R128). -/
namespace Sys2Proof.VectorStreams
open Sys2Proof.Machine Sys2Proof.MatrixArray

/-! ### The chain table -/

/-- The entry just put is the one found. -/
theorem find_tput_same {α : Type} (t : Tbl α) (k : Nat) (v : α) : (tput t k v).find? (fun e => e.1 == k) = some (k, v) := by
  induction t with
  | nil => simp [tput]
  | cons e r ih =>
    obtain ⟨j, w⟩ := e
    by_cases hlt : k < j
    · simp [tput, hlt]
    · by_cases heq : k = j
      · simp [tput, heq]
      · simp [tput, hlt, heq, Ne.symm heq, ih]

/-- A put leaves what is found under every other number. -/
theorem find_tput_other {α : Type} (t : Tbl α) (k j : Nat) (v : α) (h : j ≠ k) :
    (tput t k v).find? (fun e => e.1 == j) = t.find? (fun e => e.1 == j) := by
  induction t with
  | nil => simp [tput, Ne.symm h]
  | cons e r ih =>
    obtain ⟨i, w⟩ := e
    by_cases hlt : k < i
    · simp [tput, hlt, Ne.symm h]
    · by_cases heq : k = i
      · subst heq; simp [tput, Ne.symm h]
      · simp only [tput, hlt, heq, if_false, List.find?_cons, ih]

theorem find_tdel_same {α : Type} (t : Tbl α) (k : Nat) : (tdel t k).find? (fun e => e.1 == k) = none := by
  simp [tdel]

theorem find_tdel_other {α : Type} (t : Tbl α) (k j : Nat) (h : j ≠ k) :
    (tdel t k).find? (fun e => e.1 == j) = t.find? (fun e => e.1 == j) := by
  rw [tdel, List.find?_filter]
  congr 1
  funext e
  by_cases he : e.1 = j <;> simp [he, h]

/-- The slot holds the record's chain, and nothing for a record without stages (R127, R128). -/
theorem chain_setChain_same (x : Ctx) (slot : Nat) (ws : List DWord) :
    (x.setChain slot ws).chain slot = if fld (wrd ws 0) 0 4 = 0 then none else some (chainOf ws) := by
  simp only [Ctx.setChain, Ctx.chain]
  split
  · rw [find_tdel_same]; rfl
  · rw [find_tput_same]; rfl

theorem chain_setChain_other (x : Ctx) (slot j : Nat) (ws : List DWord) (h : j ≠ slot) : (x.setChain slot ws).chain j = x.chain j := by
  simp only [Ctx.setChain, Ctx.chain]
  split
  · rw [find_tdel_other _ _ _ h]
  · rw [find_tput_other _ _ _ _ h]

/-- A change that every unit of a table takes, and that leaves the reset unit, is met by the unit read. -/
theorem tget_map {α : Type} (d : α) (t : Tbl α) (g : α → α) (hd : g d = d) (k : Nat) :
    tget d (t.map (fun e => (e.1, g e.2))) k = g (tget d t k) := by
  induction t with
  | nil => exact hd.symm
  | cons e r ih =>
    obtain ⟨j, v⟩ := e
    by_cases h : j = k <;> simp [tget, h, ih]

/-- No core keeps an older copy of the slot (R127). -/
theorem chainCache_setChain (x : Ctx) (slot : Nat) (ws : List DWord) (t q : Nat) :
    ((x.setChain slot ws).seat t q).chainCache.contains slot = false := by
  have hseat : (x.setChain slot ws).seat t q =
      { x.seat t q with chainCache := (x.seat t q).chainCache.filter (· != slot) } :=
    tget_map Seat.reset x.seats (fun k => { k with chainCache := k.chainCache.filter (· != slot) }) rfl _
  simp [hseat]

/-! ### CHAIN_LOAD (R128) -/

/-- The descriptor as it executes. -/
theorem desc_begun {s : State} {ref : DescRef} {d : Desc} (h : s.desc ref = some d) :
    (s.begun ref d).desc ref = some { d with st := .executing, issued := true } := by
  obtain ⟨hr, hi⟩ := desc_is h
  refine desc_of_map (f := fun e => { e with st := .executing, issued := true }) h (fun _ => rfl) ?_
  simp only [State.begun, State.startIssue, State.modDesc, State.ctx_tick, State.ctx_modCtx_same, ← hr, ← hi]
  rw [latchFreeze_eq]

/-- Fields in place, an aligned address and a slot of the table refuse nothing (R128). -/
theorem firstFail_chainLoad {d : Desc} (h1 : (d.word 1).toNat % 64 = 0) (h2 : (d.word 2).toNat < 64) (hw : ∀ j ∈ [3, 4, 5, 6, 7], d.word j = 0) :
    firstFail ([(decide ((d.word 1).toNat % 64 ≠ 0), badDesc 1 0 9), rsv d 2 6 58] ++ rsvWords d [3, 4, 5, 6, 7]) = none := by
  have hhigh : fld (d.word 2) 6 58 = 0 := by simp only [fld, Nat.shiftRight_eq_div_pow]; omega
  rw [firstFail_append _ _ (by simp [firstFail, rsv, h1, hhigh]), firstFail_rsvWords d _ hw]

section
variable {s s1 : State} {ref : DescRef} {d : Desc} {bs : List Byte}
variable (hi : s.issues ref 0x201 d) (h1 : (d.word 1).toNat % 64 = 0) (h2 : (d.word 2).toNat < 64)
  (hw : ∀ j ∈ [3, 4, 5, 6, 7], d.word j = 0) (hrd : rdVa (d.who ref.ctx) (d.word 1).toNat 128 (s.begun ref d) = .ok bs s1)
include hi h1 h2 hw hrd

/-- A record that R128 refuses ends the descriptor with 0x10, and no slot changes. -/
theorem exec_chainLoad_of_bad {w b : Nat} (hbad : chainBad (bytesWords 16 bs) = some (w, b)) :
    exec (.chainLoad ref) s = .next (s1.ended ref 0x10 (at_ w 0 ||| at_ b 4 ||| at_ 9 10 ||| at_ 1 16)) := by
  have hunit : unitChainLoad ref.ctx d (s.begun ref d) = .error (badRecord w b) s1 := by
    rw [unitChainLoad]
    dsimp only
    rw [bind_of_ok (checks_of_none (firstFail_chainLoad h1 h2 hw) _), bind_of_ok hrd, hbad]
    rfl
  have hexec : exec (.chainLoad ref) s = .next (issue 0x201 ref (unitChainLoad ref.ctx) s) := rfl
  rw [hexec, issue_of_issues 0x201 ref d _ s hi, hunit]
  rfl

/-- A record that R128 accepts goes into its slot. -/
theorem exec_chainLoad_of_good (hgood : chainBad (bytesWords 16 bs) = none) (hf : (s1.ctx ref.ctx).frozen = false) :
    exec (.chainLoad ref) s = .next ((s1.modCtx ref.ctx (fun x => x.setChain (d.word 2).toNat (bytesWords 16 bs))).ended ref 0x00
      (BitVec.ofNat 64 (fld (wrd (bytesWords 16 bs) 0) 0 4 + (d.word 2).toNat * 2 ^ 4))) := by
  have hget : getCtx ref.ctx s1 = .ok (s1.ctx ref.ctx) s1 := rfl
  have hslot : fld (d.word 2) 0 6 = (d.word 2).toNat := by simp only [fld, Nat.shiftRight_zero]; omega
  have hphase : firstFail [phaseCheck (s1.ctx ref.ctx) d.opcode] = none := by
    obtain ⟨-, hop, -⟩ := hi
    simp [firstFail, phaseCheck, Ctx.phaseBad, hop, hf]
  have hn : fld (wrd (bytesWords 16 bs) 0) 0 4 < 2 ^ 4 := Nat.mod_lt _ (by decide)
  have hunit : unitChainLoad ref.ctx d (s.begun ref d) =
      .ok (some ⟨0, at_ (fld (wrd (bytesWords 16 bs) 0) 0 4) 0 ||| at_ (d.word 2).toNat 4⟩)
        (s1.modCtx ref.ctx (fun x => x.setChain (d.word 2).toNat (bytesWords 16 bs))) := by
    rw [unitChainLoad]
    dsimp only
    rw [bind_of_ok (checks_of_none (firstFail_chainLoad h1 h2 hw) _), bind_of_ok hrd, hgood, hslot]
    dsimp only
    rw [bind_of_ok hget, bind_of_ok (checks_of_none hphase _)]
    rfl
  have hexec : exec (.chainLoad ref) s = .next (issue 0x201 ref (unitChainLoad ref.ctx) s) := rfl
  rw [hexec, issue_of_issues 0x201 ref d _ s hi, hunit, at_zero, ofNat_or_at _ _ 4 hn]
  rfl

/-- The accepted record is what its slot holds, no core has an older copy, and the descriptor ends with the stage count and the slot. -/
theorem chainLoad_of_good (hgood : chainBad (bytesWords 16 bs) = none) (hf : (s1.ctx ref.ctx).frozen = false) :
    let ws := bytesWords 16 bs
    let slot := (d.word 2).toNat
    ∃ v : State, exec (.chainLoad ref) s = .next v ∧
      (v.ctx ref.ctx).chain slot = (if fld (wrd ws 0) 0 4 = 0 then none else some (chainOf ws)) ∧
      (∀ j, j ≠ slot → (v.ctx ref.ctx).chain j = (s1.ctx ref.ctx).chain j) ∧
      (∀ t q, ((v.ctx ref.ctx).seat t q).chainCache.contains slot = false) ∧
      (∃ e, v.desc ref = some e ∧ e.st = .done ∧ e.status = 0x00 ∧
        e.result = BitVec.ofNat 64 (fld (wrd ws 0) 0 4 + slot * 2 ^ 4)) ∧ v.mem = s1.mem ∧ (∀ j, j ≠ ref.ctx → v.ctx j = s1.ctx j) := by
  intro ws slot
  let u := s1.modCtx ref.ctx (fun x => x.setChain slot ws)
  have hctx : u.ctx ref.ctx = (s1.ctx ref.ctx).setChain slot ws := State.ctx_modCtx_same _ _ _
  have hchain : ∀ st k, ((u.finish ref.ctx ref.ring ref.index st).ctx ref.ctx).chain k = (u.ctx ref.ctx).chain k := by
    intro st k
    obtain ⟨fz, hx⟩ := ctx_finish u ref.ctx ref.ring ref.index st
    rw [hx]; rfl
  have hs1 : s1.desc ref = some { d with st := .executing, issued := true } := by
    obtain ⟨hd, -⟩ := hi
    rw [desc_of_readOnly (onlyReads_rdVa _ _ _ _ _ _ hrd), desc_begun hd]
  have hdesc : u.desc ref = some { d with st := .executing, issued := true } := by
    rw [← hs1, State.desc, hctx]; rfl
  refine ⟨_, exec_chainLoad_of_good hi h1 h2 hw hrd hgood hf, ?_, fun j hj => ?_, fun t q => ?_, ⟨_, desc_finish hdesc _, rfl, rfl, rfl⟩, rfl,
    fun j hj => ?_⟩
  · exact (hchain _ slot).trans (by rw [hctx, chain_setChain_same])
  · exact (hchain _ j).trans (by rw [hctx, chain_setChain_other _ _ _ _ hj])
  · rw [State.ended, seat_finish, hctx]
    exact chainCache_setChain _ _ _ _ _
  · exact ((State.finish_onlyCtx u ref.ctx ref.ring ref.index _).2 j hj).trans (State.ctx_modCtx_other _ _ _ _ hj)

end

/-! ### The fill of a chain cache (R127) -/

/-- A record that enters a cache of at most eight is held, and at most eight are. -/
theorem cacheChain_holds (k : Seat) (slot : Nat) (h : k.chainCache.length ≤ 8) :
    (k.cacheChain slot).chainCache.contains slot = true ∧ (k.cacheChain slot).chainCache.length ≤ 8 := by
  by_cases hin : k.chainCache.contains slot = true
  · rw [Seat.cacheChain, if_pos hin]
    exact ⟨hin, h⟩
  · rw [Seat.cacheChain, if_neg hin]
    refine ⟨by simp, ?_⟩
    show (_ ++ [slot]).length ≤ 8
    rw [List.length_append, List.length_singleton]
    by_cases hroom : k.chainCache.length < 8
    · rw [if_pos hroom]
      omega
    · rw [if_neg hroom, List.length_drop]
      omega

@[simp] theorem cacheChain_sp (k : Seat) (slot : Nat) : (k.cacheChain slot).sp = k.sp := by
  unfold Seat.cacheChain
  split <;> rfl

/-- A fill that a waiting descriptor needs changes the caches of that one seat. -/
theorem exec_chainCacheFill_of_awaits {s : State} {c t q slot : Nat} (h : s.awaitsChain c t q slot = true) :
    exec (.chainCacheFill c t q slot) s = .next (s.modSeat c t q (fun k => k.cacheChain slot)) := by
  have hexec : exec (.chainCacheFill c t q slot) s = execChainCacheFill c t q slot s := rfl
  rw [hexec, execChainCacheFill, if_pos h]

end Sys2Proof.VectorStreams
end

section
/-! PROOFS. VSTREAM (R123, R124, R135). -/
namespace Sys2Proof.VectorStreams
open Sys2Proof.Machine Sys2Proof.MatrixArray

/-- The rows of a VSTREAM, row (i1, i2) before (i1 + 1, i2), with the elements written and the flags met (R123). -/
def vstreamRows (v : VStream) (w : Who) (tq : Nat × Nat) (ch : Chain) (d0 d1 d2 : Nat) : Act (Nat × NumFlags) :=
  let rows := ((List.range d2).map (fun i2 => (List.range d1).map (fun i1 => (i1, i2)))).flatten
  rows.foldlM (fun (a : Nat × NumFlags) p => do
    let r ← v.row w tq.1 tq.2 ch d0 d1 p.1 p.2
    pure (a.1 + r.1, a.2 ||| r.2)) (0, 0)

/-- A descriptor whose phase check and plan check pass, and which finds the object that it names, meets no refusal of check 11. -/
theorem firstFail_phase_plan_object {x : Ctx} {op : Nat} {u : PlanUse} {bad : Bool} {st : Stop} (hphase : x.phaseBad op = false)
    (hp : firstFail (x.planCheck u) = none) (hb : bad = false) : firstFail (phaseCheck x op :: x.planCheck u ++ [(bad, st)]) = none := by
  rw [List.cons_append, firstFail, phaseCheck, hphase]
  simp [firstFail_append _ _ hp, firstFail, hb]

/-- A VSTREAM that passes its checks takes its run-time dimensions: one that is 0 ends it with 0x01, and check 12 may stop it; else its rows
run, and end it with their elements and flags, unless one of them stops it. -/
theorem unitVstream_of_checks {b : State} {c : Nat} {d : Desc} {ch : Chain} (hop : d.opcode = 0x200) (hf : (b.ctx c).frozen = false)
    (hch : d.vstream.chain (b.ctx c) = some ch) (hc : firstFail (d.vstream.checks d ch.stages ((b.ctx c).judged d.vuse)) = none)
    (hp : firstFail ((b.ctx c).planCheck d.vuse) = none) :
    (∀ v, runDims (d.who c) d.vuse b = .ok none v → unitVstream c d b = .ok (some ⟨0x01, 0⟩) v) ∧
    (∀ st v, runDims (d.who c) d.vuse b = .error st v → unitVstream c d b = .error st v) ∧
    (∀ d0 d1 d2 u, runDims (d.who c) d.vuse b = .ok (some [d0, d1, d2]) u →
      let all := vstreamRows d.vstream (d.who c) (u.ringSeat c d.ring) ch d0 d1 d2
      (∀ n fl v, all u = .ok (n, fl) v → unitVstream c d b = .ok (some ⟨0x00, at_ (n % 2 ^ 48) 0 ||| nfResult fl⟩) v) ∧
      (∀ st v, all u = .error st v → unitVstream c d b = .error st v)) := by
  have hget : getCtx c b = .ok (b.ctx c) b := rfl
  have hphase : (b.ctx c).phaseBad d.opcode = false := by simp [hop, Ctx.phaseBad, hf]
  have h11 := firstFail_phase_plan_object (st := badState (b.ctx c) 0x0101) hphase hp rfl
  rw [unitVstream, bind_of_ok hget]
  simp only [hch, Option.map_some, Option.getD_some, Option.isNone_some]
  rw [bind_of_ok (checks_of_none hc b), bind_of_ok (checks_of_none h11 b)]
  refine ⟨fun v hv => ?_, fun st v hv => bind_of_error hv, fun d0 d1 d2 u hdims => ?_⟩
  · rw [bind_of_ok hv]
    rfl
  · let all := vstreamRows d.vstream (d.who c) (u.ringSeat c d.ring) ch d0 d1 d2
    have hgetu : (get : Act State) u = .ok u u := rfl
    rw [bind_of_ok hdims]
    dsimp only
    rw [bind_of_ok hgetu]
    exact ⟨fun n fl v hv => (bind_of_ok (a := all) hv).trans rfl, fun st v hv => bind_of_error (a := all) hv⟩

theorem exec_vstream {s : State} {ref : DescRef} {d : Desc} (h : s.issues ref 0x200 d) :
    exec (.vstream ref) s = .next (State.settle ref.ctx ref.ring ref.index (unitVstream ref.ctx d (s.begun ref d))) :=
  congrArg _ (issue_of_issues 0x200 ref d (unitVstream ref.ctx) s h)

/-- The inline stage, or the chain of a loaded slot, is what the VSTREAM runs (R123, R128). -/
theorem vstream_chain {d : Desc} {x : Ctx} {ch : Chain}
    (h : if d.vstream.chainEn then x.chain d.vstream.slot = some ch else ch = ⟨0, [d.word 7], d.vstream.consts⟩) :
    d.vstream.chain x = some ch := by
  cases he : d.vstream.chainEn with
  | true => simpa [VStream.chain, he] using h
  | false =>
    have hinl : ch = ⟨0, [d.word 7], d.vstream.consts⟩ := by simpa [he] using h
    rw [VStream.chain, he, hinl]
    rfl

/-- The state in which a VSTREAM begins has the chains of the state before. -/
theorem vstream_chain_begun (v : VStream) (s : State) (ref : DescRef) (d : Desc) :
    v.chain ((s.begun ref d).ctx ref.ctx) = v.chain (s.ctx ref.ctx) := by
  simp [VStream.chain]

/-- Settles O26: a VSTREAM that passes its checks from its unit; its dimensions from the immediates or a bound slot; CHAIN_LOAD, whose read of
the record leaves the descriptor in place; and the fill, which changes one seat. -/
theorem vectorStreamsAndChains : Obligations.VectorStreamsAndChains := by
  refine ⟨fun s ref d ch hi hf hch hc hp => ?_, fun s w u himm => ⟨fun hu => ?_, fun p hu hp hsrc => runDims_of_plan himm hu hp hsrc⟩,
    fun s s1 ref d bs hi h1 h2 hw hrd => ⟨chainLoad_of_good hi h1 h2 hw hrd, fun w b hbad => exec_chainLoad_of_bad hi h1 h2 hw hrd hbad⟩,
    fun s c t q slot ha hlen => ?_⟩
  · obtain ⟨-, hop, -⟩ := id hi
    obtain ⟨hzero, hstop, hrows⟩ := unitVstream_of_checks (b := s.begun ref d) (c := ref.ctx) hop (by rwa [frozen_begun])
      (by rw [vstream_chain_begun, vstream_chain hch]) (by rwa [judged_begun]) (by rwa [planCheck_begun])
    rw [exec_vstream hi]
    refine ⟨fun v hv => ?_, fun st v hv => ?_, fun d0 d1 d2 u hu => ?_⟩
    · rw [hzero v hv]; rfl
    · rw [hstop st v hv]; rfl
    · obtain ⟨hall, hrow⟩ := hrows d0 d1 d2 u hu
      exact ⟨fun n fl v hv => by rw [hall n fl v hv]; rfl, fun st v hv => by rw [hrow st v hv]; rfl⟩
  · rw [runDims_of_immediate w u s hu]
    simp only [List.any_beq', List.elem_eq_mem, decide_eq_true_eq]
  · obtain ⟨honly, hctx, -⟩ := modSeat_onlySeat s c t q (fun k => k.cacheChain slot)
    obtain ⟨hin, hlen'⟩ := cacheChain_holds _ slot hlen
    exact ⟨_, exec_chainCacheFill_of_awaits ha, by rwa [seat_modSeat_same], by rwa [seat_modSeat_same], honly, hctx,
      by rw [seat_modSeat_same, cacheChain_sp]⟩

end Sys2Proof.VectorStreams
end

section
/-! PROOFS. Plans, bound slots and work counters: PLAN_LOAD, BOUND_SET, WC_SET (R143 to R152). -/
namespace Sys2Proof.TilingWork
open Sys2Proof.Machine Sys2Proof.MatrixArray Sys2Proof.VectorStreams

/-! ### The checks that PLAN_LOAD, BOUND_SET and WC_SET share -/

/-- The commands of this chapter are refused in FROZEN alone (R60). -/
theorem phaseBad_tiling (x : Ctx) {op : Nat} (h : op / 256 = 3) : x.phaseBad op = x.frozen := by
  have h2 : op ≠ 0x002 := by rintro rfl; cases h
  have h3 : op ≠ 0x003 := by rintro rfl; cases h
  simp [Ctx.phaseBad, h, h2, h3]

/-- A refusal without an object reason carries the state byte alone (R58). -/
theorem badState_zero (x : Ctx) : badState x 0 = ⟨0x12, BitVec.ofNat 64 x.stateByte⟩ := by
  simp [badState, at_]

/-- Fields in place, only FROZEN and what is judged after it can refuse. -/
theorem firstFail_then_phase {l : List (Bool × Stop)} (hl : firstFail l = none) (x : Ctx) {op : Nat} (hop : op / 256 = 3)
    (r : List (Bool × Stop)) :
    firstFail (l ++ phaseCheck x op :: r) = if x.frozen then some ⟨0x12, BitVec.ofNat 64 x.stateByte⟩ else firstFail r := by
  rw [firstFail_append _ _ hl, phaseCheck, phaseBad_tiling x hop, badState_zero]
  cases x.frozen <;> rfl

@[simp] theorem stateByte_begun (s : State) (ref : DescRef) (d : Desc) :
    ((s.begun ref d).ctx ref.ctx).stateByte = (s.ctx ref.ctx).stateByte := by
  obtain ⟨_, _, _, h⟩ := ctx_begun s ref d
  rw [h]; rfl

@[simp] theorem sched_begun (s : State) (ref : DescRef) (d : Desc) : ((s.begun ref d).ctx ref.ctx).sched = (s.ctx ref.ctx).sched := by
  obtain ⟨_, _, _, h⟩ := ctx_begun s ref d
  rw [h]

@[simp] theorem wcAllot_begun (s : State) (ref : DescRef) (d : Desc) (t : Nat) :
    ((s.begun ref d).ctx ref.ctx).wcAllot t = (s.ctx ref.ctx).wcAllot t := by
  rw [Ctx.wcAllot, Ctx.wcAllot, sched_begun]

@[simp] theorem wcAt_begun (s : State) (ref : DescRef) (d : Desc) (t n : Nat) :
    ((s.begun ref d).ctx ref.ctx).wcAt t n = (s.ctx ref.ctx).wcAt t n := by
  rw [Ctx.wcAt, Ctx.wcAt, sched_begun]

theorem ctx_begun_other (s : State) (ref : DescRef) (d : Desc) {k : Nat} (h : k ≠ ref.ctx) : (s.begun ref d).ctx k = s.ctx k := by
  rw [State.begun, State.ctx_tick, State.startIssue, State.ctx_modCtx_other _ _ _ _ h, State.modDesc, State.ctx_modCtx_other _ _ _ _ h]

@[simp] theorem tile_begun (s : State) (ref : DescRef) (d : Desc) (t : Nat) : (s.begun ref d).tile t = s.tile t := rfl

/-! ### PLAN_LOAD (R143) -/

/-- A record goes into its plan, and empties it at KIND 0 (R143). -/
def loadPlan (x : Ctx) (plan : Nat) (ws : List DWord) : Ctx :=
  { x with plans := if fld (wrd ws 0) 0 4 = 0 then tdel x.plans plan else tput x.plans plan ws }

theorem plan_loadPlan_same (x : Ctx) (plan : Nat) (ws : List DWord) :
    (loadPlan x plan ws).plan plan = if fld (wrd ws 0) 0 4 = 0 then none else some ⟨ws⟩ := by
  simp only [loadPlan, Ctx.plan]
  split
  · rw [find_tdel_same]; rfl
  · rw [find_tput_same]; rfl

theorem plan_loadPlan_other (x : Ctx) (plan j : Nat) (ws : List DWord) (h : j ≠ plan) : (loadPlan x plan ws).plan j = x.plan j := by
  simp only [loadPlan, Ctx.plan]
  split
  · rw [find_tdel_other _ _ _ h]
  · rw [find_tput_other _ _ _ _ h]

/-- Fields in place, an aligned address and a plan of the table refuse nothing (R143). -/
theorem firstFail_planLoad {d : Desc} (h1 : (d.word 1).toNat % 64 = 0) (h2 : (d.word 2).toNat < 0xFFF)
    (hw : ∀ j ∈ [3, 4, 5, 6, 7], d.word j = 0) :
    firstFail ([(decide ((d.word 1).toNat % 64 ≠ 0), badDesc 1 0 9), (decide (fld (d.word 2) 0 12 = 0xFFF), badDesc 2 0 9), rsv d 2 12 52]
      ++ rsvWords d [3, 4, 5, 6, 7]) = none := by
  have hhigh : fld (d.word 2) 12 52 = 0 := by simp only [fld, Nat.shiftRight_eq_div_pow]; omega
  have hlow : fld (d.word 2) 0 12 ≠ 0xFFF := by simp only [fld, Nat.shiftRight_zero]; omega
  rw [firstFail_append _ _ (by simp [firstFail, rsv, h1, hhigh, hlow]), firstFail_rsvWords d _ hw]

section
variable {s s1 : State} {ref : DescRef} {d : Desc} {bs : List Byte}
variable (hi : s.issues ref 0x300 d) (h1 : (d.word 1).toNat % 64 = 0) (h2 : (d.word 2).toNat < 0xFFF)
  (hw : ∀ j ∈ [3, 4, 5, 6, 7], d.word j = 0) (hrd : rdVa (d.who ref.ctx) (d.word 1).toNat 64 (s.begun ref d) = .ok bs s1)

include hi in
theorem exec_planLoad : exec (.planLoad ref) s =
    .next (State.settle ref.ctx ref.ring ref.index (unitPlanLoad ref.ctx d (s.begun ref d))) :=
  congrArg _ (issue_of_issues 0x300 ref d (unitPlanLoad ref.ctx) s hi)

include hi h1 h2 hw hrd

/-- A record that R143 refuses ends the descriptor with 0x10, and no plan changes. -/
theorem exec_planLoad_of_bad {w b : Nat} (hbad : planBad (bytesWords 8 bs) = some (w, b)) :
    exec (.planLoad ref) s = .next (s1.ended ref 0x10 (at_ w 0 ||| at_ b 4 ||| at_ 9 10 ||| at_ 1 16)) := by
  have hunit : unitPlanLoad ref.ctx d (s.begun ref d) = .error (badRecord w b) s1 := by
    rw [unitPlanLoad]
    dsimp only
    rw [bind_of_ok (checks_of_none (firstFail_planLoad h1 h2 hw) _), bind_of_ok hrd, hbad]
    rfl
  rw [exec_planLoad hi, hunit]
  rfl

/-- An accepted record goes on to the phase check: FROZEN refuses it, else it is loaded (R60, R143). -/
theorem exec_planLoad_of_good (hgood : planBad (bytesWords 8 bs) = none) :
    exec (.planLoad ref) s = .next (if (s1.ctx ref.ctx).frozen
      then s1.ended ref 0x12 (BitVec.ofNat 64 (s1.ctx ref.ctx).stateByte)
      else (s1.modCtx ref.ctx (fun x => loadPlan x (d.word 2).toNat (bytesWords 8 bs))).ended ref 0x00
        (BitVec.ofNat 64 (d.word 2).toNat)) := by
  have hget : getCtx ref.ctx s1 = .ok (s1.ctx ref.ctx) s1 := rfl
  have hplan : fld (d.word 2) 0 12 = (d.word 2).toNat := by simp only [fld, Nat.shiftRight_zero]; omega
  have hop : d.opcode / 256 = 3 := by obtain ⟨-, hop, -⟩ := hi; rw [hop]
  have hphase := firstFail_then_phase (l := []) rfl (s1.ctx ref.ctx) hop []
  rw [List.nil_append] at hphase
  rw [exec_planLoad hi, unitPlanLoad]
  dsimp only
  rw [bind_of_ok (checks_of_none (firstFail_planLoad h1 h2 hw) _), bind_of_ok hrd, hgood]
  dsimp only
  rw [bind_of_ok hget]
  cases hf : (s1.ctx ref.ctx).frozen with
  | true => rw [hf] at hphase; rw [bind_of_error (checks_of_some hphase _)]; rfl
  | false => rw [hf] at hphase; rw [bind_of_ok (checks_of_none hphase _), hplan]; rfl

/-- The loaded record is what its plan holds, and the descriptor ends with the plan's number. -/
theorem planLoad_of_good (hgood : planBad (bytesWords 8 bs) = none) (hf : (s1.ctx ref.ctx).frozen = false) :
    let ws := bytesWords 8 bs
    let plan := (d.word 2).toNat
    ∃ v : State, exec (.planLoad ref) s = .next v ∧
      (v.ctx ref.ctx).plan plan = (if fld (wrd ws 0) 0 4 = 0 then none else some ⟨ws⟩) ∧
      (∀ j, j ≠ plan → (v.ctx ref.ctx).plan j = (s1.ctx ref.ctx).plan j) ∧
      (∃ e, v.desc ref = some e ∧ e.st = .done ∧ e.status = 0x00 ∧ e.result = BitVec.ofNat 64 plan) ∧
      v.mem = s1.mem ∧ (∀ j, j ≠ ref.ctx → v.ctx j = s1.ctx j) := by
  intro ws plan
  let u := s1.modCtx ref.ctx (fun x => loadPlan x plan ws)
  have hexec := exec_planLoad_of_good hi h1 h2 hw hrd hgood
  rw [hf, if_neg Bool.false_ne_true] at hexec
  have hctx : u.ctx ref.ctx = loadPlan (s1.ctx ref.ctx) plan ws := State.ctx_modCtx_same _ _ _
  have hplan : ∀ st k, ((u.finish ref.ctx ref.ring ref.index st).ctx ref.ctx).plan k = (u.ctx ref.ctx).plan k := by
    intro st k
    obtain ⟨fz, hx⟩ := ctx_finish u ref.ctx ref.ring ref.index st
    rw [hx]; rfl
  have hs1 : s1.desc ref = some { d with st := .executing, issued := true } := by
    obtain ⟨hd, -⟩ := hi
    rw [desc_of_readOnly (onlyReads_rdVa _ _ _ _ _ _ hrd), desc_begun hd]
  have hdesc : u.desc ref = some { d with st := .executing, issued := true } := by
    rw [← hs1, State.desc, hctx]; rfl
  refine ⟨_, hexec, ?_, fun j hj => ?_, ⟨_, desc_finish hdesc _, rfl, rfl, rfl⟩, rfl, fun j hj => ?_⟩
  · exact (hplan _ plan).trans (by rw [hctx, plan_loadPlan_same])
  · exact (hplan _ j).trans (by rw [hctx, plan_loadPlan_other _ _ _ _ hj])
  · exact ((State.finish_onlyCtx u ref.ctx ref.ring ref.index _).2 j hj).trans (State.ctx_modCtx_other _ _ _ _ hj)

end

/-! ### BOUND_SET (R145) -/

/-- BOUND_SET with its reserved fields 0 is judged by the phase alone. -/
theorem exec_boundSet_of_fields {s : State} {ref : DescRef} {d : Desc} (hi : s.issues ref 0x301 d) (h2 : fld (d.word 2) 38 26 = 0)
    (hw : ∀ j ∈ [3, 4, 5, 6, 7], d.word j = 0) :
    exec (.boundSet ref) s = .next (if (s.ctx ref.ctx).frozen
      then (s.begun ref d).ended ref 0x12 (BitVec.ofNat 64 (s.ctx ref.ctx).stateByte)
      else ((s.begun ref d).modCtx ref.ctx (fun x =>
        { x with bounds := tput x.bounds (fld (d.word 2) 32 6) (BitVec.ofNat 32 (fld (d.word 1) 0 32),
            BitVec.ofNat 32 (fld (d.word 1) 32 32), BitVec.ofNat 32 (fld (d.word 2) 0 32)) })).ended ref 0x00 0) := by
  have hexec : exec (.boundSet ref) s =
      .next (State.settle ref.ctx ref.ring ref.index (unitBoundSet ref.ctx d (s.begun ref d))) :=
    congrArg _ (issue_of_issues 0x301 ref d (unitBoundSet ref.ctx) s hi)
  have hget : getCtx ref.ctx (s.begun ref d) = .ok ((s.begun ref d).ctx ref.ctx) (s.begun ref d) := rfl
  have hop : d.opcode / 256 = 3 := by obtain ⟨-, hop, -⟩ := hi; rw [hop]
  have hrsv : firstFail (rsv d 2 38 26 :: rsvWords d [3, 4, 5, 6, 7]) = none := by
    simpa [firstFail, rsv, h2] using firstFail_rsvWords d _ hw
  have hphase := firstFail_then_phase hrsv ((s.begun ref d).ctx ref.ctx) hop []
  rw [frozen_begun, stateByte_begun] at hphase
  rw [hexec, unitBoundSet, bind_of_ok hget]
  cases hf : (s.ctx ref.ctx).frozen with
  | true => rw [hf] at hphase; rw [bind_of_error (checks_of_some hphase _)]; rfl
  | false => rw [hf] at hphase; rw [bind_of_ok (checks_of_none hphase _)]; rfl

/-! ### WC_SET (R151, R152) -/

/-- WC_SET of a counter that the context holds, with a STEP, is judged by the phase and by the counter's holder. -/
theorem exec_wcSet_of_fields {s : State} {ref : DescRef} {d : Desc} (hi : s.issues ref 0x302 d) (h1 : fld (d.word 1) 16 48 = 0)
    (hstep : fld (d.word 3) 0 8 ≠ 0) (h3 : fld (d.word 3) 8 56 = 0) (hw : ∀ j ∈ [4, 5, 6, 7], d.word j = 0)
    (hn : fld (d.word 1) 4 12 < (s.ctx ref.ctx).wcAllot (fld (d.word 1) 0 4)) :
    let x := s.ctx ref.ctx
    let t := fld (d.word 1) 0 4
    let k := x.wcAt t (fld (d.word 1) 4 12)
    exec (.wcSet ref) s = .next (if x.frozen then (s.begun ref d).ended ref 0x12 (BitVec.ofNat 64 x.stateByte)
      else if ((s.tile t).counter k).holder.isSome
      then (s.begun ref d).ended ref 0x12 (at_ x.stateByte 0 ||| at_ 0x0303 16)
      else ((s.begun ref d).modTile t (fun e => e.modCounter k (fun _ => ⟨BitVec.ofNat 32 (fld (d.word 2) 0 32),
        BitVec.ofNat 32 (fld (d.word 2) 32 32), BitVec.ofNat 8 (fld (d.word 3) 0 8), [], none⟩))).ended ref 0x00 0) := by
  intro x t k
  have hexec : exec (.wcSet ref) s = .next (State.settle ref.ctx ref.ring ref.index (unitWcSet ref.ctx d (s.begun ref d))) :=
    congrArg _ (issue_of_issues 0x302 ref d (unitWcSet ref.ctx) s hi)
  have hget : (get : Act State) (s.begun ref d) = .ok (s.begun ref d) (s.begun ref d) := rfl
  have hop : d.opcode / 256 = 3 := by obtain ⟨-, hop, -⟩ := hi; rw [hop]
  have hfields : firstFail ([(decide (x.wcAllot t ≤ fld (d.word 1) 4 12), badDesc 1 4 9), rsv d 1 16 48,
      (decide (fld (d.word 3) 0 8 = 0), badDesc 3 0 9), rsv d 3 8 56] ++ rsvWords d [4, 5, 6, 7]) = none := by
    rw [firstFail_append _ _ (by simp [firstFail, rsv, h1, hstep, h3, x, t, hn]), firstFail_rsvWords d _ hw]
  have hphase := firstFail_then_phase hfields ((s.begun ref d).ctx ref.ctx) hop
    [(((s.tile t).counter k).holder.isSome, badState ((s.begun ref d).ctx ref.ctx) 0x0303)]
  rw [frozen_begun, stateByte_begun] at hphase
  rw [hexec, unitWcSet, bind_of_ok hget]
  rw [wcAllot_begun, wcAt_begun, tile_begun]
  cases hf : x.frozen with
  | true => rw [hf] at hphase; rw [bind_of_error (checks_of_some hphase _)]; rfl
  | false =>
    rw [hf] at hphase
    cases hb : ((s.tile t).counter k).holder.isSome with
    | true =>
      rw [hb] at hphase
      rw [bind_of_error (checks_of_some hphase _), badState, stateByte_begun]
      rfl
    | false =>
      rw [hb] at hphase
      rw [bind_of_ok (checks_of_none hphase _)]
      rfl

/-- Settles O27: each of the three commands is judged by its fields, then by the phase and the counter's holder; what passes changes its one
plan, slot or counter. -/
theorem plansBoundsAndCounters : Obligations.PlansBoundsAndCounters := by
  refine ⟨fun s s1 ref d bs hi h1 h2 hw hrd => ⟨fun hgood hf => planLoad_of_good hi h1 h2 hw hrd hgood hf, fun hgood hf => ?_,
      fun w b hbad => exec_planLoad_of_bad hi h1 h2 hw hrd hbad⟩,
    fun s ref d hi h2 hw => ?_, fun s ref d hi h1 hstep h3 hw hn => ?_⟩
  · rw [exec_planLoad_of_good hi h1 h2 hw hrd hgood, hf]; rfl
  · rw [exec_boundSet_of_fields hi h2 hw]
    exact ⟨fun hf => by rw [hf]; rfl, fun hf => by rw [hf]; rfl⟩
  · rw [exec_wcSet_of_fields hi h1 hstep h3 hw hn]
    refine ⟨fun hf => by rw [hf]; rfl, fun hf hh => by rw [hf, hh]; rfl, fun hf hh => by rw [hf, hh]; rfl⟩

end Sys2Proof.TilingWork
end

section
/-! PROOFS. Work counters: what a fetch answers, and what the counters and claims of a descriptor on its tiles become (R149 to R156, R205). -/
namespace Sys2Proof.TilingWork
open Sys2Proof.Machine Sys2Proof.MatrixArray Sys2Proof.VectorStreams

/-! ### One counter (R149) -/

@[simp] theorem counter_modCounter_same (e : Tile) (n : Nat) (f : WorkCounter → WorkCounter) :
    (e.modCounter n f).counter n = f (e.counter n) :=
  tget_tput_same _ _ _ _

theorem counter_modCounter_other (e : Tile) (n i : Nat) (f : WorkCounter → WorkCounter) (h : i ≠ n) :
    (e.modCounter n f).counter i = e.counter i :=
  tget_tput_other _ _ _ _ _ h

theorem fetch_of_redo {k : WorkCounter} {n : Nat} {r : List Nat} (h : k.redo = n :: r) : k.fetch = (some n, { k with redo := r }) := by
  simp [WorkCounter.fetch, h]

theorem fetch_of_next {k : WorkCounter} (h : k.redo = []) (hlt : k.next.toNat < k.limit.toNat) :
    k.fetch = (some k.next.toNat, { k with next := BitVec.ofNat 32 (min (k.next.toNat + k.step.toNat) 0xFFFFFFFF) }) := by
  simp [WorkCounter.fetch, h, hlt]

theorem fetch_of_exhausted {k : WorkCounter} (h : k.redo = []) (hle : k.limit.toNat ≤ k.next.toNat) : k.fetch = (none, k) := by
  simp [WorkCounter.fetch, h, Nat.not_lt.mpr hle]

/-- Progress that a descriptor keeps under its own name. -/
theorem desc_setProg_own {s : State} {ref : DescRef} {d : Desc} (h : s.desc ref = some d) (p : Prog) :
    (s.setProg ref.ctx d.ring d.index p).desc ref = some { d with prog := p } := by
  have hset := desc_setProg h p
  obtain ⟨hr, hx⟩ := desc_is h
  rwa [← hr, ← hx] at hset

/-- From s to v nothing changes but tiles. -/
def onlyTiles (s v : State) : Prop := v = { s with tiles := v.tiles }

theorem onlyTiles_trans {s u v : State} (h1 : onlyTiles s u) (h2 : onlyTiles u v) : onlyTiles s v := by
  rw [onlyTiles] at h1 h2 ⊢
  rw [h2, h1]

theorem ctx_of_onlyTiles {s v : State} (h : onlyTiles s v) (c : Nat) : v.ctx c = s.ctx c := by rw [h]; rfl
theorem desc_of_onlyTiles {s v : State} (h : onlyTiles s v) (ref : DescRef) : v.desc ref = s.desc ref := by rw [h]; rfl
theorem mem_of_onlyTiles {s v : State} (h : onlyTiles s v) : v.mem = s.mem := by rw [h]

/-! ### A change on several tiles, one after the other

The change may look at the contexts, which no change of a tile touches. -/

section
variable {α : Type} (T : α → Nat) (F : Tbl Ctx → α → Tile → Tile)

/-- Tile T a changes by F, for each a in turn. -/
def modTiles (s : State) (l : List α) : State := l.foldl (fun u a => u.modTile (T a) (F u.ctxs a)) s

/-- Nothing but tiles changes. -/
theorem modTiles_only (s : State) (l : List α) : onlyTiles s (modTiles T F s l) := by
  induction l generalizing s with
  | nil => rfl
  | cons a l ih => exact onlyTiles_trans (u := s.modTile (T a) (F s.ctxs a)) rfl (ih _)

theorem tile_modTiles_notMem (s : State) (l : List α) {t : Nat} (h : t ∉ l.map T) : (modTiles T F s l).tile t = s.tile t := by
  induction l generalizing s with
  | nil => rfl
  | cons a l ih =>
    rw [List.map_cons, List.mem_cons, not_or] at h
    obtain ⟨ha, hl⟩ := h
    exact (ih _ hl).trans (State.tile_modTile_other _ _ _ _ ha)

/-- Of different tiles each changes once. -/
theorem tile_modTiles_mem (s : State) (l : List α) (hl : (l.map T).Nodup) {a : α} (ha : a ∈ l) :
    (modTiles T F s l).tile (T a) = F s.ctxs a (s.tile (T a)) := by
  induction l generalizing s with
  | nil => cases ha
  | cons b l ih =>
    rw [List.map_cons, List.nodup_cons] at hl
    obtain ⟨hb, hl⟩ := hl
    have hcons : modTiles T F s (b :: l) = modTiles T F (s.modTile (T b) (F s.ctxs b)) l := rfl
    rw [hcons]
    rcases List.mem_cons.mp ha with rfl | ha
    · rw [tile_modTiles_notMem T F _ _ hb, State.tile_modTile_same]
    · have hne : T a ≠ T b := fun h => hb (h ▸ List.mem_map_of_mem ha)
      rw [ih _ hl ha, State.tile_modTile_other _ _ _ _ hne, State.modTile_ctxs]

/-- What no single change touches stands on every tile. -/
theorem tile_modTiles_keeps {β : Type} (g : Tile → β) (h : ∀ x a e, g (F x a e) = g e) (s : State) (l : List α) (t : Nat) :
    g ((modTiles T F s l).tile t) = g (s.tile t) := by
  induction l generalizing s with
  | nil => rfl
  | cons a l ih =>
    refine (ih _).trans ?_
    by_cases ht : t = T a
    · rw [ht, State.tile_modTile_same, h]
    · rw [State.tile_modTile_other _ _ _ _ ht]

end

/-! ### The tiles of a descriptor -/

theorem tilesOf_nodup (mask : Nat) : (tilesOf mask).Nodup := List.nodup_range.filter _

theorem jobTiles_nodup (d : Desc) : d.jobTiles.Nodup := by
  unfold Desc.jobTiles
  split
  · exact List.pairwise_singleton _ _
  · exact tilesOf_nodup _

/-- A list is what its places hold. -/
theorem map_getD_range (l : List Nat) : (List.range l.length).map (fun k => l.getD k 0) = l := by
  refine List.ext_getElem (by simp) (fun i h1 h2 => ?_)
  simp [List.getD, h2]

/-! ### The counters of a descriptor (R150, R152, R156) -/

/-- The counter that a descriptor uses on tile t, by the tile's number (R150). -/
def jobCounter (s : State) (c : Nat) (d : Desc) (t : Nat) : WorkCounter := (s.tile t).counter ((s.ctx c).wcAt t d.jobWc)

section
variable (s : State) (c : Nat) (d : Desc) (f : Nat → WorkCounter → WorkCounter)

theorem modCounters_eq : s.modCounters c d f = modTiles (fun k => d.jobTiles.getD k 0)
    (fun x k e => e.modCounter ((tget Ctx.reset x c).wcAt (d.jobTiles.getD k 0) d.jobWc) (f k)) s (List.range d.jobTiles.length) := rfl

theorem modCounters_only : onlyTiles s (s.modCounters c d f) := by
  rw [modCounters_eq]; exact modTiles_only _ _ _ _

theorem setCounters_only (lo hi : Nat) : onlyTiles s (s.setCounters c d lo hi) := modCounters_only _ _ _ _

/-- What a counter's change leaves of a tile stands on every tile. -/
theorem tile_modCounters_keeps {β : Type} (g : Tile → β) (h : ∀ n w e, g (e.modCounter n w) = g e) (t : Nat) :
    g ((s.modCounters c d f).tile t) = g (s.tile t) := by
  rw [modCounters_eq]; exact tile_modTiles_keeps _ _ g (fun _ _ _ => h _ _ _) _ _ _

/-- The counter on each of the descriptor's tiles changes by its place among them. -/
theorem jobCounter_modCounters {k : Nat} (hk : k < d.jobTiles.length) :
    jobCounter (s.modCounters c d f) c d (d.jobTiles.getD k 0) = f k (jobCounter s c d (d.jobTiles.getD k 0)) := by
  have htile := tile_modTiles_mem (fun k => d.jobTiles.getD k 0)
    (fun x k e => e.modCounter ((tget Ctx.reset x c).wcAt (d.jobTiles.getD k 0) d.jobWc) (f k)) s (List.range d.jobTiles.length)
    (by rw [map_getD_range]; exact jobTiles_nodup d) (List.mem_range.mpr hk)
  rw [← modCounters_eq] at htile
  rw [jobCounter, ctx_of_onlyTiles (modCounters_only s c d f), htile]
  exact counter_modCounter_same _ _ _

/-- Every tile of the descriptor has its place. -/
theorem exists_place_of_mem {t : Nat} (ht : t ∈ d.jobTiles) : ∃ k < d.jobTiles.length, d.jobTiles.getD k 0 = t := by
  obtain ⟨k, hk, rfl⟩ := List.mem_iff_getElem.mp ht
  exact ⟨k, hk, by simp [List.getD, hk]⟩

/-- Set counters have STEP 1 and an empty redo list and serve who they served (R156). -/
theorem jobCounter_setCounters (lo hi : Nat) {t : Nat} (ht : t ∈ d.jobTiles) :
    ∃ a b, jobCounter (s.setCounters c d lo hi) c d t =
      ⟨BitVec.ofNat 32 a, BitVec.ofNat 32 b, 1, [], (jobCounter s c d t).holder⟩ := by
  obtain ⟨k, hk, rfl⟩ := exists_place_of_mem d ht
  exact ⟨_, _, jobCounter_modCounters s c d _ hk⟩

/-- One shared counter serves all the numbers (R156). -/
theorem jobCounter_setCounters_shared {lo hi : Nat} (hle : lo ≤ hi) (hsh : d.jobShared = true) :
    jobCounter (s.setCounters c d lo hi) c d d.jobHome =
      { jobCounter s c d d.jobHome with next := BitVec.ofNat 32 lo, limit := BitVec.ofNat 32 hi, step := 1, redo := [] } := by
  have htiles : d.jobTiles = [d.jobHome] := by rw [Desc.jobTiles, hsh]; rfl
  have hset := jobCounter_modCounters s c d (fun k w => w.set (lo + k * (hi - lo) / d.jobTiles.length)
    (lo + (k + 1) * (hi - lo) / d.jobTiles.length) 1 w.holder) (k := 0) (by simp [htiles])
  have hhome : d.jobTiles.getD 0 0 = d.jobHome := by simp [htiles]
  rw [hhome] at hset
  refine hset.trans ?_
  simp [WorkCounter.set, htiles, Nat.add_sub_cancel' hle]

end

end Sys2Proof.TilingWork
end

section
/-! PROOFS. TILED_GEMM starts, and a core fetches a work tile (R149, R154 to R160, R205). -/
namespace Sys2Proof.TilingWork
open Sys2Proof.Machine Sys2Proof.MatrixArray Sys2Proof.VectorStreams

/-! ### Claims: bitmap units and slices (R160, R205) -/

/-- A descriptor's counter on a tile is a matter of the context's first counter there and of the tile's counters. -/
theorem jobCounter_congr {s v : State} {c t : Nat} (d : Desc) (hwc : (v.ctx c).wcAt t d.jobWc = (s.ctx c).wcAt t d.jobWc)
    (h : (v.tile t).counters = (s.tile t).counters) : jobCounter v c d t = jobCounter s c d t := by
  rw [jobCounter, jobCounter, Tile.counter, Tile.counter, hwc, h]

/-- The bitmap units of the home tile once the descriptor has taken its own (R160). -/
def unitsTaken (c : Nat) (d : Desc) (bits : Nat) (t : Tile) : Tile :=
  { t with bitmap := t.bitmap.filter (fun e => !(e.1 == c && e.2.1 == d.ring && e.2.2.1 == d.index)) ++ [(c, d.ring, d.index, unitsOf bits)] }

/-- The slices of a tile with one more (R205). -/
def sliceTaken (c : Nat) (d : Desc) (t : Tile) : Tile := { t with slices := t.slices ++ [(c, d.ring, d.index)] }

section
variable (s : State) (c : Nat) (d : Desc) (bits : Nat)

theorem takeUnits_of_slices (h : d.takesSlices = true) : s.takeUnits c d bits =
    modTiles id (fun _ _ => sliceTaken c d) (s.modTile d.jobHome (unitsTaken c d bits)) (tilesOf d.jobMask) := by
  rw [State.takeUnits, if_pos h]; rfl

/-- The units change no more of a tile than its bitmap. -/
theorem tile_unitsTaken_keeps {β : Type} (g : Tile → β) (h : ∀ t, g (unitsTaken c d bits t) = g t) (t : Nat) :
    g ((s.modTile d.jobHome (unitsTaken c d bits)).tile t) = g (s.tile t) := by
  by_cases ht : t = d.jobHome
  · rw [ht, State.tile_modTile_same, h]
  · rw [State.tile_modTile_other _ _ _ _ ht]

variable (h : d.takesSlices = true)
include h

theorem takeUnits_only : onlyTiles s (s.takeUnits c d bits) := by
  rw [takeUnits_of_slices s c d bits h]
  exact onlyTiles_trans (u := s.modTile d.jobHome (unitsTaken c d bits)) rfl (modTiles_only _ _ _ _)

theorem counters_takeUnits (t : Nat) : ((s.takeUnits c d bits).tile t).counters = (s.tile t).counters := by
  rw [takeUnits_of_slices s c d bits h, tile_modTiles_keeps id (fun _ _ => sliceTaken c d) Tile.counters (fun _ _ _ => rfl)]
  exact tile_unitsTaken_keeps s c d bits Tile.counters (fun _ => rfl) t

theorem slices_takeUnits {t : Nat} (ht : t ∈ tilesOf d.jobMask) :
    ((s.takeUnits c d bits).tile t).slices = (s.tile t).slices ++ [(c, d.ring, d.index)] := by
  have htile := tile_modTiles_mem id (fun _ _ => sliceTaken c d) (s.modTile d.jobHome (unitsTaken c d bits)) (tilesOf d.jobMask)
    (by rw [List.map_id]; exact tilesOf_nodup _) ht
  rw [takeUnits_of_slices s c d bits h, ← tile_unitsTaken_keeps s c d bits Tile.slices (fun _ => rfl) t]
  exact congrArg Tile.slices htile

end

/-- Whether units lack is a matter of the home tile's bitmap. -/
theorem unitsLack_congr {s v : State} (c : Nat) (d : Desc) (bits : Nat) (h : (v.tile d.jobHome).bitmap = (s.tile d.jobHome).bitmap) :
    v.unitsLack c d bits = s.unitsLack c d bits := by
  rw [State.unitsLack, State.unitsLack, Tile.freeUnits, Tile.freeUnits, Tile.unitsHeld, Tile.unitsHeld, h]

/-- Where slices lack is a matter of the tiles' slices. -/
theorem sliceLack_congr {s v : State} (d : Desc) (h : ∀ t, (v.tile t).slices = (s.tile t).slices) : v.sliceLack d = s.sliceLack d := by
  simp only [State.sliceLack, h]

/-! ### A descriptor starts (R152, R160, R205) -/

/-- The descriptor has its claims, its counters serve the first section, and it serves work tiles. -/
def jobStarted (s : State) (c : Nat) (d : Desc) (j : Job) (bits : Nat) : State :=
  ((s.takeUnits c d bits).setCounters c d 0 (min j.total sectionSize)).setProg c d.ring d.index (.job { j with started := true })

/-- With units and slices left it starts (R152). -/
theorem startJob_of_room {s : State} {c : Nat} {d : Desc} {bits : Nat} (j : Job) (hphase : (s.ctx c).phaseBad d.opcode = false)
    (hu : s.unitsLack c d bits = false) (hsl : s.sliceLack d = []) :
    startJob c d j bits s = .ok none (jobStarted s c d j bits) := by
  have hget : (get : Act State) s = .ok s s := rfl
  have hcheck : firstFail [phaseCheck (s.ctx c) d.opcode] = none := by simp [firstFail, phaseCheck, hphase]
  have hwaits : s.waitsFor c d bits = [] := by simp [State.waitsFor, hu, hsl]
  rw [startJob, bind_of_ok hget, bind_of_ok (checks_of_none hcheck s), hwaits]
  rfl

section
variable {s : State} {c : Nat} {d : Desc} (j : Job) (bits : Nat) (h : d.takesSlices = true)
include h

/-- What starts keeps its progress, and nothing else changes but tiles. -/
theorem jobStarted_only : ∃ u, onlyTiles s u ∧
    jobStarted s c d j bits = u.setProg c d.ring d.index (.job { j with started := true }) :=
  ⟨_, onlyTiles_trans (takeUnits_only s c d bits h) (setCounters_only _ c d _ _), rfl⟩

/-- Every counter of the descriptor serves it as before, one by one from an empty redo list (R156). -/
theorem jobCounter_jobStarted {t : Nat} (ht : t ∈ d.jobTiles) : ∃ a b, jobCounter (jobStarted s c d j bits) c d t =
    ⟨BitVec.ofNat 32 a, BitVec.ofNat 32 b, 1, [], (jobCounter s c d t).holder⟩ := by
  obtain ⟨a, b, hset⟩ := jobCounter_setCounters (s.takeUnits c d bits) c d 0 (min j.total sectionSize) ht
  have htake : jobCounter (s.takeUnits c d bits) c d t = jobCounter s c d t :=
    jobCounter_congr d (by rw [ctx_of_onlyTiles (takeUnits_only s c d bits h)]) (counters_takeUnits s c d bits h t)
  have hprog : jobCounter (jobStarted s c d j bits) c d t =
      jobCounter ((s.takeUnits c d bits).setCounters c d 0 (min j.total sectionSize)) c d t :=
    jobCounter_congr d (by rw [jobStarted, ctx_setProg]; rfl) rfl
  exact ⟨a, b, by rw [hprog, hset, htake]⟩

theorem slices_jobStarted {t : Nat} (ht : t ∈ tilesOf d.jobMask) :
    ((jobStarted s c d j bits).tile t).slices = (s.tile t).slices ++ [(c, d.ring, d.index)] := by
  rw [jobStarted, State.tile_setProg, State.setCounters, tile_modCounters_keeps _ c d _ Tile.slices (fun _ _ _ => rfl)]
  exact slices_takeUnits s c d bits h ht

end

/-! ### TILED_GEMM (R154) -/

/-- What a TILED_GEMM starts from: M, N, K; MB × NB × S work tiles; its padding nodes marked (R156, R160). -/
def tiledJob (k : Tiled) (mm nn kk : Nat) : Job :=
  { started := false, waits := [], dims := [mm, nn, kk], latch := [], total := k.mb mm * k.nb nn * (k.splitOf kk).s, section_ := 0,
    bits := paddingBits (k.splitOf kk) (k.mb mm * k.nb nn), joined := [], left := [], run := 0, dups := 0, flags := 0, sums := [], chunks := [] }

/-- Check 11 has passed: the counters are the descriptor's (R152). -/
def counterHeld (s : State) (c : Nat) (d : Desc) : State := s.modCounters c d (fun _ w => { w with holder := some (c, d.ring, d.index) })

theorem ctx_counterHeld (s : State) (c : Nat) (d : Desc) (k : Nat) : (counterHeld s c d).ctx k = s.ctx k := by
  exact ctx_of_onlyTiles (modCounters_only _ _ _ _) k

theorem holder_counterHeld (s : State) (c : Nat) (d : Desc) {t : Nat} (ht : t ∈ d.jobTiles) :
    (jobCounter (counterHeld s c d) c d t).holder = some (c, d.ring, d.index) := by
  obtain ⟨k, hk, rfl⟩ := exists_place_of_mem d ht
  rw [counterHeld, jobCounter_modCounters s c d _ hk]

/-- A TILED_GEMM with immediate dimensions that passes its checks, with its counters free and room for its claims, starts. -/
theorem unitTiledGemm_of_room {b : State} {c : Nat} {d : Desc} {mm nn kk : Nat} (hop : d.opcode = 0x303) (hprog : d.prog = .none)
    (hplan : d.tuse.plan = 0xFFF) (himm : d.tuse.imm = [mm, nn, kk]) (hf : (b.ctx c).frozen = false)
    (hc : firstFail (d.tiled.checks (b.ctx c) d ((b.ctx c).judged d.tuse)) = none) (hbusy : b.jobBusy c d = false)
    (hm : mm ≠ 0) (hn : nn ≠ 0) (hk : kk ≠ 0) (hu : b.unitsLack c d (d.tiled.bits mm nn kk) = false) (hsl : b.sliceLack d = []) :
    unitTiledGemm c d b = .ok none (jobStarted (counterHeld b c d) c d (tiledJob d.tiled mm nn kk) (d.tiled.bits mm nn kk)) := by
  have hget : (get : Act State) b = .ok b b := rfl
  have hphase : (b.ctx c).phaseBad d.opcode = false := by rw [hop, phaseBad_tiling _ rfl, hf]
  have h11 : firstFail (phaseCheck (b.ctx c) d.opcode :: (b.ctx c).planCheck d.tuse ++ [(b.jobBusy c d, badState (b.ctx c) 0x0303)]) = none :=
    firstFail_phase_plan_object hphase (by simp [Ctx.planCheck, hplan, firstFail]) hbusy
  have hhold : holdCounters c d b = .ok () (counterHeld b c d) := rfl
  have hdims : runDims (d.who c) d.tuse (counterHeld b c d) = .ok (some [mm, nn, kk]) (counterHeld b c d) := by
    rw [runDims_of_immediate _ _ _ hplan, himm]
    simp [hm, hn, hk]
  rw [unitTiledGemm, hprog]
  dsimp only
  rw [bind_of_ok hget, bind_of_ok (checks_of_none hc b), bind_of_ok (checks_of_none h11 b), bind_of_ok hhold, bind_of_ok hdims]
  refine startJob_of_room _ (by rwa [ctx_counterHeld]) ?_ ?_
  · exact (unitsLack_congr c d _ (tile_modCounters_keeps b c d _ Tile.bitmap (fun _ _ _ => rfl) _)).trans hu
  · exact (sliceLack_congr d (tile_modCounters_keeps b c d _ Tile.slices (fun _ _ _ => rfl))).trans hsl

/-- A TILED_GEMM has issued, holds its counters and claims, and serves its work tiles. -/
def tiledStarted (s : State) (ref : DescRef) (d : Desc) (mm nn kk : Nat) : State :=
  jobStarted (counterHeld (s.begun ref d) ref.ctx d) ref.ctx d (tiledJob d.tiled mm nn kk) (d.tiled.bits mm nn kk)

/-- The same as the command (R154). -/
theorem exec_tiledGemm_of_room {s : State} {ref : DescRef} {d : Desc} {mm nn kk : Nat} (hi : s.issues ref 0x303 d) (hprog : d.prog = .none)
    (hplan : d.tuse.plan = 0xFFF) (himm : d.tuse.imm = [mm, nn, kk]) (hf : (s.ctx ref.ctx).frozen = false)
    (hc : firstFail (d.tiled.checks (s.ctx ref.ctx) d ((s.ctx ref.ctx).judged d.tuse)) = none) (hbusy : s.jobBusy ref.ctx d = false)
    (hm : mm ≠ 0) (hn : nn ≠ 0) (hk : kk ≠ 0) (hu : s.unitsLack ref.ctx d (d.tiled.bits mm nn kk) = false) (hsl : s.sliceLack d = []) :
    exec (.tiledGemm ref) s = .next (tiledStarted s ref d mm nn kk) := by
  have hexec : exec (.tiledGemm ref) s =
      .next (State.settle ref.ctx ref.ring ref.index (unitTiledGemm ref.ctx d (s.begun ref d))) :=
    congrArg _ (issue_of_issues 0x303 ref d (unitTiledGemm ref.ctx) s hi)
  have hchecks : d.tiled.checks ((s.begun ref d).ctx ref.ctx) d = d.tiled.checks (s.ctx ref.ctx) d := by
    funext dims
    simp only [Tiled.checks, jobChecks, wcAllot_begun]
  have hbegun : (s.begun ref d).jobBusy ref.ctx d = s.jobBusy ref.ctx d := by
    simp only [State.jobBusy, wcAt_begun, tile_begun]
  obtain ⟨-, hop, -⟩ := hi
  rw [hexec, unitTiledGemm_of_room (b := s.begun ref d) hop hprog hplan himm (by rwa [frozen_begun])
    (by rwa [hchecks, judged_begun]) (by rwa [hbegun]) hm hn hk hu hsl]
  rfl

section
variable {s : State} {ref : DescRef} {d : Desc} (mm nn kk : Nat) (hi : s.issues ref 0x303 d)
include hi

theorem takesSlices_of_tiled : d.takesSlices = true := by
  obtain ⟨-, hop, -⟩ := hi
  simp [Desc.takesSlices, hop]

/-- From the state in which it issues nothing changes but tiles and the descriptor's progress. -/
theorem tiledStarted_only : ∃ u, onlyTiles (s.begun ref d) u ∧ tiledStarted s ref d mm nn kk =
    u.setProg ref.ctx ref.ring ref.index (.job { tiledJob d.tiled mm nn kk with started := true }) := by
  obtain ⟨u, hu, heq⟩ := jobStarted_only (s := counterHeld (s.begun ref d) ref.ctx d) (c := ref.ctx) (tiledJob d.tiled mm nn kk)
    (d.tiled.bits mm nn kk) (takesSlices_of_tiled hi)
  obtain ⟨hr, hx⟩ := desc_is hi.1
  exact ⟨u, onlyTiles_trans (modCounters_only _ _ _ _) hu, by rw [tiledStarted, heq, hr, hx]⟩

/-- Every counter of its tiles serves it, one by one from an empty redo list (R152, R156). -/
theorem counter_tiledStarted {t : Nat} (ht : t ∈ d.jobTiles) :
    ∃ a b, ((tiledStarted s ref d mm nn kk).tile t).counter ((s.ctx ref.ctx).wcAt t d.jobWc) =
      ⟨BitVec.ofNat 32 a, BitVec.ofNat 32 b, 1, [], some (ref.ctx, ref.ring, ref.index)⟩ := by
  obtain ⟨a, b, hcnt⟩ := jobCounter_jobStarted (s := counterHeld (s.begun ref d) ref.ctx d) (c := ref.ctx) (tiledJob d.tiled mm nn kk)
    (d.tiled.bits mm nn kk) (takesSlices_of_tiled hi) ht
  obtain ⟨u, hu, heq⟩ := tiledStarted_only mm nn kk hi
  have hwc : ((tiledStarted s ref d mm nn kk).ctx ref.ctx).wcAt t d.jobWc = (s.ctx ref.ctx).wcAt t d.jobWc := by
    rw [heq, ctx_setProg, ctx_of_onlyTiles hu, ← wcAt_begun s ref d]
    rfl
  obtain ⟨hr, hx⟩ := desc_is hi.1
  rw [← tiledStarted, jobCounter, hwc, holder_counterHeld _ _ _ ht, hr, hx] at hcnt
  exact ⟨a, b, hcnt⟩

theorem slices_tiledStarted {t : Nat} (ht : t ∈ tilesOf d.jobMask) :
    ((tiledStarted s ref d mm nn kk).tile t).slices = (s.tile t).slices ++ [(ref.ctx, ref.ring, ref.index)] := by
  obtain ⟨hr, hx⟩ := desc_is hi.1
  rw [tiledStarted, slices_jobStarted _ _ (takesSlices_of_tiled hi) ht, counterHeld,
    tile_modCounters_keeps _ _ _ _ Tile.slices (fun _ _ _ => rfl), tile_begun, hr, hx]

end

/-! ### A fetch (R149, R156) -/

/-- The tile whose counter a core of tile t asks (R156). -/
def fetchTile (d : Desc) (t : Nat) : Nat := if d.jobShared then d.jobHome else t

theorem exec_workCounterFetch_of_mayFetch {s : State} {ref : DescRef} {d : Desc} {j : Job} {t q : Nat} (hd : s.desc ref = some d)
    (hrun : d.running = some j) (hmay : s.mayFetch ref.ctx d j t q = true) :
    exec (.workCounterFetch ref t q) s = .next (s.fetchWork ref.ctx d j t q) := by
  have hexec : exec (.workCounterFetch ref t q) s = execWorkCounterFetch ref t q s := rfl
  rw [hexec, execWorkCounterFetch, hd]
  simp only [hrun, hmay, if_true]

/-- The counter that a core of tile t asks is left as w. -/
def fetched (s : State) (c : Nat) (d : Desc) (t : Nat) (w : WorkCounter) : State :=
  s.modTile (fetchTile d t) (fun e => e.modCounter ((s.ctx c).wcAt (fetchTile d t) d.jobWc) (fun _ => w))

section
variable {s : State} {c : Nat} {d : Desc} {t : Nat} {w : WorkCounter} (j : Job) (q : Nat)

/-- A number: the core holds it at its leaf node (R149, R160). -/
theorem fetchWork_of_number {n : Nat} (h : (jobCounter s c d (fetchTile d t)).fetch = (some n, w)) : s.fetchWork c d j t q =
    ((fetched s c d t w).tick.modSeat c t q (fun e => { e with
      work := some (d.ring, d.index, n, d.leafNode j n), attn := none, workStamp := s.free + 1 })).setProg c d.ring d.index
      (.job { j with joined := if j.joined.contains (t, q) then j.joined else j.joined ++ [(t, q)] }) := by
  simp only [jobCounter, fetchTile] at h
  simp only [State.fetchWork, h]
  rfl

/-- EXHAUSTED: the core leaves the descriptor (R156). -/
theorem fetchWork_of_exhausted (h : (jobCounter s c d (fetchTile d t)).fetch = (none, w)) : s.fetchWork c d j t q =
    (fetched s c d t w).setProg c d.ring d.index (.job { j with left := j.left ++ [(t, q)] }) := by
  simp only [jobCounter, fetchTile] at h
  simp only [State.fetchWork, h]
  rfl

end

section
variable (s : State) (c : Nat) (d : Desc) (j : Job) (t q : Nat)

/-- However it is answered, a fetch changes the one counter alone of the tiles, and no memory. -/
theorem fetchWork_tiles : (s.fetchWork c d j t q).mem = s.mem ∧
    (s.fetchWork c d j t q).tiles = (fetched s c d t (jobCounter s c d (fetchTile d t)).fetch.2).tiles := by
  cases h : (jobCounter s c d (fetchTile d t)).fetch with
  | mk got w =>
    cases got with
    | none => rw [fetchWork_of_exhausted j q h]; exact ⟨rfl, rfl⟩
    | some n => rw [fetchWork_of_number j q h]; exact ⟨rfl, rfl⟩

theorem tile_fetchWork_other {i : Nat} (h : i ≠ fetchTile d t) : (s.fetchWork c d j t q).tile i = s.tile i := by
  rw [State.tile, (fetchWork_tiles s c d j t q).2]
  exact State.tile_modTile_other _ _ _ _ h

theorem tile_fetchWork_same : (s.fetchWork c d j t q).tile (fetchTile d t) =
    (s.tile (fetchTile d t)).modCounter ((s.ctx c).wcAt (fetchTile d t) d.jobWc)
      (fun _ => (jobCounter s c d (fetchTile d t)).fetch.2) := by
  rw [State.tile, (fetchWork_tiles s c d j t q).2]
  exact State.tile_modTile_same _ _ _

/-- The counter that was asked is what the fetch leaves (R149). -/
theorem counter_fetchWork_same :
    ((s.fetchWork c d j t q).tile (fetchTile d t)).counter ((s.ctx c).wcAt (fetchTile d t) d.jobWc) =
      (jobCounter s c d (fetchTile d t)).fetch.2 := by
  rw [tile_fetchWork_same, counter_modCounter_same]

theorem counter_fetchWork_other {i : Nat} (h : i ≠ (s.ctx c).wcAt (fetchTile d t) d.jobWc) :
    ((s.fetchWork c d j t q).tile (fetchTile d t)).counter i = (s.tile (fetchTile d t)).counter i := by
  rw [tile_fetchWork_same, counter_modCounter_other _ _ _ _ h]

/-- A number that is fetched is what the seat works on (R149, R160). -/
theorem work_fetchWork {n : Nat} (h : (jobCounter s c d (fetchTile d t)).fetch.1 = some n) :
    (((s.fetchWork c d j t q).ctx c).seat t q).work = some (d.ring, d.index, n, d.leafNode j n) := by
  rw [fetchWork_of_number j q (Prod.ext h rfl), seat_setProg, seat_modSeat_same]

end

/-- Settles O28: a TILED_GEMM that has room issues and starts; a fetch takes the head of the redo list, else NEXT, else the core leaves. -/
theorem tiledGemmAndCounterFetch : Obligations.TiledGemmAndCounterFetch := by
  refine ⟨fun s ref d hi hprog hplan hsrc hf hc hbusy hm hn hk hu hsl => ?_, fun s ref d j t q hd hrun hmay => ?_⟩
  · obtain ⟨u, honly, heq⟩ := tiledStarted_only _ _ _ hi
    refine ⟨_, { tiledJob d.tiled (fld (d.word 8) 0 24) (fld (d.word 8) 24 24) (fld (d.word 9) 0 24) with started := true },
      exec_tiledGemm_of_room hi hprog hplan rfl hf hc hbusy hm hn hk hu hsl, ?_, rfl, rfl, rfl, rfl, rfl, rfl, fun t ht => ?_,
      fun t ht => slices_tiledStarted _ _ _ hi ht, ?_, fun k hk => ?_⟩
    · rw [heq]
      exact desc_setProg ((desc_of_onlyTiles honly ref).trans (desc_begun hi.1)) _
    · obtain ⟨a, b, hcnt⟩ := counter_tiledStarted _ _ _ hi ht
      rw [hcnt]
      exact ⟨rfl, rfl, rfl⟩
    · rw [heq, State.setProg_mem, mem_of_onlyTiles honly]
      rfl
    · rw [heq, (State.setProg_onlyCtx u ref.ctx _ _ _).2 k hk, ctx_of_onlyTiles honly, ctx_begun_other _ _ _ hk]
  · obtain ⟨hr, hx⟩ := desc_is hd
    have hsame := counter_fetchWork_same s ref.ctx d j t q
    refine ⟨_, exec_workCounterFetch_of_mayFetch hd hrun hmay, (fetchWork_tiles s ref.ctx d j t q).1,
      fun i hi => tile_fetchWork_other s ref.ctx d j t q hi, fun i hi => counter_fetchWork_other s ref.ctx d j t q hi,
      fun n r hredo => ?_, fun hredo hlt => ?_, fun hredo hle => ?_⟩
    · have hf := fetch_of_redo (k := jobCounter s ref.ctx d (fetchTile d t)) hredo
      rw [← hr, ← hx]
      exact ⟨hsame.trans (congrArg Prod.snd hf), work_fetchWork s ref.ctx d j t q (congrArg Prod.fst hf)⟩
    · have hf := fetch_of_next (k := jobCounter s ref.ctx d (fetchTile d t)) hredo hlt
      rw [← hr, ← hx]
      exact ⟨hsame.trans (congrArg Prod.snd hf), work_fetchWork s ref.ctx d j t q (congrArg Prod.fst hf)⟩
    · have hf := fetch_of_exhausted (k := jobCounter s ref.ctx d (fetchTile d t)) hredo hle
      refine ⟨hsame.trans (congrArg Prod.snd hf), ?_, ?_⟩ <;> rw [fetchWork_of_exhausted j q hf]
      · rw [ctx_setProg]; rfl
      · exact desc_setProg_own (s := fetched s ref.ctx d t _) hd _

end Sys2Proof.TilingWork
end

section
/-! PROOFS. Node marks and the start of a section (R160, R161, R164, R203). -/
namespace Sys2Proof.TilingWork
open Sys2Proof.Machine Sys2Proof.MatrixArray Sys2Proof.VectorStreams

/-! ### A seat's and a descriptor's part of a mark -/

/-- The seat is free: nothing of a work tile, clear accumulator sets (R90). -/
def freedSeat (e : Seat) : Seat := { e with work := none, pes := e.pes.map (fun p => (p.1, { Pe.reset with shadow := p.2.shadow })) }

theorem seat_setJob (s : State) (c : Nat) (d : Desc) (j : Job) (t q : Nat) : ((s.setJob c d j).ctx c).seat t q = (s.ctx c).seat t q :=
  seat_setProg _ _ _ _ _ _ _

theorem tile_setJob (s : State) (c : Nat) (d : Desc) (j : Job) (t : Nat) : (s.setJob c d j).tile t = s.tile t := rfl

theorem endWork_eq (c t q : Nat) (s : State) : endWork c t q s = .ok () (s.modSeat c t q freedSeat) := rfl

/-- The descriptor's progress, and the status that ends it once everything is marked (R161). -/
def markStop (d : Desc) (j : Job) : Option Stop := if d.allMarked j then some ⟨0, d.jobResult j⟩ else none

theorem markEnd_eq (c : Nat) (d : Desc) (j : Job) (s : State) : markEnd c d j s = .ok (markStop d j) (s.setJob c d j) := by
  have hset : (modify (fun s => s.setJob c d j) : Act Unit) s = .ok () (s.setJob c d j) := rfl
  rw [markEnd, bind_of_ok hset, markStop]
  cases d.allMarked j <;> rfl

/-- The descriptor with its progress kept, or ended with 0x00 and its RESULT once everything is marked. -/
theorem desc_settle_markStop {s : State} {ref : DescRef} {d e : Desc} (j : Job) (hr : d.ring = ref.ring) (hx : d.index = ref.index)
    (h : s.desc ref = some e) :
    (State.settle ref.ctx ref.ring ref.index (.ok (markStop d j) (s.setJob ref.ctx d j))).desc ref =
      some (if d.allMarked j then { e with st := .done, status := 0x00, result := d.jobResult j, prog := .none } else { e with prog := .job j }) := by
  have hset : (s.setJob ref.ctx d j).desc ref = some { e with prog := .job j } := by
    rw [State.setJob, hr, hx, desc_setProg h]
  cases hall : d.allMarked j with
  | false => rw [markStop, hall]; exact hset
  | true =>
    rw [markStop, hall]
    refine (desc_finish hset _).trans ?_
    rw [endedDesc_eq _ _ rfl rfl]
    rfl

/-! Whether the descriptor goes on or ends, its seats, the tiles and memory are left. -/

theorem seat_settle_ok (s : State) (c r : Nat) (i : Word) (o : Option Stop) (t q : Nat) :
    ((State.settle c r i (.ok o s)).ctx c).seat t q = (s.ctx c).seat t q := by
  cases o with
  | none => rfl
  | some st => exact seat_finish _ _ _ _ _ _ _

theorem tiles_settle_ok (s : State) (c r : Nat) (i : Word) (o : Option Stop) : (State.settle c r i (.ok o s)).tiles = s.tiles := by
  cases o <;> rfl

theorem mem_settle_ok (s : State) (c r : Nat) (i : Word) (o : Option Stop) : (State.settle c r i (.ok o s)).mem = s.mem := by
  cases o <;> rfl

/-! ### Marking (R161) -/

/-- A duplicate is counted on the home tile and in the descriptor, and its core is free (R161). -/
def duplicateMarked (s : State) (c : Nat) (d : Desc) (j : Job) (t q : Nat) : State :=
  ((s.modTile d.jobHome (fun e => { e with dupCnt := satInc e.dupCnt })).modSeat c t q freedSeat).setJob c d { j with dups := j.dups + 1 }

/-- A set bit: the work is a duplicate and is discarded (R161). -/
theorem markNode_of_set {w : Who} {d : Desc} {j : Job} {n node : Nat} (t q : Nat) (h : j.bits.contains (d.bitOf j n node) = true) (s : State) :
    markNode w d j t q n node s = .ok (markStop d { j with dups := j.dups + 1 }) (duplicateMarked s w.ctx d j t q) := by
  have hcount : (modify (fun s => s.modTile d.jobHome (fun e => { e with dupCnt := satInc e.dupCnt })) : Act Unit) s =
      .ok () (s.modTile d.jobHome (fun e => { e with dupCnt := satInc e.dupCnt })) := rfl
  simp only [markNode, h, if_true]
  rw [bind_of_ok hcount, bind_of_ok (endWork_eq _ _ _ _), markEnd_eq]
  rfl

/-- A new bit of the root: the core is free (R161). -/
theorem markNode_of_root {w : Who} {d : Desc} {j : Job} {n : Nat} (t q : Nat) (h : d.bitOf j n 1 ∉ j.bits) (s : State) :
    markNode w d j t q n 1 s = .ok (markStop d { j with bits := j.bits ++ [d.bitOf j n 1] })
      ((s.modSeat w.ctx t q freedSeat).setJob w.ctx d { j with bits := j.bits ++ [d.bitOf j n 1] }) := by
  have hnew : j.bits.contains (d.bitOf j n 1) = false := by simpa using h
  simp only [markNode, hnew, Bool.false_eq_true, if_false, if_true]
  rw [bind_of_ok (endWork_eq _ _ _ _), markEnd_eq]

/-- At a node above its leaf the core only marks. -/
theorem unitNodeMark_of_inner {c t q n node : Nat} {d : Desc} {j : Job} (hrun : d.running = some j) (h : node ≠ d.leafNode j n) (s : State) :
    unitNodeMark c t q n node d s = markNode (d.whoAt c t q) d j t q n node s := by
  simp only [unitNodeMark, hrun, h, if_false]

/-- At its leaf the core computes the work tile, and marks if nothing is waited for; its work area is unspecified (R203). -/
theorem unitNodeMark_of_leaf {c t q n node : Nat} {d : Desc} {j j1 : Job} {s s1 : State} (hrun : d.running = some j)
    (h : node = d.leafNode j n)
    (hleaf : runLeaf (d.whoAt c t q) d j n (s.modSeat c t q (fun e => { e with workStamp := s.free })) = .ok (some j1) s1) :
    unitNodeMark c t q n node d s =
      markNode (d.whoAt c t q) d j1 t q n node (s1.modSeat c t q (fun e => { e with workStamp := s1.free })) := by
  have hbefore : (modify (fun s => s.modSeat c t q (fun e => { e with workStamp := s.free })) : Act Unit) s =
      .ok () (s.modSeat c t q (fun e => { e with workStamp := s.free })) := rfl
  have hafter : (modify (fun s => s.modSeat c t q (fun e => { e with workStamp := s.free })) : Act Unit) s1 =
      .ok () (s1.modSeat c t q (fun e => { e with workStamp := s1.free })) := rfl
  simp only [unitNodeMark, hrun, if_pos h]
  rw [bind_of_ok hbefore, bind_of_ok hleaf]
  dsimp only
  rw [bind_of_ok hafter]

section
variable {s : State} {ref : DescRef} {d : Desc} {j : Job} {t q n node : Nat} (hd : s.desc ref = some d) (hrun : d.running = some j)
  (hwork : ((s.ctx ref.ctx).seat t q).work = some (ref.ring, ref.index, n, node)) (hcores : (s.ctx ref.ctx).coresRun = true)
  (hplaced : ((s.ctx ref.ctx).coreOf t q).isSome)
include hd hrun hwork hcores hplaced

theorem exec_nodeMark_of_work : exec (.nodeMark ref t q) s =
    .next (State.settle ref.ctx ref.ring ref.index (unitNodeMark ref.ctx t q n node d s.tick)) := by
  have hexec : exec (.nodeMark ref t q) s = execNodeMark ref t q s := rfl
  rw [hexec, execNodeMark, hwork, hd]
  simp only [hrun, hcores, hplaced, Option.isSome_some, and_self, if_true]

/-- A core at an inner node that is marked already discards its work, and the descriptor goes on (R161). -/
theorem exec_nodeMark_of_set (hinner : node ≠ d.leafNode j n) (hset : j.bits.contains (d.bitOf j n node) = true)
    (hall : d.allMarked j = false) :
    exec (.nodeMark ref t q) s = .next (duplicateMarked s.tick ref.ctx d j t q) := by
  have hmore : d.allMarked { j with dups := j.dups + 1 } = false := hall
  have hgoes : markStop d { j with dups := j.dups + 1 } = none := by rw [markStop, hmore]; rfl
  rw [exec_nodeMark_of_work hd hrun hwork hcores hplaced, unitNodeMark_of_inner hrun hinner, markNode_of_set t q hset, hgoes]
  rfl

/-- A work tile of one node whose computation has passed: the root is marked, the core is free, its work area unspecified (R161, R203). -/
theorem exec_nodeMark_of_root {s1 : State} {j1 : Job} (hnode : node = 1) (hleaf : d.leafNode j n = 1)
    (hrunLeaf : runLeaf (d.whoAt ref.ctx t q) d j n (s.tick.modSeat ref.ctx t q (fun k => { k with workStamp := s.tick.free })) =
      .ok (some j1) s1) (hnew : d.bitOf j1 n 1 ∉ j1.bits) :
    let j2 := { j1 with bits := j1.bits ++ [d.bitOf j1 n 1] }
    exec (.nodeMark ref t q) s = .next (State.settle ref.ctx ref.ring ref.index (.ok (markStop d j2)
      (((s1.modSeat ref.ctx t q (fun e => { e with workStamp := s1.free })).modSeat ref.ctx t q freedSeat).setJob ref.ctx d j2))) := by
  subst hnode
  rw [exec_nodeMark_of_work hd hrun hwork hcores hplaced, unitNodeMark_of_leaf hrun hleaf.symm hrunLeaf, markNode_of_root t q hnew]
  rfl

end

/-! ### Sections (R164) -/

/-- Saved cores of lost seats drop the descriptor's work tiles (R163). -/
def workDropped (s : State) (c : Nat) (d : Desc) : State := s.tick.modCtx c (fun x => x.dropWork d s.tick.free)

theorem desc_workDropped (s : State) (ref : DescRef) (d : Desc) : (workDropped s ref.ctx d).desc ref = s.desc ref := by
  rw [State.desc, workDropped, State.ctx_modCtx_same]
  rfl

theorem jobCounter_workDropped (s : State) (c : Nat) (d : Desc) (t : Nat) : jobCounter (workDropped s c d) c d t = jobCounter s c d t :=
  jobCounter_congr d (by rw [workDropped, State.ctx_modCtx_same]; rfl) rfl

/-- The next section: its bits clear, its numbers in the counters (R164). -/
def sectionStarted (s : State) (c : Nat) (d : Desc) (j : Job) : State :=
  ((workDropped s c d).setCounters c d (j.section_ + sectionSize) (min j.total (j.section_ + 2 * sectionSize))).setJob c d
    { j with section_ := j.section_ + sectionSize, bits := [], left := [] }

/-- A section whose work tiles are all marked, with more to come and units left, is followed by the next (R164). -/
theorem exec_sectionStart_of_room {s : State} {ref : DescRef} {d : Desc} {j : Job} (hd : s.desc ref = some d) (hrun : d.running = some j)
    (hop : d.opcode ≠ 0x303) (hbits : j.sectionTiles ≤ j.bits.length) (hmore : j.section_ + j.sectionTiles < j.total)
    (hu : s.unitsLack ref.ctx d (min j.total (j.section_ + 2 * sectionSize) - (j.section_ + sectionSize)) = false) :
    exec (.sectionStart ref) s = .next (sectionStarted s ref.ctx d j) := by
  have hexec : exec (.sectionStart ref) s = execSectionStart ref s := rfl
  have hend : j.section_ + sectionSize + sectionSize = j.section_ + 2 * sectionSize := by omega
  rw [hexec, execSectionStart, hd]
  simp only [hrun, hbits, hmore, hop, ne_eq, not_false_eq_true, and_self, if_true, State.startSection, hend, hu, Bool.false_eq_true, if_false]
  rfl

/-- With more work tiles than a section's the section is whole, and the next begins within the total. -/
theorem sectionEnd_lt_total {j : Job} (h : j.section_ + j.sectionTiles < j.total) : j.section_ + sectionSize < j.total := by
  rw [Job.sectionTiles] at h
  omega

section
variable (s : State) (ref : DescRef) {d : Desc} (j : Job)

theorem desc_sectionStarted (hd : s.desc ref = some d) : (sectionStarted s ref.ctx d j).desc ref =
    some { d with prog := .job { j with section_ := j.section_ + sectionSize, bits := [], left := [] } } := by
  refine desc_setProg_own ?_ _
  rw [desc_of_onlyTiles (setCounters_only _ _ _ _ _), desc_workDropped, hd]

theorem sectionStarted_mem : (sectionStarted s ref.ctx d j).mem = s.mem := by
  rw [sectionStarted, State.setJob, State.setProg_mem, mem_of_onlyTiles (setCounters_only _ _ _ _ _)]
  rfl

theorem ctx_sectionStarted_other {i : Nat} (hi : i ≠ ref.ctx) : (sectionStarted s ref.ctx d j).ctx i = s.ctx i := by
  rw [sectionStarted, State.setJob, (State.setProg_onlyCtx _ ref.ctx _ _ _).2 i hi, ctx_of_onlyTiles (setCounters_only _ _ _ _ _)]
  exact State.ctx_modCtx_other _ _ _ _ hi

/-- The shared counter serves the next section's numbers (R164). -/
theorem counter_sectionStarted (hmore : j.section_ + j.sectionTiles < j.total) (hsh : d.jobShared = true) :
    ((sectionStarted s ref.ctx d j).tile d.jobHome).counter ((s.ctx ref.ctx).wcAt d.jobHome d.jobWc) =
      { (s.tile d.jobHome).counter ((s.ctx ref.ctx).wcAt d.jobHome d.jobWc) with
        next := BitVec.ofNat 32 (j.section_ + sectionSize), limit := BitVec.ofNat 32 (min j.total (j.section_ + 2 * sectionSize)),
        step := 1, redo := [] } := by
  have hle : j.section_ + sectionSize ≤ min j.total (j.section_ + 2 * sectionSize) := by
    have := sectionEnd_lt_total hmore
    omega
  have hset := jobCounter_setCounters_shared (workDropped s ref.ctx d) ref.ctx d hle hsh
  rw [jobCounter_workDropped] at hset
  refine Eq.trans ?_ hset
  rw [jobCounter, ctx_of_onlyTiles (setCounters_only _ _ _ _ _), workDropped, State.ctx_modCtx_same]
  rfl

end

/-- Settles O29: a duplicate is counted and discarded, a root is marked after its computation, and a whole section is followed by the next. -/
theorem nodeMarksAndSections : Obligations.NodeMarksAndSections := by
  refine ⟨fun s ref d j t q n node hd hrun hwork hcores hplaced hinner hset hall => ?_,
    fun s s1 ref d e j j1 t q n hd hrun hwork hcores hplaced hleaf hrunLeaf he hnew => ?_,
    fun s ref d j hd hrun hop _ hbits hmore hu => ?_⟩
  · refine ⟨_, exec_nodeMark_of_set hd hrun hwork hcores hplaced hinner hset hall, ?_, ?_, ?_, rfl, desc_setProg_own ?_ _, fun i hi => ?_,
      fun i hi => ?_⟩
    · rw [duplicateMarked, tile_setJob, State.tile_modSeat, State.tile_modTile_same]; rfl
    · rw [duplicateMarked, seat_setJob, seat_modSeat_same]; rfl
    · rw [duplicateMarked, seat_setJob, seat_modSeat_same]; rfl
    · rw [desc_modSeat]; exact hd
    · rw [duplicateMarked, tile_setJob, State.tile_modSeat, State.tile_modTile_other _ _ _ _ hi]; rfl
    · rw [duplicateMarked, State.setJob, (State.setProg_onlyCtx _ ref.ctx _ _ _).2 i hi]
      exact State.ctx_modCtx_other _ _ _ _ hi
  · obtain ⟨hr, hx⟩ := desc_is hd
    refine ⟨_, exec_nodeMark_of_root hd hrun hwork hcores hplaced rfl hleaf hrunLeaf hnew, ?_, ?_, ?_, ?_,
      desc_settle_markStop _ hr hx (by rw [desc_modSeat, desc_modSeat, he])⟩
    · rw [seat_settle_ok, seat_setJob, seat_modSeat_same]; rfl
    · rw [seat_settle_ok, seat_setJob, seat_modSeat_same, seat_modSeat_same]; rfl
    · rw [mem_settle_ok]; rfl
    · rw [tiles_settle_ok]; rfl
  · exact ⟨_, exec_sectionStart_of_room hd hrun hop hbits hmore hu, desc_sectionStarted s ref j hd, counter_sectionStarted s ref j hmore,
      sectionStarted_mem s ref j, fun i hi => ctx_sectionStarted_other s ref j hi⟩

end Sys2Proof.TilingWork
end
